-- ==== Sys2Proof/Word.lean ====
section
/-! DEFINITION. The machine's word types (R3, R12, R20). -/

namespace Sys2Proof

/-- The unit of memory. -/
abbrev Byte := BitVec 8

/-- A scalar register, a virtual address, a system register (R87, R91, R109). -/
abbrev Word := BitVec 64

/-- One accumulator or scratchpad row of 512 bytes (R12, R170). -/
abbrev Row := BitVec 4096

end Sys2Proof
end

