-- ==== Sys2Proof/Syntax.lean ====
section
/-! DEFINITION. The abstract syntax: one constructor per row of the opcode table (R59-R70), the slot words first by slot, the
machine's events among them as the table orders them. A slot word's arguments are its encoding fields, as natural numbers under the
table's own letters; an event's arguments say which core, die, engine, host or entry it concerns. -/

namespace Sys2Proof

/-- Every instruction and event of the opcode table. Ill-formed terms exist; `Instr.wf` says which are instructions. -/
inductive Instr where
  /-- NOP (R24): All-zero slot word; does nothing in any slot. -/
  | nop
  /-- PBR (R102): Writes a branch-target register with the bundle address plus a signed bundle offset. -/
  | pbr (t i : Nat)
  /-- PBRR (R102): Writes a branch-target register with a scalar plus a signed bundle offset. -/
  | pbrr (t a i : Nat)
  /-- BR (R104): Unconditional branch to a branch-target register after two delay bundles. -/
  | br (t : Nat)
  /-- BRP (R104): Branch taken when the predicate xor neg holds, with two delay bundles. -/
  | brp (t p n : Nat)
  /-- CALL (R104): Conditional branch that writes the link into b7. -/
  | call (t p n : Nat)
  /-- RET (R104): Conditional branch to b7. -/
  | ret (p n : Nat)
  /-- LOOP (R105): Counted loop close: decrements by step and branches back without delay bundles while positive. -/
  | loop (t a s : Nat)
  /-- LOOPS (R106): Software-pipelined loop close: shifts stage predicates, steps ROTBASE and branches back. -/
  | loops (t a s : Nat)
  /-- VOTE_ANY (R107): Writes a predicate with the OR of a lane mask. -/
  | voteAny (p k : Nat)
  /-- VOTE_ALL (R107): Writes a predicate with the AND of a lane mask. -/
  | voteAll (p k : Nat)
  /-- CUE_PUSH (R318): Appends a copy of a cue record to a wing of the issuing core's die. -/
  | cuePush (a b : Nat)
  /-- CUE_FORK (R319): Raises the join counter and appends n copies of a template, or enqueues the continuation for a zero fork. -/
  | cueFork (a b : Nat)
  /-- CUE_EXIT (R320): Drains engines and stores, leaves ensembles, runs the join step and idles the core. -/
  | cueExit
  /-- CUE_SELF (R321): Writes the address of the running cue's record slot to a scalar. -/
  | cueSelf (a : Nat)
  /-- ENS_JOIN (R323): Adds an ensemble to the cue's list and increments its count at the house die. -/
  | ensJoin (a : Nat)
  /-- ENS_LEAVE (R323): Removes an ensemble from the cue's list and decrements its count. -/
  | ensLeave (a : Nat)
  /-- ENS_SIZE (R323): Returns an ensemble's member count as the house die holds it. -/
  | ensSize (a b : Nat)
  /-- MARK_INIT (R327): Initialises a mark of the issuing core with an expected count. -/
  | markInit (a m : Nat)
  /-- MARK_INIT_ENS (R327): Initialises a mark of the issuing core bound to an ensemble. -/
  | markInitEns (a m : Nat)
  /-- MARK_ARRIVE (R328): After earlier stores perform, increments a mark's ARRIVED at its home and tests for completion. -/
  | markArrive (a m : Nat)
  /-- MARK_WAIT (R329): Obtains the home's GEN and keeps the next bundle from issuing until GEN changes. -/
  | markWait (a m : Nat)
  /-- MARK_AWAIT (R329): Arrives at a mark and waits until the phase it arrived in completes. -/
  | markAwait (a m : Nat)
  /-- ENSEMBLE_COUNT_NOTICE (R325): A home that binds an ensemble receives its changed count and tests its bound marks for completion. -/
  | ensembleCountNotice (home ens : Nat)
  /-- WAITA (R331): Stalls before issue until a memory word meets a signed condition against a scalar. -/
  | waita (a b c : Nat)
  /-- WAITA_RETEST (R331): A write reaching the waited line wakes the core to test the WAITA condition again. -/
  | waitaRetest (core : Nat)
  /-- TRAP (R350): Performs its bundle and then takes a trap with CODE 17. -/
  | trap (i : Nat)
  /-- ERET (R351): Drains handler results, restores mode and resumes at FAULTPC with the delay state and trap capture replayed. -/
  | eret
  /-- HALT (R352): Drains results and engines, then stops the core for good. -/
  | halt
  /-- SYSRD (R108): Reads a system register into a scalar. -/
  | sysrd (a n : Nat)
  /-- SYSWR (R108): Writes a scalar into a system register that has no behaviour of its own. -/
  | syswr (a n : Nat)
  /-- NOPRE_WRITE (R85): A SYSWR to NOPRE opens or closes a non-pre-emptible region. -/
  | nopreWrite (a n : Nat)
  /-- NOPRE_TIMEOUT (R85): A region still open 65,536 cycles after it opened is closed by the part, setting NOPREOVER. -/
  | nopreTimeout (core : Nat)
  /-- STICKY_WRITE (R111): Writing 1 to a STICKY flag clears it. -/
  | stickyWrite (a n : Nat)
  /-- EVSEL_WRITE (R112): Writes event selection and enable; CLEAR zeroes the paired counter. -/
  | evselWrite (a n : Nat)
  /-- ROOT_WRITE (R358): A SYSWR to DROOT or IROOT waits for stores, then drops the core and die TLB entries of that space. -/
  | rootWrite (a n : Nat)
  /-- DUETCTL_WRITE (R217): A SYSWR to DUETCTL stalls until the queue is empty and nothing is away, then sets the pairing request. -/
  | duetctlWrite (a n : Nat)
  /-- ADMIT (R83): Starts the audition of a segment: serialises, withdraws the range and checks header and text. -/
  | admitSeg (a b : Nat)
  /-- ADMIT_REPORT (R83): The audition ends: pages become executable or stay staged and REPORT is written as a release. -/
  | admitReport (job : Nat)
  /-- ADD (R92): Scalar add modulo 2^64. -/
  | add (d a b : Nat)
  /-- SUB (R92): Scalar subtract. -/
  | sub (d a b : Nat)
  /-- AND (R92): Scalar bitwise AND. -/
  | and (d a b : Nat)
  /-- OR (R92): Scalar bitwise OR. -/
  | or (d a b : Nat)
  /-- XOR (R92): Scalar bitwise XOR. -/
  | xor (d a b : Nat)
  /-- SHL (R92): Shift left by b[5:0]. -/
  | shl (d a b : Nat)
  /-- SHR (R92): Logical shift right by b[5:0]. -/
  | shr (d a b : Nat)
  /-- SRA (R92): Arithmetic shift right by b[5:0]. -/
  | sra (d a b : Nat)
  /-- MIN (R92): Signed minimum. -/
  | min (d a b : Nat)
  /-- MAX (R92): Signed maximum. -/
  | max (d a b : Nat)
  /-- MINU (R92): Unsigned minimum. -/
  | minu (d a b : Nat)
  /-- MAXU (R92): Unsigned maximum. -/
  | maxu (d a b : Nat)
  /-- CLZ (R92): Counts leading zero bits. -/
  | clz (d a : Nat)
  /-- POPC (R92): Counts one bits. -/
  | popc (d a : Nat)
  /-- SEL (R92): Selects a or b by a predicate. -/
  | sel (d a b p : Nat)
  /-- MUL (R92): Low 64 bits of the product. -/
  | mul (d a b : Nat)
  /-- MULH (R92): High 64 bits of the signed product. -/
  | mulh (d a b : Nat)
  /-- MULHU (R92): High 64 bits of the unsigned product. -/
  | mulhu (d a b : Nat)
  /-- DIV (R93): Signed quotient with fixed results for zero divisor and overflow. -/
  | div (d a b : Nat)
  /-- DIVU (R93): Unsigned quotient. -/
  | divu (d a b : Nat)
  /-- REM (R93): Signed remainder. -/
  | rem (d a b : Nat)
  /-- REMU (R93): Unsigned remainder. -/
  | remu (d a b : Nat)
  /-- CMP (R95): Writes a predicate with a register comparison. -/
  | cmp (d a b c : Nat)
  /-- PAND (R96): Predicate AND. -/
  | pand (d a b : Nat)
  /-- POR (R96): Predicate OR. -/
  | por (d a b : Nat)
  /-- PXOR (R96): Predicate XOR. -/
  | pxor (d a b : Nat)
  /-- PNOT (R96): Predicate NOT. -/
  | pnot (d a : Nat)
  /-- ADDI (R94): Adds a signed 16-bit immediate. -/
  | addi (d a i : Nat)
  /-- ANDI (R94): ANDs a zero-extended immediate. -/
  | andi (d a i : Nat)
  /-- ORI (R94): ORs a zero-extended immediate. -/
  | ori (d a i : Nat)
  /-- XORI (R94): XORs a zero-extended immediate. -/
  | xori (d a i : Nat)
  /-- SHLI (R94): Shift left by an immediate count. -/
  | shli (d a n : Nat)
  /-- SHRI (R94): Logical shift right by an immediate count. -/
  | shri (d a n : Nat)
  /-- SRAI (R94): Arithmetic shift right by an immediate count. -/
  | srai (d a n : Nat)
  /-- MOVI (R94): Writes a sign-extended 21-bit immediate. -/
  | movi (d i : Nat)
  /-- MOVHI (R94): Shifts a left by 16 and inserts a 16-bit immediate. -/
  | movhi (d a i : Nat)
  /-- CMPI (R95): Writes a predicate with a comparison against a signed 13-bit immediate. -/
  | cmpi (d a c i : Nat)
  /-- LDS (R97): Loads 1 to 8 bytes from the core's scratchpad, zero-extended. -/
  | lds (d a z i : Nat)
  /-- STS (R97): Stores 1 to 8 bytes to the core's scratchpad. -/
  | sts (d a z i : Nat)
  /-- LDG (R98): Loads from the data virtual space, optionally as an acquire. -/
  | ldg (d a b s o z : Nat)
  /-- STG (R98): Stores to the data virtual space, optionally as a release, with a completion into sd. -/
  | stg (d a b s o z : Nat)
  /-- SCALAR_ACCESS_COMPLETE (R54): A global scalar access's value or completion arrives and frees its destination register. -/
  | scalarAccessComplete (core idx : Nat)
  /-- AMO_ADD (R99): Atomic add returning the old value. -/
  | amoAdd (d a b s o w : Nat)
  /-- AMO_SWAP (R99): Atomic swap. -/
  | amoSwap (d a b s o w : Nat)
  /-- AMO_CAS (R99): Atomic compare-and-swap with replacement from sd. -/
  | amoCas (d a b s o w : Nat)
  /-- AMO_MIN (R99): Atomic signed minimum. -/
  | amoMin (d a b s o w : Nat)
  /-- AMO_MAX (R99): Atomic signed maximum. -/
  | amoMax (d a b s o w : Nat)
  /-- AMO_AND (R99): Atomic AND. -/
  | amoAnd (d a b s o w : Nat)
  /-- AMO_OR (R99): Atomic OR. -/
  | amoOr (d a b s o w : Nat)
  /-- FADD (R100): Scalar FP32 or FP64 addition in a chosen rounding. -/
  | fadd (d a b p r : Nat)
  /-- FMUL (R100): Scalar FP32 or FP64 multiplication. -/
  | fmul (d a b p r : Nat)
  /-- FCVT_I (R101): Converts FP to a signed 64-bit integer, saturating. -/
  | fcvtI (d a p r : Nat)
  /-- FCVT_F (R101): Converts a signed 64-bit integer to FP. -/
  | fcvtF (d a p r : Nat)
  /-- RESULT_LAND (R43): An exposed result lands at the boundary L bundles after issue, writing its destination, flags and bypass latch. -/
  | resultLand (core : Nat)
  /-- VADD (R179): Vector FP add. -/
  | vadd (d a b g w : Nat)
  /-- VSUB (R179): Vector FP subtract. -/
  | vsub (d a b g w : Nat)
  /-- VMIN (R179): Vector FP minimum. -/
  | vmin (d a b g w : Nat)
  /-- VMAX (R179): Vector FP maximum. -/
  | vmax (d a b g w : Nat)
  /-- VABS (R179): Vector absolute value. -/
  | vabs (d a g w : Nat)
  /-- VNEG (R179): Vector negation. -/
  | vneg (d a g w : Nat)
  /-- VMUL (R179): Vector FP multiply. -/
  | vmul (d a b g w : Nat)
  /-- VFMA (R179): Vector fused multiply-add with the addend read through d6. -/
  | vfma (d a b g w : Nat)
  /-- VFMS (R179): Vector fused multiply-subtract. -/
  | vfms (d a b g w : Nat)
  /-- VRCP (R180): Vector reciprocal, correctly rounded. -/
  | vrcp (d a g w : Nat)
  /-- VRSQ (R180): Vector reciprocal square root. -/
  | vrsq (d a g w : Nat)
  /-- VSQRT (R180): Vector square root. -/
  | vsqrt (d a g w : Nat)
  /-- VEXP2 (R180): Vector base-2 exponential. -/
  | vexp2 (d a g w : Nat)
  /-- VLOG2 (R180): Vector base-2 logarithm. -/
  | vlog2 (d a g w : Nat)
  /-- VTANH (R180): Vector hyperbolic tangent within one ulp. -/
  | vtanh (d a g w : Nat)
  /-- VIADD (R179): Saturating INT32 vector add. -/
  | viadd (d a b g w : Nat)
  /-- VISUB (R179): Saturating INT32 vector subtract. -/
  | visub (d a b g w : Nat)
  /-- VIMUL (R179): Saturating INT32 vector multiply. -/
  | vimul (d a b g w : Nat)
  /-- VIMIN (R179): INT32 vector minimum. -/
  | vimin (d a b g w : Nat)
  /-- VIMAX (R179): INT32 vector maximum. -/
  | vimax (d a b g w : Nat)
  /-- VAND (R179): Bitwise AND over the row. -/
  | vand (d a b g w : Nat)
  /-- VOR (R179): Bitwise OR over the row. -/
  | vor (d a b g w : Nat)
  /-- VXOR (R179): Bitwise XOR over the row. -/
  | vxor (d a b g w : Nat)
  /-- VSHL (R179): INT32 lane shift left by an immediate. -/
  | vshl (d a i g w : Nat)
  /-- VSHR (R179): INT32 lane logical shift right. -/
  | vshr (d a i g w : Nat)
  /-- VSRA (R179): INT32 lane arithmetic shift right. -/
  | vsra (d a i g w : Nat)
  /-- VCMP (R181): Writes a lane mask with a per-lane comparison. -/
  | vcmp (k a b g c w : Nat)
  /-- VSEL (R181): Selects lanes of a or b by a lane mask. -/
  | vsel (d a b g k w : Nat)
  /-- VKAND (R181): Lane-mask AND. -/
  | vkand (d a b g w : Nat)
  /-- VKOR (R181): Lane-mask OR. -/
  | vkor (d a b g w : Nat)
  /-- VKNOT (R181): Lane-mask NOT. -/
  | vknot (d a g w : Nat)
  /-- VCVT (R182): Converts lanes to a target format under a rounding mode. -/
  | vcvt (d a f g r w : Nat)
  /-- VBCAST (R183): Broadcasts lane 0. -/
  | vbcast (d a g w : Nat)
  /-- VMOV (R183): Copies a row with its tag. -/
  | vmov (d a g w : Nat)
  /-- VIOTA (R183): Writes lane indices as INT32. -/
  | viota (d g w : Nat)
  /-- VSHUF (R183): Permutes lanes by an index row. -/
  | vshuf (d a b g w : Nat)
  /-- VSLIDE_UP (R183): Slides lanes towards higher lanes. -/
  | vslideUp (d a i g w : Nat)
  /-- VSLIDE_DN (R183): Slides lanes towards lower lanes. -/
  | vslideDn (d a i g w : Nat)
  /-- VRED (R184): Reduces all lanes and broadcasts the result. -/
  | vred (d a o g w : Nat)
  /-- VSCAN (R184): Inclusive prefix reduction over lanes. -/
  | vscan (d a o g w : Nat)
  /-- VSEGRED (R184): Segmented prefix reduction with segment heads. -/
  | vsegred (d a b g o w : Nat)
  /-- VSORT_ASC (R185): Stable ascending sort of keys with a permuted payload into q0. -/
  | vsortAsc (d a b g w : Nat)
  /-- VSORT_DESC (R185): Stable descending sort of keys with payload. -/
  | vsortDesc (d a b g w : Nat)
  /-- VCOMPACT (R186): Packs the lanes selected by a mask to the low lanes. -/
  | vcompact (d a k g w : Nat)
  /-- VEXPAND (R186): Spreads successive lanes into the mask-selected lanes. -/
  | vexpand (d a k g w : Nat)
  /-- VDELTA (R187): Updates a reference row and outputs thresholded deltas. -/
  | vdelta (d a b g w : Nat)
  /-- VROPE (R188): Rotates lane pairs by position-dependent angles. -/
  | vrope (d a b g w : Nat)
  /-- VSMAX (R189): Forms softmax numerators exp2(a - max). -/
  | vsmax (d a b g w : Nat)
  /-- VLD (R190): Loads a 512-byte scratchpad row into a vector register or port. -/
  | vld (d a i g w : Nat)
  /-- VST (R190): Stores a vector row to the scratchpad. -/
  | vst (s a i g w : Nat)
  /-- VMOVS (R191): Moves one lane to a scalar register. -/
  | vmovs (d a i g w : Nat)
  /-- VINS (R191): Inserts a scalar into one lane. -/
  | vins (d a i g w : Nat)
  /-- MLATCH (R199): Queues a copy of a tile into a stationary latch. -/
  | mlatch (a l : Nat)
  /-- MLATCH_X (R200): Queues the expansion of a PACKED tile into a latch through a pattern context. -/
  | mlatchX (a l g : Nat)
  /-- MMA (R201): Queues a matrix multiply of A by a latch into D with optional accumulate, negate and addend. -/
  | mma (d a l c h x u n q : Nat)
  /-- MZERO (R206): Queues clearing of a tile's storage. -/
  | mzero (d : Nat)
  /-- MTRANS (R207): Queues a byte-moving transpose. -/
  | mtrans (d a : Nat)
  /-- MCAST (R208): Queues a format or layout conversion. -/
  | mcast (d a r : Nat)
  /-- MSAVE (R211): Stops and writes every older incomplete matrix command and the latches to a save tile. -/
  | msave (s : Nat)
  /-- MRESUME (R212): Checks a saved engine image and re-enters its commands at the head of the queue. -/
  | mresume (s : Nat)
  /-- MSYNC (R213): Stalls until the matrix queue is empty, nothing is away and all flags are set. -/
  | msync
  /-- MPROBE (R213): Returns the matrix engine state word into a scalar. -/
  | mprobe (d : Nat)
  /-- M_COMMAND_START (R197): The matrix array starts the next queued command once older ones have completed or migrated. -/
  | mCommandStart (core : Nat)
  /-- M_COMMAND_COMPLETE (R197): A matrix command writes its last byte and flags, clearing its busy ranges. -/
  | mCommandComplete (core : Nat)
  /-- MIGRATION (R214): A long-waiting migratable MMA moves to an idle neighbour's array. -/
  | migration (core : Nat)
  /-- RECALL (R215): A migrated command is recalled at a row boundary to the head of the home queue. -/
  | recall (core : Nat)
  /-- DUET_WINDOW_SWITCH (R217): Every 64 cycles the shared array switches between owner and partner. -/
  | duetWindowSwitch (core : Nat)
  /-- TLOAD (R271): Loads a window sub-block into a tile, optionally transposed. -/
  | tload (t w c g x : Nat)
  /-- TSTORE (R271): Stores a tile into a window, optionally transposed or reducing. -/
  | tstore (t w c g r x s : Nat)
  /-- TLOAD_IX (R272): Loads window rows chosen by an index tile from HBM or the loft. -/
  | tloadIx (t w i g : Nat)
  /-- GATHER (R272): Gathers indexed window rows into a tile through the NoC interface. -/
  | gather (t w i g s : Nat)
  /-- SCATTER (R272): Scatters tile rows to indexed window rows, optionally reducing. -/
  | scatter (t w i g r s : Nat)
  /-- COPY (R273): Copies raw bytes between virtual addresses. -/
  | copy (l w c g s : Nat)
  /-- TSEND (R274): Writes a tile's payload and typed header into a mailbox. -/
  | tsend (t w g s : Nat)
  /-- TRECV (R274): Checks a mailbox header and copies its payload into a tile. -/
  | trecv (t w g : Nat)
  /-- SIGNAL (R275): Writes a value to a completion word after earlier K commands and stores, as a release. -/
  | signal (v g s : Nat)
  /-- DRAIN (R276): Stalls until earlier K commands complete and earlier stores perform at its scope. -/
  | drain (s : Nat)
  /-- KSAVE (R277): Stops an engine and writes its incomplete commands to an image. -/
  | ksave (w : Nat)
  /-- KRESUME (R277): Checks an engine image and re-enters its commands. -/
  | kresume (w : Nat)
  /-- PREFETCH_UP (R278): Copies 8 KiB granules from the loft to HBM. -/
  | prefetchUp (w c g : Nat)
  /-- PREFETCH_DN (R278): Copies 8 KiB granules from HBM to the loft. -/
  | prefetchDn (w c g : Nat)
  /-- ROUTE (R279): Sends token-score pairs with a capacity to expert homes. -/
  | route (t w g : Nat)
  /-- ROUTE_CLOSE (R281): Closes a routing round: sorts heaps, writes counts and enqueues expert cues. -/
  | routeClose (w g : Nat)
  /-- ROUTE_PAIR_ARRIVAL (R280): A routed pair arrives at the home and is inserted, replaces an entry or is rejected. -/
  | routePairArrival (core eng : Nat)
  /-- K_COMMAND_START (R265): A copy engine starts its next queued command. -/
  | kCommandStart (core eng : Nat)
  /-- K_COMMAND_COMPLETE (R266): A copy command finishes its writes, clears its ranges and writes its completion word as a release. -/
  | kCommandComplete (core eng : Nat)
  /-- PIT_SCALEADD (R289): Adds A·x into N DRAM rows at a pit engine. -/
  | pitScaleadd (t w g : Nat)
  /-- PIT_ATOMADD (R290): Makes return-free FP32 additions at indexed words. -/
  | pitAtomadd (t w g : Nat)
  /-- PIT_ATTN (R291): Runs decode attention for one head at a pit engine. -/
  | pitAttn (t w g : Nat)
  /-- PIT_FENCE (R292): Waits until earlier pit commands of the core complete, then releases its completion word. -/
  | pitFence (g : Nat)
  /-- PIT_XLOAD (R294): Loads translation-memory entries into a pit engine. -/
  | pitXload (t w g : Nat)
  /-- PIT_XLOCK (R295): Sets lock bits of translation-memory entries. -/
  | pitXlock (w g : Nat)
  /-- PIT_XUNLOCK (R295): Clears lock bits of translation-memory entries. -/
  | pitXunlock (w g : Nat)
  /-- PIT_DISPATCH (R287): The copy engine translates a pit command's addresses and sends it to its pit engine. -/
  | pitDispatch (core eng : Nat)
  /-- PIT_COMMAND_RUN (R287): A pit engine takes the next command from its queue and runs it. -/
  | pitCommandRun (pit : Nat)
  /-- PIT_COMMAND_COMPLETE (R287): A pit command's writes perform or it aborts, and its status goes to its completion word. -/
  | pitCommandComplete (pit : Nat)
  /-- PIT_SUSPEND (R298): An ordinary access arriving in the channel suspends the pit command at the end of its row operation. -/
  | pitSuspend (pit : Nat)
  /-- PIT_RESUME (R298): After 8 ns with no ordinary request the pit command resumes. -/
  | pitResume (pit : Nat)
  /-- PIT_WINDOW_END (R298): At the end of a 64 ns window a pit command re-arbitrates for the channel. -/
  | pitWindowEnd (pit : Nat)
  /-- PIT_STATUS_ARRIVAL (R296): A trapping pit status reaches the issuing core and is taken at the next boundary or held. -/
  | pitStatusArrival (idx : Nat)
  /-- TDEF (R151): Writes a tile's type word from memory. -/
  | tdef (t a : Nat)
  /-- TBIND (R152): Writes a tile's binding after checking it. -/
  | tbind (t a : Nat)
  /-- TRESHAPE (R154): Gives a tile a new type over another tile's binding, possibly binding one variable. -/
  | treshape (t a b : Nat)
  /-- TTRANSPOSE (R155): Writes the transpose view of a tile. -/
  | ttranspose (t a : Nat)
  /-- TCAST (R156): Reinterprets a tile under a new format of equal width. -/
  | tcast (t a f : Nat)
  /-- TTYPE (R158): Stores a tile's type word and binding to memory. -/
  | ttype (t a : Nat)
  /-- TCHECK (R159): Tests a tile against a window record and binds the variables it pins. -/
  | tcheck (t a : Nat)
  /-- DV_SET (R160): Binds a dimension variable to a value. -/
  | dvSet (n b : Nat)
  /-- DV_GET (R161): Reads a dimension variable's value into a scalar. -/
  | dvGet (d n : Nat)
  /-- DV_CLEAR (R162): Unbinds a dimension variable. -/
  | dvClear (n : Nat)
  /-- DV_BOUND (R163): Sets a dimension variable's declared bound. -/
  | dvBound (n b : Nat)
  /-- ACC_ALLOC (R165): Claims and zeroes a run of free accumulator banks, returning the first or a status. -/
  | accAlloc (d a : Nat)
  /-- ACC_FREE (R166): Frees held banks after busy ranges clear, clearing an overlapping window. -/
  | accFree (a b : Nat)
  /-- ACC_WIN (R169): Maps the 48-row vector window and tags its rows. -/
  | accWin (a f : Nat)
  /-- PG_LOAD (R233): Copies a pattern block into pattern memory and loads a context. -/
  | pgLoad (c b : Nat)
  /-- PG_START_FWD (R234): Walks and checks the program and starts the context in forward order. -/
  | pgStartFwd (c : Nat)
  /-- PG_START_TR (R234): Walks and checks the program and starts the context in transposed order. -/
  | pgStartTr (c : Nat)
  /-- COUNT_PASS_END (R230): The counting pass of a started context ends, fixing TOTAL and releasing stalled users. -/
  | countPassEnd (core ctx : Nat)
  /-- PG_NEXT (R235): Delivers up to 128 next coordinates into a vector register. -/
  | pgNext (d c : Nat)
  /-- PG_NEXTBLK (R236): Finds the next non-empty block and returns its count and position. -/
  | pgNextblk (d c : Nat)
  /-- PG_SAVE (R238): Stores a context image. -/
  | pgSave (c b : Nat)
  /-- PG_RESTORE (R239): Checks a context image and restores the context. -/
  | pgRestore (c b : Nat)
  /-- TREE_CLEAR (R246): Empties the token-tree file. -/
  | treeClear
  /-- TREE_ROOT (R246): Empties the file and writes the root node. -/
  | treeRoot (a b : Nat)
  /-- TREE_ADD (R247): Adds a child node and returns its index. -/
  | treeAdd (d a n : Nat)
  /-- TREE_MASK_F32 (R248): Writes a node's ancestor mask as an FP32 bias pair of rows. -/
  | treeMaskF32 (d n : Nat)
  /-- TREE_MASK_BF16 (R248): Writes a node's ancestor mask as a BF16 bias row. -/
  | treeMaskBf16 (d n : Nat)
  /-- TREE_MASKK (R248): Writes a node's ancestor mask into a lane mask. -/
  | treeMaskk (k n : Nat)
  /-- TREE_POS_LO (R249): Writes positions of nodes 0-127 as INT32 lanes. -/
  | treePosLo (d : Nat)
  /-- TREE_POS_HI (R249): Writes positions of nodes 128-255 as INT32 lanes. -/
  | treePosHi (d : Nat)
  /-- TREE_PRUNE (R250): Keeps the path to a node, renumbers it and fills the map. -/
  | treePrune (n : Nat)
  /-- TREE_MAP (R251): Writes the prune map as a UINT16 row. -/
  | treeMap (d : Nat)
  /-- TREE_SAVE (R253): Stores a tree image. -/
  | treeSave (a : Nat)
  /-- TREE_LOAD (R254): Checks a tree image, loads it and rebuilds the masks. -/
  | treeLoad (a : Nat)
  /-- PORT_SET (R175): Loads a stream port from a parameter record. -/
  | portSet (a p : Nat)
  /-- PORT_RESET (R175): Makes a stream port unset. -/
  | portReset (p : Nat)
  /-- WFENCE (R264): Waits for earlier stores at die scope and empties the die's window-record cache. -/
  | wfence
  /-- TRAP_ENTRY (R348): Captures in-flight results, records cause and FAULTPC and enters the handler at TVEC. -/
  | trapEntry (core : Nat)
  /-- PROMPTER_PICK (R306): For an idle core the prompter picks the lowest-class candidate among wing heads and saved contexts. -/
  | prompterPick (die : Nat)
  /-- AGE_STEP (R310): Every 65,536 cycles a waiting head's effective class drops by one. -/
  | ageStep (die wing : Nat)
  /-- PRESTAGE_FILL (R312): For a pending guarded head the prompter fills window lines into the pre-stage area. -/
  | prestageFill (die wing : Nat)
  /-- ENQUEUE_BUFFER_DRAIN (R305): A hardware enqueue waiting in the die's enqueue buffer enters its ring when room frees. -/
  | enqueueBufferDrain (die : Nat)
  /-- CURTAIN (R361): Pre-emption freezes, drains and saves the victim's context, then starts the pre-empting cue. -/
  | curtain (die : Nat)
  /-- CONTEXT_RESUME (R368): A saved context is read back, engines re-enter and captured results are replayed. -/
  | contextResume (core : Nat)
  /-- REMOTE_WRITE (R258): A remote write through the physical map performs on a core's storage, waits on a busy range, or is discarded and logged. -/
  | remoteWrite (pa n data : Nat)
  /-- REMOTE_READ (R258): A remote read through the physical map returns a core's storage or view state. -/
  | remoteRead (pa n : Nat)
  /-- REMOTE_WRITE_PERFORM (R258): A remote write held by a write-busy range performs when the range clears. -/
  | remoteWritePerform (idx : Nat)
  /-- HOST_MEMORY_ACCESS (R360): A host access through BAR2 reaches the physical map, or is discarded and logged outside it. -/
  | hostMemoryAccess (host wr pa n data : Nat)
  /-- HOST_PUSH (R376): A 64-byte write to a wing's PUSH enqueues a cue record or is dropped and counted. -/
  | hostPush (host die wing n data : Nat)
  /-- QBASE_WRITE (R303): A write to QBASE empties the wing and discards its entries and pre-staged lines. -/
  | qbaseWrite (host die wing val : Nat)
  /-- PUSHSTAT_WRITE (R376): A write sets DROPPED to the written value. -/
  | pushstatWrite (host die wing val : Nat)
  /-- APPROVE_WRITE (R384): A host's approval is compared with the proposal digest, possibly committing the record. -/
  | approveWrite (host off val : Nat)
  /-- CONFIG_PROPOSAL (R381): The security engine stages a proposed configuration record, clearing approval state. -/
  | configProposal (len image : Nat)
  /-- ATTEST_REQUEST (R385): Writing REQUEST starts a signed attestation report for the host. -/
  | attestRequest (host : Nat)
  /-- ATTEST_REPORT_READY (R385): The attestation report is written and READY is set. -/
  | attestReportReady (host : Nat)
  /-- NONCE_WRITE (R385): A write to NONCE sets the nonce unless a request is pending. -/
  | nonceWrite (host off val : Nat)
  /-- THROTTLE_WRITE (R386): A write sets the THROTTLE event count. -/
  | throttleWrite (val : Nat)
  /-- PSTATE_WRITE (R386): A write selects run or idle power state. -/
  | pstateWrite (val : Nat)
  /-- REGISTER_WRITE (R375): A write to a control or configuration register that has no behaviour of its own. -/
  | registerWrite (host off val : Nat)
  /-- DEBUG_STOP (R371): A host stops a core at a bundle boundary through the debug port. -/
  | debugStop (host core : Nat)
  /-- DEBUG_REGISTER_WRITE (R371): A debug write sets a register and marks its latches to reload, or is refused. -/
  | debugRegisterWrite (host core kind idx val : Nat)
  /-- DEBUG_REGISTER_READ (R371): A debug read returns a register, or zero with a refusal report. -/
  | debugRegisterRead (host core kind idx : Nat)
  /-- DEBUG_RESTART (R371): A host restarts a stopped core. -/
  | debugRestart (host core : Nat)
  /-- MODULE_RESET (R19): Resets the module and applies the committed configuration record. -/
  | moduleReset
  /-- CLOCK_STEP (R17): The power controller lowers or raises the core clock to hold the rail limits and counts a throttle event. -/
  | clockStep (mhz : Nat)
  /-- LINK_FAILURE (R378): A failing Hatrix link retrains while its traffic moves to other links. -/
  | linkFailure (link : Nat)
  /-- REMOTE_TIMEOUT (R378): A remote request unanswered for 1 ms raises DATAERR, stops the K command or is logged. -/
  | remoteTimeout (core kind idx : Nat)
  /-- REDUCE_CONTRIBUTION (R379): A contribution is summed exactly into a reduction slot; the last one rounds to OUT and advances GEN. -/
  | reduceContribution (slot lane n data : Nat)
  /-- SELF_TEST_START (R372): A memory error moves the unit to its spare and starts a targeted self-test. -/
  | selfTestStart (kind core idx : Nat)
  /-- SELF_TEST_END (R372): The self-test ends, returning the unit to service or retiring it, or marking it failed. -/
  | selfTestEnd (idx passed : Nat)
  /-- LINK_RETRAIN_COMPLETE (R378): A failed Hatrix link finishes retraining and returns to service, so traffic can again be spread over it. -/
  | linkRetrainComplete (link : Nat)
  deriving DecidableEq, Repr

end Sys2Proof
end

