-- ==== Sys2Proof/WellFormed.lean ====
section
/-! DEFINITION. Which terms are instructions: every field within its width, and every operand value the manual makes illegal refused
(R27, R33, R34, R57, R61-R68, R92-R107, R177, R250). What depends on the other slots or on the running cue's declaration is no part of it. -/

namespace Sys2Proof

/-- A vector source code: every code but 62 (R33, R57). -/
def srcCode (c : Nat) : Bool := c != 62

/-- A vector destination code: v0-v47 or z0-z3 (R34, R57). -/
def dstCode (c : Nat) : Bool := decide (c ≤ 47) || (decide (56 ≤ c) && decide (c ≤ 59))

/-- The format codes that R113 does not reserve. -/
def fmtKnown (f : Nat) : Bool :=
  decide (f ≤ 0x13) || f == 0x18 || f == 0x1C || f == 0x1D

/-- The accumulator element types of R121, which ACC.WIN takes (R169). -/
def accFmt (f : Nat) : Bool :=
  f == 0x08 || f == 0x0F || f == 0x10 || f == 0x12 || f == 0x18 || f == 0x13

/-- The system-register numbers that the map of R109 defines. -/
def sysRegDefined (n : Nat) : Bool :=
  decide (n ≤ 6) || (decide (8 ≤ n) && decide (n ≤ 0x16)) || n == 0x20 || n == 0x21 ||
  (decide (0x30 ≤ n) && decide (n ≤ 0x32)) || (decide (0x40 ≤ n) && decide (n ≤ 0x43)) || (decide (0x48 ≤ n) && decide (n ≤ 0x4B))

/-- The system registers whose writes are rows of their own in the opcode table. -/
def sysRegOwnRow (n : Nat) : Bool :=
  n == 0x04 || n == 0x05 || n == 0x20 || n == 0x21 || n == 0x31 || (decide (0x40 ≤ n) && decide (n ≤ 0x43))

/-- Well-formed: an instruction of R61-R68 with every operand value one that the manual defines; an event always. -/
def Instr.wf : Instr → Bool
  | .nop => true
  | .pbr t i => decide (t < 8 ∧ i < 8388608)
  | .pbrr t a i => decide (t < 8 ∧ a < 32 ∧ i < 8192)
  | .br t => decide (t < 8)
  | .brp t p n => decide (t < 8 ∧ p < 16 ∧ n < 2)
  | .call t p n => decide (t < 8 ∧ p < 16 ∧ n < 2)
  | .ret p n => decide (p < 16 ∧ n < 2)
  | .loop t a s => decide (t < 8 ∧ a < 32 ∧ s < 8192) && s != 0
  | .loops t a s => decide (t < 8 ∧ a < 32 ∧ s < 16) && decide (1 ≤ s ∧ s ≤ 8)
  | .voteAny p k => decide (p < 16 ∧ k < 8)
  | .voteAll p k => decide (p < 16 ∧ k < 8)
  | .cuePush a b => decide (a < 32 ∧ b < 32)
  | .cueFork a b => decide (a < 32 ∧ b < 32)
  | .cueExit => true
  | .cueSelf a => decide (a < 32)
  | .ensJoin a => decide (a < 32)
  | .ensLeave a => decide (a < 32)
  | .ensSize a b => decide (a < 32 ∧ b < 32)
  | .markInit a m => decide (a < 32 ∧ m < 2048)
  | .markInitEns a m => decide (a < 32 ∧ m < 2048)
  | .markArrive a m => decide (a < 32 ∧ m < 2048)
  | .markWait a m => decide (a < 32 ∧ m < 2048)
  | .markAwait a m => decide (a < 32 ∧ m < 2048)
  | .ensembleCountNotice _ _ => true
  | .waita a b c => decide (a < 32 ∧ b < 32 ∧ c < 4)
  | .waitaRetest _ => true
  | .trap i => decide (i < 65536)
  | .eret => true
  | .halt => true
  | .sysrd a n => decide (a < 32 ∧ n < 8192) && sysRegDefined n
  | .syswr a n => decide (a < 32 ∧ n < 8192) && sysRegDefined n && !sysRegOwnRow n
  | .nopreWrite a n => decide (a < 32) && (n == 5)
  | .nopreTimeout _ => true
  | .stickyWrite a n => decide (a < 32) && (n == 4)
  | .evselWrite a n => decide (a < 32) && (n == 64 || n == 65 || n == 66 || n == 67)
  | .rootWrite a n => decide (a < 32) && (n == 32 || n == 33)
  | .duetctlWrite a n => decide (a < 32) && (n == 49)
  | .admitSeg a b => decide (a < 32 ∧ b < 32)
  | .admitReport _ => true
  | .add d a b => decide (d < 32 ∧ a < 32 ∧ b < 32)
  | .sub d a b => decide (d < 32 ∧ a < 32 ∧ b < 32)
  | .and d a b => decide (d < 32 ∧ a < 32 ∧ b < 32)
  | .or d a b => decide (d < 32 ∧ a < 32 ∧ b < 32)
  | .xor d a b => decide (d < 32 ∧ a < 32 ∧ b < 32)
  | .shl d a b => decide (d < 32 ∧ a < 32 ∧ b < 32)
  | .shr d a b => decide (d < 32 ∧ a < 32 ∧ b < 32)
  | .sra d a b => decide (d < 32 ∧ a < 32 ∧ b < 32)
  | .min d a b => decide (d < 32 ∧ a < 32 ∧ b < 32)
  | .max d a b => decide (d < 32 ∧ a < 32 ∧ b < 32)
  | .minu d a b => decide (d < 32 ∧ a < 32 ∧ b < 32)
  | .maxu d a b => decide (d < 32 ∧ a < 32 ∧ b < 32)
  | .clz d a => decide (d < 32 ∧ a < 32)
  | .popc d a => decide (d < 32 ∧ a < 32)
  | .sel d a b p => decide (d < 32 ∧ a < 32 ∧ b < 32 ∧ p < 32) && decide (p ≤ 15)
  | .mul d a b => decide (d < 32 ∧ a < 32 ∧ b < 32)
  | .mulh d a b => decide (d < 32 ∧ a < 32 ∧ b < 32)
  | .mulhu d a b => decide (d < 32 ∧ a < 32 ∧ b < 32)
  | .div d a b => decide (d < 32 ∧ a < 32 ∧ b < 32)
  | .divu d a b => decide (d < 32 ∧ a < 32 ∧ b < 32)
  | .rem d a b => decide (d < 32 ∧ a < 32 ∧ b < 32)
  | .remu d a b => decide (d < 32 ∧ a < 32 ∧ b < 32)
  | .cmp d a b c => decide (d < 32 ∧ a < 32 ∧ b < 32 ∧ c < 32) && decide (d ≤ 15 ∧ c ≤ 5)
  | .pand d a b => decide (d < 32 ∧ a < 32 ∧ b < 32) && decide (d ≤ 15 ∧ a ≤ 15 ∧ b ≤ 15)
  | .por d a b => decide (d < 32 ∧ a < 32 ∧ b < 32) && decide (d ≤ 15 ∧ a ≤ 15 ∧ b ≤ 15)
  | .pxor d a b => decide (d < 32 ∧ a < 32 ∧ b < 32) && decide (d ≤ 15 ∧ a ≤ 15 ∧ b ≤ 15)
  | .pnot d a => decide (d < 32 ∧ a < 32) && decide (d ≤ 15 ∧ a ≤ 15)
  | .addi d a i => decide (d < 32 ∧ a < 32 ∧ i < 65536)
  | .andi d a i => decide (d < 32 ∧ a < 32 ∧ i < 65536)
  | .ori d a i => decide (d < 32 ∧ a < 32 ∧ i < 65536)
  | .xori d a i => decide (d < 32 ∧ a < 32 ∧ i < 65536)
  | .shli d a n => decide (d < 32 ∧ a < 32 ∧ n < 64)
  | .shri d a n => decide (d < 32 ∧ a < 32 ∧ n < 64)
  | .srai d a n => decide (d < 32 ∧ a < 32 ∧ n < 64)
  | .movi d i => decide (d < 32 ∧ i < 2097152)
  | .movhi d a i => decide (d < 32 ∧ a < 32 ∧ i < 65536)
  | .cmpi d a c i => decide (d < 32 ∧ a < 32 ∧ c < 8 ∧ i < 8192) && decide (d ≤ 15 ∧ c ≤ 5)
  | .lds d a z i => decide (d < 32 ∧ a < 32 ∧ z < 4 ∧ i < 16384)
  | .sts d a z i => decide (d < 32 ∧ a < 32 ∧ z < 4 ∧ i < 16384)
  | .ldg d a b s o z => decide (d < 32 ∧ a < 32 ∧ b < 32 ∧ s < 4 ∧ o < 2 ∧ z < 4) && (o != 0 || s == 0)
  | .stg d a b s o z => decide (d < 32 ∧ a < 32 ∧ b < 32 ∧ s < 4 ∧ o < 2 ∧ z < 4) && (o != 0 || s == 0)
  | .scalarAccessComplete _ _ => true
  | .amoAdd d a b s o w => decide (d < 32 ∧ a < 32 ∧ b < 32 ∧ s < 4 ∧ o < 4 ∧ w < 2)
  | .amoSwap d a b s o w => decide (d < 32 ∧ a < 32 ∧ b < 32 ∧ s < 4 ∧ o < 4 ∧ w < 2)
  | .amoCas d a b s o w => decide (d < 32 ∧ a < 32 ∧ b < 32 ∧ s < 4 ∧ o < 4 ∧ w < 2)
  | .amoMin d a b s o w => decide (d < 32 ∧ a < 32 ∧ b < 32 ∧ s < 4 ∧ o < 4 ∧ w < 2)
  | .amoMax d a b s o w => decide (d < 32 ∧ a < 32 ∧ b < 32 ∧ s < 4 ∧ o < 4 ∧ w < 2)
  | .amoAnd d a b s o w => decide (d < 32 ∧ a < 32 ∧ b < 32 ∧ s < 4 ∧ o < 4 ∧ w < 2)
  | .amoOr d a b s o w => decide (d < 32 ∧ a < 32 ∧ b < 32 ∧ s < 4 ∧ o < 4 ∧ w < 2)
  | .fadd d a b p r => decide (d < 32 ∧ a < 32 ∧ b < 32 ∧ p < 2 ∧ r < 8) && (r == 0 || r == 2 || r == 3 || r == 4)
  | .fmul d a b p r => decide (d < 32 ∧ a < 32 ∧ b < 32 ∧ p < 2 ∧ r < 8) && (r == 0 || r == 2 || r == 3 || r == 4)
  | .fcvtI d a p r => decide (d < 32 ∧ a < 32 ∧ p < 2 ∧ r < 8) && (r == 0 || r == 2 || r == 3 || r == 4)
  | .fcvtF d a p r => decide (d < 32 ∧ a < 32 ∧ p < 2 ∧ r < 8) && (r == 0 || r == 2 || r == 3 || r == 4)
  | .resultLand _ => true
  | .vadd d a b g w => decide (d < 64 ∧ a < 64 ∧ b < 64 ∧ g < 16 ∧ w < 2) && dstCode d && srcCode a && srcCode b
  | .vsub d a b g w => decide (d < 64 ∧ a < 64 ∧ b < 64 ∧ g < 16 ∧ w < 2) && dstCode d && srcCode a && srcCode b
  | .vmin d a b g w => decide (d < 64 ∧ a < 64 ∧ b < 64 ∧ g < 16 ∧ w < 2) && dstCode d && srcCode a && srcCode b
  | .vmax d a b g w => decide (d < 64 ∧ a < 64 ∧ b < 64 ∧ g < 16 ∧ w < 2) && dstCode d && srcCode a && srcCode b
  | .vabs d a g w => decide (d < 64 ∧ a < 64 ∧ g < 16 ∧ w < 2) && dstCode d && srcCode a
  | .vneg d a g w => decide (d < 64 ∧ a < 64 ∧ g < 16 ∧ w < 2) && dstCode d && srcCode a
  | .vmul d a b g w => decide (d < 64 ∧ a < 64 ∧ b < 64 ∧ g < 16 ∧ w < 2) && dstCode d && srcCode a && srcCode b
  | .vfma d a b g w => decide (d < 64 ∧ a < 64 ∧ b < 64 ∧ g < 16 ∧ w < 2) && dstCode d && srcCode a && srcCode b
  | .vfms d a b g w => decide (d < 64 ∧ a < 64 ∧ b < 64 ∧ g < 16 ∧ w < 2) && dstCode d && srcCode a && srcCode b
  | .vrcp d a g w => decide (d < 64 ∧ a < 64 ∧ g < 16 ∧ w < 2) && dstCode d && srcCode a
  | .vrsq d a g w => decide (d < 64 ∧ a < 64 ∧ g < 16 ∧ w < 2) && dstCode d && srcCode a
  | .vsqrt d a g w => decide (d < 64 ∧ a < 64 ∧ g < 16 ∧ w < 2) && dstCode d && srcCode a
  | .vexp2 d a g w => decide (d < 64 ∧ a < 64 ∧ g < 16 ∧ w < 2) && dstCode d && srcCode a
  | .vlog2 d a g w => decide (d < 64 ∧ a < 64 ∧ g < 16 ∧ w < 2) && dstCode d && srcCode a
  | .vtanh d a g w => decide (d < 64 ∧ a < 64 ∧ g < 16 ∧ w < 2) && dstCode d && srcCode a
  | .viadd d a b g w => decide (d < 64 ∧ a < 64 ∧ b < 64 ∧ g < 16 ∧ w < 2) && dstCode d && srcCode a && srcCode b
  | .visub d a b g w => decide (d < 64 ∧ a < 64 ∧ b < 64 ∧ g < 16 ∧ w < 2) && dstCode d && srcCode a && srcCode b
  | .vimul d a b g w => decide (d < 64 ∧ a < 64 ∧ b < 64 ∧ g < 16 ∧ w < 2) && dstCode d && srcCode a && srcCode b
  | .vimin d a b g w => decide (d < 64 ∧ a < 64 ∧ b < 64 ∧ g < 16 ∧ w < 2) && dstCode d && srcCode a && srcCode b
  | .vimax d a b g w => decide (d < 64 ∧ a < 64 ∧ b < 64 ∧ g < 16 ∧ w < 2) && dstCode d && srcCode a && srcCode b
  | .vand d a b g w => decide (d < 64 ∧ a < 64 ∧ b < 64 ∧ g < 16 ∧ w < 2) && dstCode d && srcCode a && srcCode b
  | .vor d a b g w => decide (d < 64 ∧ a < 64 ∧ b < 64 ∧ g < 16 ∧ w < 2) && dstCode d && srcCode a && srcCode b
  | .vxor d a b g w => decide (d < 64 ∧ a < 64 ∧ b < 64 ∧ g < 16 ∧ w < 2) && dstCode d && srcCode a && srcCode b
  | .vshl d a i g w => decide (d < 64 ∧ a < 64 ∧ i < 256 ∧ g < 16 ∧ w < 2) && dstCode d && srcCode a && decide (i ≤ 31)
  | .vshr d a i g w => decide (d < 64 ∧ a < 64 ∧ i < 256 ∧ g < 16 ∧ w < 2) && dstCode d && srcCode a && decide (i ≤ 31)
  | .vsra d a i g w => decide (d < 64 ∧ a < 64 ∧ i < 256 ∧ g < 16 ∧ w < 2) && dstCode d && srcCode a && decide (i ≤ 31)
  | .vcmp k a b g c w => decide (k < 8 ∧ a < 64 ∧ b < 64 ∧ g < 16 ∧ c < 8 ∧ w < 2) && srcCode a && srcCode b && decide (c ≤ 5)
  | .vsel d a b g k w => decide (d < 64 ∧ a < 64 ∧ b < 64 ∧ g < 16 ∧ k < 8 ∧ w < 2) && dstCode d && srcCode a && srcCode b
  | .vkand d a b g w => decide (d < 8 ∧ a < 8 ∧ b < 8 ∧ g < 16 ∧ w < 2)
  | .vkor d a b g w => decide (d < 8 ∧ a < 8 ∧ b < 8 ∧ g < 16 ∧ w < 2)
  | .vknot d a g w => decide (d < 8 ∧ a < 8 ∧ g < 16 ∧ w < 2)
  | .vcvt d a f g r w => decide (d < 64 ∧ a < 64 ∧ f < 32 ∧ g < 16 ∧ r < 8 ∧ w < 2) && dstCode d && srcCode a && fmtKnown f && decide (r ≤ 4)
  | .vbcast d a g w => decide (d < 64 ∧ a < 64 ∧ g < 16 ∧ w < 2) && dstCode d && srcCode a
  | .vmov d a g w => decide (d < 64 ∧ a < 64 ∧ g < 16 ∧ w < 2) && dstCode d && srcCode a
  | .viota d g w => decide (d < 64 ∧ g < 16 ∧ w < 2) && dstCode d
  | .vshuf d a b g w => decide (d < 64 ∧ a < 64 ∧ b < 64 ∧ g < 16 ∧ w < 2) && dstCode d && srcCode a && srcCode b
  | .vslideUp d a i g w => decide (d < 64 ∧ a < 64 ∧ i < 256 ∧ g < 16 ∧ w < 2) && dstCode d && srcCode a
  | .vslideDn d a i g w => decide (d < 64 ∧ a < 64 ∧ i < 256 ∧ g < 16 ∧ w < 2) && dstCode d && srcCode a
  | .vred d a o g w => decide (d < 64 ∧ a < 64 ∧ o < 4 ∧ g < 16 ∧ w < 2) && dstCode d && srcCode a && decide (o ≤ 2)
  | .vscan d a o g w => decide (d < 64 ∧ a < 64 ∧ o < 4 ∧ g < 16 ∧ w < 2) && dstCode d && srcCode a && decide (o ≤ 2)
  | .vsegred d a b g o w => decide (d < 64 ∧ a < 64 ∧ b < 64 ∧ g < 16 ∧ o < 8 ∧ w < 2) && dstCode d && srcCode a && srcCode b && decide (o ≤ 2)
  | .vsortAsc d a b g w => decide (d < 64 ∧ a < 64 ∧ b < 64 ∧ g < 16 ∧ w < 2) && dstCode d && srcCode a && srcCode b
  | .vsortDesc d a b g w => decide (d < 64 ∧ a < 64 ∧ b < 64 ∧ g < 16 ∧ w < 2) && dstCode d && srcCode a && srcCode b
  | .vcompact d a k g w => decide (d < 64 ∧ a < 64 ∧ k < 8 ∧ g < 16 ∧ w < 2) && dstCode d && srcCode a
  | .vexpand d a k g w => decide (d < 64 ∧ a < 64 ∧ k < 8 ∧ g < 16 ∧ w < 2) && dstCode d && srcCode a
  | .vdelta d a b g w => decide (d < 64 ∧ a < 64 ∧ b < 64 ∧ g < 16 ∧ w < 2) && dstCode d && srcCode a && srcCode b
  | .vrope d a b g w => decide (d < 64 ∧ a < 64 ∧ b < 64 ∧ g < 16 ∧ w < 2) && dstCode d && srcCode a && srcCode b
  | .vsmax d a b g w => decide (d < 64 ∧ a < 64 ∧ b < 64 ∧ g < 16 ∧ w < 2) && dstCode d && srcCode a && srcCode b
  | .vld d a i g w => decide (d < 64 ∧ a < 32 ∧ i < 256 ∧ g < 16 ∧ w < 2) && dstCode d
  | .vst s a i g w => decide (s < 64 ∧ a < 32 ∧ i < 256 ∧ g < 16 ∧ w < 2) && srcCode s
  | .vmovs d a i g w => decide (d < 32 ∧ a < 64 ∧ i < 256 ∧ g < 16 ∧ w < 2) && srcCode a
  | .vins d a i g w => decide (d < 64 ∧ a < 32 ∧ i < 256 ∧ g < 16 ∧ w < 2) && dstCode d
  | .mlatch a l => decide (a < 32 ∧ l < 4)
  | .mlatchX a l g => decide (a < 32 ∧ l < 4 ∧ g < 4)
  | .mma d a l c h x u n q => decide (d < 32 ∧ a < 32 ∧ l < 4 ∧ c < 32 ∧ h < 2 ∧ x < 2 ∧ u < 2 ∧ n < 2 ∧ q < 2) && (u != 0 || c == 0)
  | .mzero d => decide (d < 32)
  | .mtrans d a => decide (d < 32 ∧ a < 32)
  | .mcast d a r => decide (d < 32 ∧ a < 32 ∧ r < 8) && decide (r ≤ 4)
  | .msave s => decide (s < 32)
  | .mresume s => decide (s < 32)
  | .msync => true
  | .mprobe d => decide (d < 32)
  | .mCommandStart _ => true
  | .mCommandComplete _ => true
  | .migration _ => true
  | .recall _ => true
  | .duetWindowSwitch _ => true
  | .tload t w c g x => decide (t < 32 ∧ w < 32 ∧ c < 32 ∧ g < 32 ∧ x < 2)
  | .tstore t w c g r x s => decide (t < 32 ∧ w < 32 ∧ c < 32 ∧ g < 32 ∧ r < 4 ∧ x < 2 ∧ s < 4)
  | .tloadIx t w i g => decide (t < 32 ∧ w < 32 ∧ i < 32 ∧ g < 32)
  | .gather t w i g s => decide (t < 32 ∧ w < 32 ∧ i < 32 ∧ g < 32 ∧ s < 4)
  | .scatter t w i g r s => decide (t < 32 ∧ w < 32 ∧ i < 32 ∧ g < 32 ∧ r < 4 ∧ s < 4)
  | .copy l w c g s => decide (l < 32 ∧ w < 32 ∧ c < 32 ∧ g < 32 ∧ s < 4)
  | .tsend t w g s => decide (t < 32 ∧ w < 32 ∧ g < 32 ∧ s < 4)
  | .trecv t w g => decide (t < 32 ∧ w < 32 ∧ g < 32)
  | .signal v g s => decide (v < 32 ∧ g < 32 ∧ s < 4) && g != 0
  | .drain s => decide (s < 4)
  | .ksave w => decide (w < 32)
  | .kresume w => decide (w < 32)
  | .prefetchUp w c g => decide (w < 32 ∧ c < 32 ∧ g < 32)
  | .prefetchDn w c g => decide (w < 32 ∧ c < 32 ∧ g < 32)
  | .route t w g => decide (t < 32 ∧ w < 32 ∧ g < 32)
  | .routeClose w g => decide (w < 32 ∧ g < 32)
  | .routePairArrival _ _ => true
  | .kCommandStart _ _ => true
  | .kCommandComplete _ _ => true
  | .pitScaleadd t w g => decide (t < 32 ∧ w < 32 ∧ g < 32)
  | .pitAtomadd t w g => decide (t < 32 ∧ w < 32 ∧ g < 32)
  | .pitAttn t w g => decide (t < 32 ∧ w < 32 ∧ g < 32)
  | .pitFence g => decide (g < 32)
  | .pitXload t w g => decide (t < 32 ∧ w < 32 ∧ g < 32)
  | .pitXlock w g => decide (w < 32 ∧ g < 32)
  | .pitXunlock w g => decide (w < 32 ∧ g < 32)
  | .pitDispatch _ _ => true
  | .pitCommandRun _ => true
  | .pitCommandComplete _ => true
  | .pitSuspend _ => true
  | .pitResume _ => true
  | .pitWindowEnd _ => true
  | .pitStatusArrival _ => true
  | .tdef t a => decide (t < 32 ∧ a < 32)
  | .tbind t a => decide (t < 32 ∧ a < 32)
  | .treshape t a b => decide (t < 32 ∧ a < 32 ∧ b < 32)
  | .ttranspose t a => decide (t < 32 ∧ a < 32)
  | .tcast t a f => decide (t < 32 ∧ a < 32 ∧ f < 32) && fmtKnown f
  | .ttype t a => decide (t < 32 ∧ a < 32)
  | .tcheck t a => decide (t < 32 ∧ a < 32)
  | .dvSet n b => decide (n < 32 ∧ b < 32) && decide (n ≤ 15)
  | .dvGet d n => decide (d < 32 ∧ n < 32) && decide (n ≤ 15)
  | .dvClear n => decide (n < 32) && decide (n ≤ 15)
  | .dvBound n b => decide (n < 32 ∧ b < 32) && decide (n ≤ 15)
  | .accAlloc d a => decide (d < 32 ∧ a < 32)
  | .accFree a b => decide (a < 32 ∧ b < 32)
  | .accWin a f => decide (a < 32 ∧ f < 32) && accFmt f
  | .pgLoad c b => decide (c < 32 ∧ b < 32) && decide (c ≤ 3)
  | .pgStartFwd c => decide (c < 32) && decide (c ≤ 3)
  | .pgStartTr c => decide (c < 32) && decide (c ≤ 3)
  | .countPassEnd _ _ => true
  | .pgNext d c => decide (d < 32 ∧ c < 32) && decide (c ≤ 3)
  | .pgNextblk d c => decide (d < 32 ∧ c < 32) && decide (c ≤ 3)
  | .pgSave c b => decide (c < 32 ∧ b < 32) && decide (c ≤ 3)
  | .pgRestore c b => decide (c < 32 ∧ b < 32) && decide (c ≤ 3)
  | .treeClear => true
  | .treeRoot a b => decide (a < 32 ∧ b < 32)
  | .treeAdd d a n => decide (d < 32 ∧ a < 32 ∧ n < 256)
  | .treeMaskF32 d n => decide (d < 32 ∧ n < 256) && d % 2 == 0
  | .treeMaskBf16 d n => decide (d < 32 ∧ n < 256)
  | .treeMaskk k n => decide (k < 8 ∧ n < 256)
  | .treePosLo d => decide (d < 32)
  | .treePosHi d => decide (d < 32)
  | .treePrune n => decide (n < 256)
  | .treeMap d => decide (d < 32)
  | .treeSave a => decide (a < 32)
  | .treeLoad a => decide (a < 32)
  | .portSet a p => decide (a < 32 ∧ p < 4)
  | .portReset p => decide (p < 4)
  | .wfence => true
  | .trapEntry _ => true
  | .prompterPick _ => true
  | .ageStep _ _ => true
  | .prestageFill _ _ => true
  | .enqueueBufferDrain _ => true
  | .curtain _ => true
  | .contextResume _ => true
  | .remoteWrite _ _ _ => true
  | .remoteRead _ _ => true
  | .remoteWritePerform _ => true
  | .hostMemoryAccess _ _ _ _ _ => true
  | .hostPush _ _ _ _ _ => true
  | .qbaseWrite _ _ _ _ => true
  | .pushstatWrite _ _ _ _ => true
  | .approveWrite _ _ _ => true
  | .configProposal _ _ => true
  | .attestRequest _ => true
  | .attestReportReady _ => true
  | .nonceWrite _ _ _ => true
  | .throttleWrite _ => true
  | .pstateWrite _ => true
  | .registerWrite _ _ _ => true
  | .debugStop _ _ => true
  | .debugRegisterWrite _ _ _ _ _ => true
  | .debugRegisterRead _ _ _ _ => true
  | .debugRestart _ _ => true
  | .moduleReset => true
  | .clockStep _ => true
  | .linkFailure _ => true
  | .remoteTimeout _ _ _ => true
  | .reduceContribution _ _ _ _ => true
  | .selfTestStart _ _ _ => true
  | .selfTestEnd _ _ => true
  | .linkRetrainComplete _ => true

end Sys2Proof
end

