-- ==== Sys2Proof/Decode.lean ====
section
/-! DEFINITION. The decoder of each slot's table (R23, R61-R68), total on any 32-bit word and rejecting by name (R57); after it the
encoder, from the same field maps (R25-R31, R92-R107, R150, R177, R199-R213, R231, R245, R269, R286, R317). -/

namespace Sys2Proof

/-- Bits [lo+n-1 : lo] of a word (R3). -/
def fld (w lo n : Nat) : Nat := w / 2 ^ lo % 2 ^ n

/-- The slot tables of R23. -/
inductive SlotKind where | c | s | v | m | k | x
  deriving DecidableEq, Repr

/-- Why a word is no instruction of its slot (R57). -/
inductive DecodeError where
  /-- Major opcode 0 with a bit of [25:0] set (R24). -/
  | nopBits (w : Nat)
  /-- A major opcode that R61-R68 do not list. -/
  | reservedMajor (op : Nat)
  /-- A function value the major does not define, or a non-zero reserved bit. -/
  | reservedBits (w : Nat)
  /-- An operand value that its instruction makes illegal. -/
  | operand (i : Instr)
  /-- The word has more bits than a slot word. -/
  | tooWide
  deriving DecidableEq, Repr

/-- A candidate is an instruction when it is well-formed. -/
def checked (i : Instr) : Except DecodeError Instr := if i.wf then .ok i else .error (.operand i)

/-- SYSWR by the register it names: the table gives some registers' writes rows of their own (R85, R109, R111, R112, R217, R358). -/
def syswrRow (a n : Nat) : Instr :=
  if n = 5 then .nopreWrite a n else if n = 4 then .stickyWrite a n
  else if 0x40 ≤ n ∧ n ≤ 0x43 then .evselWrite a n
  else if n = 0x20 ∨ n = 0x21 then .rootWrite a n else if n = 0x31 then .duetctlWrite a n else .syswr a n

/-- The C slot's table. -/
def decodeC (w : Nat) : Except DecodeError Instr :=
  match fld w 26 6 with
  | 0 => if w = 0 then .ok .nop else .error (.nopBits w)
  | 1 =>
    checked (.pbr (fld w 23 3) (fld w 0 23))
  | 2 =>
    if fld w 13 5 = 0 then checked (.pbrr (fld w 23 3) (fld w 18 5) (fld w 0 13))
    else .error (.reservedBits w)
  | 3 =>
    if fld w 0 23 = 0 then checked (.br (fld w 23 3))
    else .error (.reservedBits w)
  | 4 =>
    if fld w 0 18 = 0 then checked (.brp (fld w 23 3) (fld w 19 4) (fld w 18 1))
    else .error (.reservedBits w)
  | 5 =>
    if fld w 0 18 = 0 then checked (.call (fld w 23 3) (fld w 19 4) (fld w 18 1))
    else .error (.reservedBits w)
  | 6 =>
    if fld w 0 18 = 0 ∧ fld w 23 3 = 0 then checked (.ret (fld w 19 4) (fld w 18 1))
    else .error (.reservedBits w)
  | 7 =>
    if fld w 13 5 = 0 then checked (.loop (fld w 23 3) (fld w 18 5) (fld w 0 13))
    else .error (.reservedBits w)
  | 8 =>
    if fld w 4 14 = 0 then checked (.loops (fld w 23 3) (fld w 18 5) (fld w 0 4))
    else .error (.reservedBits w)
  | 9 =>
    if fld w 3 16 = 0 ∧ fld w 23 3 = 0 then checked (.voteAny (fld w 19 4) (fld w 0 3))
    else if fld w 3 16 = 8192 ∧ fld w 23 3 = 0 then checked (.voteAll (fld w 19 4) (fld w 0 3))
    else .error (.reservedBits w)
  | 16 =>
    if fld w 0 13 = 0 ∧ fld w 23 3 = 0 then checked (.cuePush (fld w 18 5) (fld w 13 5))
    else .error (.reservedBits w)
  | 17 =>
    if fld w 0 13 = 0 ∧ fld w 23 3 = 0 then checked (.cueFork (fld w 18 5) (fld w 13 5))
    else .error (.reservedBits w)
  | 18 =>
    if fld w 0 26 = 0 then checked .cueExit
    else .error (.reservedBits w)
  | 19 =>
    if fld w 0 18 = 0 ∧ fld w 23 3 = 0 then checked (.cueSelf (fld w 18 5))
    else .error (.reservedBits w)
  | 20 =>
    if fld w 0 18 = 0 ∧ fld w 23 3 = 0 then checked (.ensJoin (fld w 18 5))
    else .error (.reservedBits w)
  | 21 =>
    if fld w 0 18 = 0 ∧ fld w 23 3 = 0 then checked (.ensLeave (fld w 18 5))
    else .error (.reservedBits w)
  | 22 =>
    if fld w 0 13 = 0 ∧ fld w 23 3 = 0 then checked (.ensSize (fld w 18 5) (fld w 13 5))
    else .error (.reservedBits w)
  | 24 =>
    if fld w 11 7 = 0 ∧ fld w 23 3 = 0 then checked (.markInit (fld w 18 5) (fld w 0 11))
    else if fld w 11 7 = 1 ∧ fld w 23 3 = 0 then checked (.markInitEns (fld w 18 5) (fld w 0 11))
    else .error (.reservedBits w)
  | 25 =>
    if fld w 11 7 = 0 ∧ fld w 23 3 = 0 then checked (.markArrive (fld w 18 5) (fld w 0 11))
    else .error (.reservedBits w)
  | 26 =>
    if fld w 11 7 = 0 ∧ fld w 23 3 = 0 then checked (.markWait (fld w 18 5) (fld w 0 11))
    else .error (.reservedBits w)
  | 27 =>
    if fld w 11 7 = 0 ∧ fld w 23 3 = 0 then checked (.markAwait (fld w 18 5) (fld w 0 11))
    else .error (.reservedBits w)
  | 28 =>
    if fld w 2 11 = 0 ∧ fld w 23 3 = 0 then checked (.waita (fld w 18 5) (fld w 13 5) (fld w 0 2))
    else .error (.reservedBits w)
  | 48 =>
    if fld w 16 10 = 0 then checked (.trap (fld w 0 16))
    else .error (.reservedBits w)
  | 49 =>
    if fld w 0 26 = 0 then checked .eret
    else .error (.reservedBits w)
  | 50 =>
    if fld w 0 26 = 0 then checked .halt
    else .error (.reservedBits w)
  | 51 =>
    if fld w 13 5 = 0 ∧ fld w 23 3 = 0 then checked (.sysrd (fld w 18 5) (fld w 0 13))
    else .error (.reservedBits w)
  | 52 =>
    if fld w 13 5 = 0 ∧ fld w 23 3 = 0 then checked (syswrRow (fld w 18 5) (fld w 0 13))
    else .error (.reservedBits w)
  | 53 =>
    if fld w 0 13 = 0 ∧ fld w 23 3 = 0 then checked (.admitSeg (fld w 18 5) (fld w 13 5))
    else .error (.reservedBits w)
  | op => .error (.reservedMajor op)

/-- The S slot's table. -/
def decodeS (w : Nat) : Except DecodeError Instr :=
  match fld w 26 6 with
  | 0 => if w = 0 then .ok .nop else .error (.nopBits w)
  | 1 =>
    if fld w 0 11 = 0 then checked (.add (fld w 21 5) (fld w 16 5) (fld w 11 5))
    else if fld w 0 11 = 32 then checked (.sub (fld w 21 5) (fld w 16 5) (fld w 11 5))
    else if fld w 0 11 = 64 then checked (.and (fld w 21 5) (fld w 16 5) (fld w 11 5))
    else if fld w 0 11 = 96 then checked (.or (fld w 21 5) (fld w 16 5) (fld w 11 5))
    else if fld w 0 11 = 128 then checked (.xor (fld w 21 5) (fld w 16 5) (fld w 11 5))
    else if fld w 0 11 = 160 then checked (.shl (fld w 21 5) (fld w 16 5) (fld w 11 5))
    else if fld w 0 11 = 192 then checked (.shr (fld w 21 5) (fld w 16 5) (fld w 11 5))
    else if fld w 0 11 = 224 then checked (.sra (fld w 21 5) (fld w 16 5) (fld w 11 5))
    else if fld w 0 11 = 256 then checked (.min (fld w 21 5) (fld w 16 5) (fld w 11 5))
    else if fld w 0 11 = 288 then checked (.max (fld w 21 5) (fld w 16 5) (fld w 11 5))
    else if fld w 0 11 = 320 then checked (.minu (fld w 21 5) (fld w 16 5) (fld w 11 5))
    else if fld w 0 11 = 352 then checked (.maxu (fld w 21 5) (fld w 16 5) (fld w 11 5))
    else if fld w 0 16 = 384 then checked (.clz (fld w 21 5) (fld w 16 5))
    else if fld w 0 16 = 416 then checked (.popc (fld w 21 5) (fld w 16 5))
    else if fld w 5 6 = 14 then checked (.sel (fld w 21 5) (fld w 16 5) (fld w 11 5) (fld w 0 5))
    else .error (.reservedBits w)
  | 2 =>
    if fld w 0 11 = 0 then checked (.mul (fld w 21 5) (fld w 16 5) (fld w 11 5))
    else if fld w 0 11 = 32 then checked (.mulh (fld w 21 5) (fld w 16 5) (fld w 11 5))
    else if fld w 0 11 = 64 then checked (.mulhu (fld w 21 5) (fld w 16 5) (fld w 11 5))
    else if fld w 0 11 = 128 then checked (.div (fld w 21 5) (fld w 16 5) (fld w 11 5))
    else if fld w 0 11 = 160 then checked (.divu (fld w 21 5) (fld w 16 5) (fld w 11 5))
    else if fld w 0 11 = 192 then checked (.rem (fld w 21 5) (fld w 16 5) (fld w 11 5))
    else if fld w 0 11 = 224 then checked (.remu (fld w 21 5) (fld w 16 5) (fld w 11 5))
    else .error (.reservedBits w)
  | 3 =>
    if fld w 5 6 = 0 then checked (.cmp (fld w 21 5) (fld w 16 5) (fld w 11 5) (fld w 0 5))
    else .error (.reservedBits w)
  | 4 =>
    if fld w 0 11 = 0 then checked (.pand (fld w 21 5) (fld w 16 5) (fld w 11 5))
    else if fld w 0 11 = 32 then checked (.por (fld w 21 5) (fld w 16 5) (fld w 11 5))
    else if fld w 0 11 = 64 then checked (.pxor (fld w 21 5) (fld w 16 5) (fld w 11 5))
    else if fld w 0 16 = 96 then checked (.pnot (fld w 21 5) (fld w 16 5))
    else .error (.reservedBits w)
  | 5 =>
    checked (.addi (fld w 21 5) (fld w 16 5) (fld w 0 16))
  | 6 =>
    checked (.andi (fld w 21 5) (fld w 16 5) (fld w 0 16))
  | 7 =>
    checked (.ori (fld w 21 5) (fld w 16 5) (fld w 0 16))
  | 8 =>
    checked (.xori (fld w 21 5) (fld w 16 5) (fld w 0 16))
  | 9 =>
    if fld w 6 10 = 0 then checked (.shli (fld w 21 5) (fld w 16 5) (fld w 0 6))
    else .error (.reservedBits w)
  | 10 =>
    if fld w 6 10 = 0 then checked (.shri (fld w 21 5) (fld w 16 5) (fld w 0 6))
    else .error (.reservedBits w)
  | 11 =>
    if fld w 6 10 = 0 then checked (.srai (fld w 21 5) (fld w 16 5) (fld w 0 6))
    else .error (.reservedBits w)
  | 12 =>
    checked (.movi (fld w 21 5) (fld w 0 21))
  | 13 =>
    checked (.movhi (fld w 21 5) (fld w 16 5) (fld w 0 16))
  | 14 =>
    checked (.cmpi (fld w 21 5) (fld w 16 5) (fld w 13 3) (fld w 0 13))
  | 16 =>
    checked (.lds (fld w 21 5) (fld w 16 5) (fld w 14 2) (fld w 0 14))
  | 17 =>
    checked (.sts (fld w 21 5) (fld w 16 5) (fld w 14 2) (fld w 0 14))
  | 18 =>
    if fld w 5 6 = 0 then checked (.ldg (fld w 21 5) (fld w 16 5) (fld w 11 5) (fld w 3 2) (fld w 2 1) (fld w 0 2))
    else if fld w 5 6 = 1 then checked (.stg (fld w 21 5) (fld w 16 5) (fld w 11 5) (fld w 3 2) (fld w 2 1) (fld w 0 2))
    else .error (.reservedBits w)
  | 19 =>
    if fld w 5 6 = 0 then checked (.amoAdd (fld w 21 5) (fld w 16 5) (fld w 11 5) (fld w 3 2) (fld w 1 2) (fld w 0 1))
    else if fld w 5 6 = 1 then checked (.amoSwap (fld w 21 5) (fld w 16 5) (fld w 11 5) (fld w 3 2) (fld w 1 2) (fld w 0 1))
    else if fld w 5 6 = 2 then checked (.amoCas (fld w 21 5) (fld w 16 5) (fld w 11 5) (fld w 3 2) (fld w 1 2) (fld w 0 1))
    else if fld w 5 6 = 3 then checked (.amoMin (fld w 21 5) (fld w 16 5) (fld w 11 5) (fld w 3 2) (fld w 1 2) (fld w 0 1))
    else if fld w 5 6 = 4 then checked (.amoMax (fld w 21 5) (fld w 16 5) (fld w 11 5) (fld w 3 2) (fld w 1 2) (fld w 0 1))
    else if fld w 5 6 = 5 then checked (.amoAnd (fld w 21 5) (fld w 16 5) (fld w 11 5) (fld w 3 2) (fld w 1 2) (fld w 0 1))
    else if fld w 5 6 = 6 then checked (.amoOr (fld w 21 5) (fld w 16 5) (fld w 11 5) (fld w 3 2) (fld w 1 2) (fld w 0 1))
    else .error (.reservedBits w)
  | 20 =>
    if fld w 3 1 = 0 ∧ fld w 5 6 = 0 then checked (.fadd (fld w 21 5) (fld w 16 5) (fld w 11 5) (fld w 4 1) (fld w 0 3))
    else if fld w 3 1 = 0 ∧ fld w 5 6 = 1 then checked (.fmul (fld w 21 5) (fld w 16 5) (fld w 11 5) (fld w 4 1) (fld w 0 3))
    else if fld w 3 1 = 0 ∧ fld w 5 11 = 2 then checked (.fcvtI (fld w 21 5) (fld w 16 5) (fld w 4 1) (fld w 0 3))
    else if fld w 3 1 = 0 ∧ fld w 5 11 = 3 then checked (.fcvtF (fld w 21 5) (fld w 16 5) (fld w 4 1) (fld w 0 3))
    else .error (.reservedBits w)
  | op => .error (.reservedMajor op)

/-- The V slot's table. -/
def decodeV (w : Nat) : Except DecodeError Instr :=
  match fld w 26 6 with
  | 0 => if w = 0 then .ok .nop else .error (.nopBits w)
  | 1 =>
    if fld w 1 3 = 0 then checked (.vadd (fld w 20 6) (fld w 14 6) (fld w 8 6) (fld w 4 4) (fld w 0 1))
    else if fld w 1 3 = 1 then checked (.vsub (fld w 20 6) (fld w 14 6) (fld w 8 6) (fld w 4 4) (fld w 0 1))
    else if fld w 1 3 = 2 then checked (.vmin (fld w 20 6) (fld w 14 6) (fld w 8 6) (fld w 4 4) (fld w 0 1))
    else if fld w 1 3 = 3 then checked (.vmax (fld w 20 6) (fld w 14 6) (fld w 8 6) (fld w 4 4) (fld w 0 1))
    else .error (.reservedBits w)
  | 2 =>
    if fld w 1 3 = 0 ∧ fld w 8 6 = 0 then checked (.vabs (fld w 20 6) (fld w 14 6) (fld w 4 4) (fld w 0 1))
    else if fld w 1 3 = 1 ∧ fld w 8 6 = 0 then checked (.vneg (fld w 20 6) (fld w 14 6) (fld w 4 4) (fld w 0 1))
    else .error (.reservedBits w)
  | 3 =>
    if fld w 1 3 = 0 then checked (.vmul (fld w 20 6) (fld w 14 6) (fld w 8 6) (fld w 4 4) (fld w 0 1))
    else .error (.reservedBits w)
  | 4 =>
    if fld w 1 3 = 0 then checked (.vfma (fld w 20 6) (fld w 14 6) (fld w 8 6) (fld w 4 4) (fld w 0 1))
    else if fld w 1 3 = 1 then checked (.vfms (fld w 20 6) (fld w 14 6) (fld w 8 6) (fld w 4 4) (fld w 0 1))
    else .error (.reservedBits w)
  | 5 =>
    if fld w 1 3 = 0 ∧ fld w 8 6 = 0 then checked (.vrcp (fld w 20 6) (fld w 14 6) (fld w 4 4) (fld w 0 1))
    else if fld w 1 3 = 1 ∧ fld w 8 6 = 0 then checked (.vrsq (fld w 20 6) (fld w 14 6) (fld w 4 4) (fld w 0 1))
    else if fld w 1 3 = 2 ∧ fld w 8 6 = 0 then checked (.vsqrt (fld w 20 6) (fld w 14 6) (fld w 4 4) (fld w 0 1))
    else if fld w 1 3 = 3 ∧ fld w 8 6 = 0 then checked (.vexp2 (fld w 20 6) (fld w 14 6) (fld w 4 4) (fld w 0 1))
    else if fld w 1 3 = 4 ∧ fld w 8 6 = 0 then checked (.vlog2 (fld w 20 6) (fld w 14 6) (fld w 4 4) (fld w 0 1))
    else if fld w 1 3 = 5 ∧ fld w 8 6 = 0 then checked (.vtanh (fld w 20 6) (fld w 14 6) (fld w 4 4) (fld w 0 1))
    else .error (.reservedBits w)
  | 6 =>
    if fld w 1 3 = 0 then checked (.viadd (fld w 20 6) (fld w 14 6) (fld w 8 6) (fld w 4 4) (fld w 0 1))
    else if fld w 1 3 = 1 then checked (.visub (fld w 20 6) (fld w 14 6) (fld w 8 6) (fld w 4 4) (fld w 0 1))
    else if fld w 1 3 = 2 then checked (.vimul (fld w 20 6) (fld w 14 6) (fld w 8 6) (fld w 4 4) (fld w 0 1))
    else if fld w 1 3 = 3 then checked (.vimin (fld w 20 6) (fld w 14 6) (fld w 8 6) (fld w 4 4) (fld w 0 1))
    else if fld w 1 3 = 4 then checked (.vimax (fld w 20 6) (fld w 14 6) (fld w 8 6) (fld w 4 4) (fld w 0 1))
    else .error (.reservedBits w)
  | 7 =>
    if fld w 1 3 = 0 then checked (.vand (fld w 20 6) (fld w 14 6) (fld w 8 6) (fld w 4 4) (fld w 0 1))
    else if fld w 1 3 = 1 then checked (.vor (fld w 20 6) (fld w 14 6) (fld w 8 6) (fld w 4 4) (fld w 0 1))
    else if fld w 1 3 = 2 then checked (.vxor (fld w 20 6) (fld w 14 6) (fld w 8 6) (fld w 4 4) (fld w 0 1))
    else .error (.reservedBits w)
  | 8 =>
    if fld w 1 1 = 0 then checked (.vshl (fld w 20 6) (fld w 14 6) (fld w 6 8) (fld w 2 4) (fld w 0 1))
    else if fld w 1 1 = 1 then checked (.vshr (fld w 20 6) (fld w 14 6) (fld w 6 8) (fld w 2 4) (fld w 0 1))
    else .error (.reservedBits w)
  | 9 =>
    if fld w 1 1 = 0 then checked (.vsra (fld w 20 6) (fld w 14 6) (fld w 6 8) (fld w 2 4) (fld w 0 1))
    else .error (.reservedBits w)
  | 10 =>
    if fld w 23 3 = 0 then checked (.vcmp (fld w 20 3) (fld w 14 6) (fld w 8 6) (fld w 4 4) (fld w 1 3) (fld w 0 1))
    else .error (.reservedBits w)
  | 11 =>
    checked (.vsel (fld w 20 6) (fld w 14 6) (fld w 8 6) (fld w 4 4) (fld w 1 3) (fld w 0 1))
  | 12 =>
    if fld w 1 3 = 0 ∧ fld w 11 3 = 0 ∧ fld w 17 3 = 0 ∧ fld w 23 3 = 0 then checked (.vkand (fld w 20 3) (fld w 14 3) (fld w 8 3) (fld w 4 4) (fld w 0 1))
    else if fld w 1 3 = 1 ∧ fld w 11 3 = 0 ∧ fld w 17 3 = 0 ∧ fld w 23 3 = 0 then checked (.vkor (fld w 20 3) (fld w 14 3) (fld w 8 3) (fld w 4 4) (fld w 0 1))
    else if fld w 1 3 = 2 ∧ fld w 8 6 = 0 ∧ fld w 17 3 = 0 ∧ fld w 23 3 = 0 then checked (.vknot (fld w 20 3) (fld w 14 3) (fld w 4 4) (fld w 0 1))
    else .error (.reservedBits w)
  | 13 =>
    if fld w 13 1 = 0 then checked (.vcvt (fld w 20 6) (fld w 14 6) (fld w 8 5) (fld w 4 4) (fld w 1 3) (fld w 0 1))
    else .error (.reservedBits w)
  | 14 =>
    if fld w 1 3 = 0 ∧ fld w 8 6 = 0 then checked (.vbcast (fld w 20 6) (fld w 14 6) (fld w 4 4) (fld w 0 1))
    else if fld w 1 3 = 1 ∧ fld w 8 6 = 0 then checked (.vmov (fld w 20 6) (fld w 14 6) (fld w 4 4) (fld w 0 1))
    else if fld w 1 3 = 2 ∧ fld w 8 12 = 0 then checked (.viota (fld w 20 6) (fld w 4 4) (fld w 0 1))
    else if fld w 1 3 = 3 then checked (.vshuf (fld w 20 6) (fld w 14 6) (fld w 8 6) (fld w 4 4) (fld w 0 1))
    else .error (.reservedBits w)
  | 15 =>
    if fld w 1 1 = 0 then checked (.vslideUp (fld w 20 6) (fld w 14 6) (fld w 6 8) (fld w 2 4) (fld w 0 1))
    else if fld w 1 1 = 1 then checked (.vslideDn (fld w 20 6) (fld w 14 6) (fld w 6 8) (fld w 2 4) (fld w 0 1))
    else .error (.reservedBits w)
  | 16 =>
    if fld w 1 1 = 0 ∧ fld w 8 6 = 0 then checked (.vred (fld w 20 6) (fld w 14 6) (fld w 6 2) (fld w 2 4) (fld w 0 1))
    else if fld w 1 1 = 1 ∧ fld w 8 6 = 0 then checked (.vscan (fld w 20 6) (fld w 14 6) (fld w 6 2) (fld w 2 4) (fld w 0 1))
    else .error (.reservedBits w)
  | 17 =>
    checked (.vsegred (fld w 20 6) (fld w 14 6) (fld w 8 6) (fld w 4 4) (fld w 1 3) (fld w 0 1))
  | 18 =>
    if fld w 1 3 = 0 then checked (.vsortAsc (fld w 20 6) (fld w 14 6) (fld w 8 6) (fld w 4 4) (fld w 0 1))
    else if fld w 1 3 = 1 then checked (.vsortDesc (fld w 20 6) (fld w 14 6) (fld w 8 6) (fld w 4 4) (fld w 0 1))
    else .error (.reservedBits w)
  | 19 =>
    if fld w 1 3 = 0 ∧ fld w 11 3 = 0 then checked (.vcompact (fld w 20 6) (fld w 14 6) (fld w 8 3) (fld w 4 4) (fld w 0 1))
    else if fld w 1 3 = 1 ∧ fld w 11 3 = 0 then checked (.vexpand (fld w 20 6) (fld w 14 6) (fld w 8 3) (fld w 4 4) (fld w 0 1))
    else .error (.reservedBits w)
  | 20 =>
    if fld w 1 3 = 0 then checked (.vdelta (fld w 20 6) (fld w 14 6) (fld w 8 6) (fld w 4 4) (fld w 0 1))
    else .error (.reservedBits w)
  | 21 =>
    if fld w 1 3 = 0 then checked (.vrope (fld w 20 6) (fld w 14 6) (fld w 8 6) (fld w 4 4) (fld w 0 1))
    else .error (.reservedBits w)
  | 22 =>
    if fld w 1 3 = 0 then checked (.vsmax (fld w 20 6) (fld w 14 6) (fld w 8 6) (fld w 4 4) (fld w 0 1))
    else .error (.reservedBits w)
  | 23 =>
    if fld w 1 1 = 0 ∧ fld w 19 1 = 0 then checked (.vld (fld w 20 6) (fld w 14 5) (fld w 6 8) (fld w 2 4) (fld w 0 1))
    else if fld w 1 1 = 1 ∧ fld w 19 1 = 0 then checked (.vst (fld w 20 6) (fld w 14 5) (fld w 6 8) (fld w 2 4) (fld w 0 1))
    else .error (.reservedBits w)
  | 24 =>
    if fld w 1 1 = 0 ∧ fld w 25 1 = 0 then checked (.vmovs (fld w 20 5) (fld w 14 6) (fld w 6 8) (fld w 2 4) (fld w 0 1))
    else if fld w 1 1 = 1 ∧ fld w 19 1 = 0 then checked (.vins (fld w 20 6) (fld w 14 5) (fld w 6 8) (fld w 2 4) (fld w 0 1))
    else .error (.reservedBits w)
  | op => .error (.reservedMajor op)

/-- The M slot's table. -/
def decodeM (w : Nat) : Except DecodeError Instr :=
  match fld w 26 6 with
  | 0 => if w = 0 then .ok .nop else .error (.nopBits w)
  | 1 =>
    if fld w 0 14 = 0 ∧ fld w 21 5 = 0 then checked (.mlatch (fld w 16 5) (fld w 14 2))
    else .error (.reservedBits w)
  | 2 =>
    if fld w 0 7 = 0 ∧ fld w 9 5 = 0 ∧ fld w 21 5 = 0 then checked (.mlatchX (fld w 16 5) (fld w 14 2) (fld w 7 2))
    else .error (.reservedBits w)
  | 3 =>
    if fld w 5 4 = 0 then checked (.mma (fld w 21 5) (fld w 16 5) (fld w 14 2) (fld w 9 5) (fld w 4 1) (fld w 3 1) (fld w 2 1) (fld w 1 1) (fld w 0 1))
    else .error (.reservedBits w)
  | 4 =>
    if fld w 0 21 = 0 then checked (.mzero (fld w 21 5))
    else .error (.reservedBits w)
  | 5 =>
    if fld w 0 16 = 0 then checked (.mtrans (fld w 21 5) (fld w 16 5))
    else .error (.reservedBits w)
  | 6 =>
    if fld w 0 9 = 0 ∧ fld w 12 4 = 0 then checked (.mcast (fld w 21 5) (fld w 16 5) (fld w 9 3))
    else .error (.reservedBits w)
  | 7 =>
    if fld w 0 21 = 0 then checked (.msave (fld w 21 5))
    else .error (.reservedBits w)
  | 8 =>
    if fld w 0 16 = 0 ∧ fld w 21 5 = 0 then checked (.mresume (fld w 16 5))
    else .error (.reservedBits w)
  | 9 =>
    if fld w 0 26 = 0 then checked .msync
    else .error (.reservedBits w)
  | 10 =>
    if fld w 0 21 = 0 then checked (.mprobe (fld w 21 5))
    else .error (.reservedBits w)
  | op => .error (.reservedMajor op)

/-- The K slot's table. -/
def decodeK (w : Nat) : Except DecodeError Instr :=
  match fld w 26 6 with
  | 0 => if w = 0 then .ok .nop else .error (.nopBits w)
  | 1 =>
    if fld w 0 3 = 0 ∧ fld w 4 2 = 0 then checked (.tload (fld w 21 5) (fld w 16 5) (fld w 11 5) (fld w 6 5) (fld w 3 1))
    else .error (.reservedBits w)
  | 2 =>
    if fld w 2 1 = 0 then checked (.tstore (fld w 21 5) (fld w 16 5) (fld w 11 5) (fld w 6 5) (fld w 4 2) (fld w 3 1) (fld w 0 2))
    else .error (.reservedBits w)
  | 3 =>
    if fld w 0 6 = 0 then checked (.tloadIx (fld w 21 5) (fld w 16 5) (fld w 11 5) (fld w 6 5))
    else .error (.reservedBits w)
  | 4 =>
    if fld w 2 4 = 0 then checked (.gather (fld w 21 5) (fld w 16 5) (fld w 11 5) (fld w 6 5) (fld w 0 2))
    else .error (.reservedBits w)
  | 5 =>
    if fld w 2 2 = 0 then checked (.scatter (fld w 21 5) (fld w 16 5) (fld w 11 5) (fld w 6 5) (fld w 4 2) (fld w 0 2))
    else .error (.reservedBits w)
  | 6 =>
    if fld w 2 4 = 0 then checked (.copy (fld w 21 5) (fld w 16 5) (fld w 11 5) (fld w 6 5) (fld w 0 2))
    else .error (.reservedBits w)
  | 7 =>
    if fld w 2 4 = 0 ∧ fld w 11 5 = 0 then checked (.tsend (fld w 21 5) (fld w 16 5) (fld w 6 5) (fld w 0 2))
    else .error (.reservedBits w)
  | 8 =>
    if fld w 0 6 = 0 ∧ fld w 11 5 = 0 then checked (.trecv (fld w 21 5) (fld w 16 5) (fld w 6 5))
    else .error (.reservedBits w)
  | 9 =>
    if fld w 2 4 = 0 ∧ fld w 11 5 = 0 ∧ fld w 21 5 = 0 then checked (.signal (fld w 16 5) (fld w 6 5) (fld w 0 2))
    else .error (.reservedBits w)
  | 10 =>
    if fld w 2 24 = 0 then checked (.drain (fld w 0 2))
    else .error (.reservedBits w)
  | 11 =>
    if fld w 0 16 = 0 ∧ fld w 21 5 = 0 then checked (.ksave (fld w 16 5))
    else .error (.reservedBits w)
  | 12 =>
    if fld w 0 16 = 0 ∧ fld w 21 5 = 0 then checked (.kresume (fld w 16 5))
    else .error (.reservedBits w)
  | 13 =>
    if fld w 0 6 = 0 ∧ fld w 21 5 = 0 then checked (.prefetchUp (fld w 16 5) (fld w 11 5) (fld w 6 5))
    else if fld w 0 6 = 4 ∧ fld w 21 5 = 0 then checked (.prefetchDn (fld w 16 5) (fld w 11 5) (fld w 6 5))
    else .error (.reservedBits w)
  | 14 =>
    if fld w 0 6 = 0 ∧ fld w 11 5 = 0 then checked (.route (fld w 21 5) (fld w 16 5) (fld w 6 5))
    else .error (.reservedBits w)
  | 15 =>
    if fld w 0 6 = 0 ∧ fld w 11 5 = 0 ∧ fld w 21 5 = 0 then checked (.routeClose (fld w 16 5) (fld w 6 5))
    else .error (.reservedBits w)
  | 32 =>
    if fld w 0 6 = 0 ∧ fld w 11 5 = 0 then checked (.pitScaleadd (fld w 21 5) (fld w 16 5) (fld w 6 5))
    else .error (.reservedBits w)
  | 33 =>
    if fld w 0 6 = 0 ∧ fld w 11 5 = 0 then checked (.pitAtomadd (fld w 21 5) (fld w 16 5) (fld w 6 5))
    else .error (.reservedBits w)
  | 34 =>
    if fld w 0 6 = 0 ∧ fld w 11 5 = 0 then checked (.pitAttn (fld w 21 5) (fld w 16 5) (fld w 6 5))
    else .error (.reservedBits w)
  | 35 =>
    if fld w 0 6 = 0 ∧ fld w 11 15 = 0 then checked (.pitFence (fld w 6 5))
    else .error (.reservedBits w)
  | 36 =>
    if fld w 0 6 = 0 ∧ fld w 11 5 = 0 then checked (.pitXload (fld w 21 5) (fld w 16 5) (fld w 6 5))
    else .error (.reservedBits w)
  | 37 =>
    if fld w 0 6 = 0 ∧ fld w 11 5 = 0 ∧ fld w 21 5 = 0 then checked (.pitXlock (fld w 16 5) (fld w 6 5))
    else .error (.reservedBits w)
  | 38 =>
    if fld w 0 6 = 0 ∧ fld w 11 5 = 0 ∧ fld w 21 5 = 0 then checked (.pitXunlock (fld w 16 5) (fld w 6 5))
    else .error (.reservedBits w)
  | op => .error (.reservedMajor op)

/-- The X slot's table. -/
def decodeX (w : Nat) : Except DecodeError Instr :=
  match fld w 26 6 with
  | 0 => if w = 0 then .ok .nop else .error (.nopBits w)
  | 1 =>
    if fld w 0 16 = 0 then checked (.tdef (fld w 21 5) (fld w 16 5))
    else .error (.reservedBits w)
  | 2 =>
    if fld w 0 16 = 0 then checked (.tbind (fld w 21 5) (fld w 16 5))
    else .error (.reservedBits w)
  | 3 =>
    if fld w 0 11 = 0 then checked (.treshape (fld w 21 5) (fld w 16 5) (fld w 11 5))
    else .error (.reservedBits w)
  | 4 =>
    if fld w 0 16 = 0 then checked (.ttranspose (fld w 21 5) (fld w 16 5))
    else .error (.reservedBits w)
  | 5 =>
    if fld w 5 11 = 0 then checked (.tcast (fld w 21 5) (fld w 16 5) (fld w 0 5))
    else .error (.reservedBits w)
  | 6 =>
    if fld w 0 16 = 0 then checked (.ttype (fld w 21 5) (fld w 16 5))
    else .error (.reservedBits w)
  | 7 =>
    if fld w 0 16 = 0 then checked (.tcheck (fld w 21 5) (fld w 16 5))
    else .error (.reservedBits w)
  | 8 =>
    if fld w 0 11 = 0 ∧ fld w 21 5 = 0 then checked (.dvSet (fld w 16 5) (fld w 11 5))
    else .error (.reservedBits w)
  | 9 =>
    if fld w 0 16 = 0 then checked (.dvGet (fld w 21 5) (fld w 16 5))
    else .error (.reservedBits w)
  | 10 =>
    if fld w 0 16 = 0 ∧ fld w 21 5 = 0 then checked (.dvClear (fld w 16 5))
    else .error (.reservedBits w)
  | 11 =>
    if fld w 0 11 = 0 ∧ fld w 21 5 = 0 then checked (.dvBound (fld w 16 5) (fld w 11 5))
    else .error (.reservedBits w)
  | 12 =>
    if fld w 0 16 = 0 then checked (.accAlloc (fld w 21 5) (fld w 16 5))
    else .error (.reservedBits w)
  | 13 =>
    if fld w 0 11 = 0 ∧ fld w 21 5 = 0 then checked (.accFree (fld w 16 5) (fld w 11 5))
    else .error (.reservedBits w)
  | 14 =>
    if fld w 5 11 = 0 ∧ fld w 21 5 = 0 then checked (.accWin (fld w 16 5) (fld w 0 5))
    else .error (.reservedBits w)
  | 16 =>
    if fld w 0 11 = 0 ∧ fld w 21 5 = 0 then checked (.pgLoad (fld w 16 5) (fld w 11 5))
    else .error (.reservedBits w)
  | 17 =>
    if fld w 0 16 = 0 ∧ fld w 21 5 = 0 then checked (.pgStartFwd (fld w 16 5))
    else if fld w 0 16 = 1 ∧ fld w 21 5 = 0 then checked (.pgStartTr (fld w 16 5))
    else .error (.reservedBits w)
  | 18 =>
    if fld w 0 16 = 0 then checked (.pgNext (fld w 21 5) (fld w 16 5))
    else .error (.reservedBits w)
  | 19 =>
    if fld w 0 16 = 0 then checked (.pgNextblk (fld w 21 5) (fld w 16 5))
    else .error (.reservedBits w)
  | 20 =>
    if fld w 0 11 = 0 ∧ fld w 21 5 = 0 then checked (.pgSave (fld w 16 5) (fld w 11 5))
    else .error (.reservedBits w)
  | 21 =>
    if fld w 0 11 = 0 ∧ fld w 21 5 = 0 then checked (.pgRestore (fld w 16 5) (fld w 11 5))
    else .error (.reservedBits w)
  | 24 =>
    if fld w 0 26 = 0 then checked .treeClear
    else .error (.reservedBits w)
  | 25 =>
    if fld w 0 11 = 0 ∧ fld w 21 5 = 0 then checked (.treeRoot (fld w 16 5) (fld w 11 5))
    else .error (.reservedBits w)
  | 26 =>
    if fld w 8 8 = 0 then checked (.treeAdd (fld w 21 5) (fld w 16 5) (fld w 0 8))
    else .error (.reservedBits w)
  | 27 =>
    if fld w 8 13 = 0 then checked (.treeMaskF32 (fld w 21 5) (fld w 0 8))
    else if fld w 8 13 = 1 then checked (.treeMaskBf16 (fld w 21 5) (fld w 0 8))
    else .error (.reservedBits w)
  | 28 =>
    if fld w 8 13 = 0 ∧ fld w 24 2 = 0 then checked (.treeMaskk (fld w 21 3) (fld w 0 8))
    else .error (.reservedBits w)
  | 29 =>
    if fld w 0 21 = 0 then checked (.treePosLo (fld w 21 5))
    else if fld w 0 21 = 1 then checked (.treePosHi (fld w 21 5))
    else .error (.reservedBits w)
  | 30 =>
    if fld w 8 18 = 0 then checked (.treePrune (fld w 0 8))
    else .error (.reservedBits w)
  | 31 =>
    if fld w 0 21 = 0 then checked (.treeMap (fld w 21 5))
    else .error (.reservedBits w)
  | 32 =>
    if fld w 0 16 = 0 ∧ fld w 21 5 = 0 then checked (.treeSave (fld w 16 5))
    else .error (.reservedBits w)
  | 33 =>
    if fld w 0 16 = 0 ∧ fld w 21 5 = 0 then checked (.treeLoad (fld w 16 5))
    else .error (.reservedBits w)
  | 36 =>
    if fld w 2 14 = 0 ∧ fld w 21 5 = 0 then checked (.portSet (fld w 16 5) (fld w 0 2))
    else .error (.reservedBits w)
  | 37 =>
    if fld w 2 24 = 0 then checked (.portReset (fld w 0 2))
    else .error (.reservedBits w)
  | 40 =>
    if fld w 0 26 = 0 then checked .wfence
    else .error (.reservedBits w)
  | op => .error (.reservedMajor op)

/-- The decoder of a slot. -/
def decodeSlot : SlotKind → Nat → Except DecodeError Instr
  | .c, w => if w < 2 ^ 32 then decodeC w else .error .tooWide
  | .s, w => if w < 2 ^ 32 then decodeS w else .error .tooWide
  | .v, w => if w < 2 ^ 32 then decodeV w else .error .tooWide
  | .m, w => if w < 2 ^ 32 then decodeM w else .error .tooWide
  | .k, w => if w < 2 ^ 32 then decodeK w else .error .tooWide
  | .x, w => if w < 2 ^ 32 then decodeX w else .error .tooWide

/-- The slot kinds of slots 0 to 7 (R21). -/
def slotKindOf : Nat → SlotKind
  | 0 => .c | 1 => .s | 2 => .v | 3 => .v | 4 => .m | 5 => .k | 6 => .k | _ => .x

/-- What the encoding says of an instruction beside its fields: its slot table (none for an event; NOP stands in every table and counts
for C, R24), its profile (R60), the tiles and the mark it names (R32), whether it is a control transfer (R47) and has delay bundles (R46). -/
structure InstrInfo where
  slot : Option SlotKind
  profile : Nat := 1
  tiles : List Nat := []
  mark : Option Nat := none
  transfer : Bool := false
  delays : Bool := false
  deriving DecidableEq, Repr

/-- The facts of each instruction. -/
def Instr.info : Instr → InstrInfo
  | .nop => ⟨some .c, 1, [], none, false, false⟩
  | .pbr _ _ => ⟨some .c, 1, [], none, false, false⟩
  | .pbrr _ _ _ => ⟨some .c, 1, [], none, false, false⟩
  | .br _ => ⟨some .c, 1, [], none, true, true⟩
  | .brp _ _ _ => ⟨some .c, 1, [], none, true, true⟩
  | .call _ _ _ => ⟨some .c, 1, [], none, true, true⟩
  | .ret _ _ => ⟨some .c, 1, [], none, true, true⟩
  | .loop _ _ _ => ⟨some .c, 1, [], none, true, false⟩
  | .loops _ _ _ => ⟨some .c, 1, [], none, true, false⟩
  | .voteAny _ _ => ⟨some .c, 1, [], none, false, false⟩
  | .voteAll _ _ => ⟨some .c, 1, [], none, false, false⟩
  | .cuePush _ _ => ⟨some .c, 1, [], none, false, false⟩
  | .cueFork _ _ => ⟨some .c, 1, [], none, false, false⟩
  | .cueExit => ⟨some .c, 1, [], none, true, false⟩
  | .cueSelf _ => ⟨some .c, 1, [], none, false, false⟩
  | .ensJoin _ => ⟨some .c, 1, [], none, false, false⟩
  | .ensLeave _ => ⟨some .c, 1, [], none, false, false⟩
  | .ensSize _ _ => ⟨some .c, 1, [], none, false, false⟩
  | .markInit _ m => ⟨some .c, 1, [], some m, false, false⟩
  | .markInitEns _ m => ⟨some .c, 1, [], some m, false, false⟩
  | .markArrive _ m => ⟨some .c, 1, [], some m, false, false⟩
  | .markWait _ m => ⟨some .c, 1, [], some m, false, false⟩
  | .markAwait _ m => ⟨some .c, 1, [], some m, false, false⟩
  | .ensembleCountNotice _ _ => ⟨none, 1, [], none, false, false⟩
  | .waita _ _ _ => ⟨some .c, 1, [], none, false, false⟩
  | .waitaRetest _ => ⟨none, 1, [], none, false, false⟩
  | .trap _ => ⟨some .c, 1, [], none, true, false⟩
  | .eret => ⟨some .c, 1, [], none, true, false⟩
  | .halt => ⟨some .c, 1, [], none, true, false⟩
  | .sysrd _ _ => ⟨some .c, 1, [], none, false, false⟩
  | .syswr _ _ => ⟨some .c, 1, [], none, false, false⟩
  | .nopreWrite _ _ => ⟨some .c, 1, [], none, false, false⟩
  | .nopreTimeout _ => ⟨none, 1, [], none, false, false⟩
  | .stickyWrite _ _ => ⟨some .c, 1, [], none, false, false⟩
  | .evselWrite _ _ => ⟨some .c, 1, [], none, false, false⟩
  | .rootWrite _ _ => ⟨some .c, 1, [], none, false, false⟩
  | .duetctlWrite _ _ => ⟨some .c, 1, [], none, false, false⟩
  | .admitSeg _ _ => ⟨some .c, 1, [], none, false, false⟩
  | .admitReport _ => ⟨none, 1, [], none, false, false⟩
  | .add _ _ _ => ⟨some .s, 1, [], none, false, false⟩
  | .sub _ _ _ => ⟨some .s, 1, [], none, false, false⟩
  | .and _ _ _ => ⟨some .s, 1, [], none, false, false⟩
  | .or _ _ _ => ⟨some .s, 1, [], none, false, false⟩
  | .xor _ _ _ => ⟨some .s, 1, [], none, false, false⟩
  | .shl _ _ _ => ⟨some .s, 1, [], none, false, false⟩
  | .shr _ _ _ => ⟨some .s, 1, [], none, false, false⟩
  | .sra _ _ _ => ⟨some .s, 1, [], none, false, false⟩
  | .min _ _ _ => ⟨some .s, 1, [], none, false, false⟩
  | .max _ _ _ => ⟨some .s, 1, [], none, false, false⟩
  | .minu _ _ _ => ⟨some .s, 1, [], none, false, false⟩
  | .maxu _ _ _ => ⟨some .s, 1, [], none, false, false⟩
  | .clz _ _ => ⟨some .s, 1, [], none, false, false⟩
  | .popc _ _ => ⟨some .s, 1, [], none, false, false⟩
  | .sel _ _ _ _ => ⟨some .s, 1, [], none, false, false⟩
  | .mul _ _ _ => ⟨some .s, 1, [], none, false, false⟩
  | .mulh _ _ _ => ⟨some .s, 1, [], none, false, false⟩
  | .mulhu _ _ _ => ⟨some .s, 1, [], none, false, false⟩
  | .div _ _ _ => ⟨some .s, 1, [], none, false, false⟩
  | .divu _ _ _ => ⟨some .s, 1, [], none, false, false⟩
  | .rem _ _ _ => ⟨some .s, 1, [], none, false, false⟩
  | .remu _ _ _ => ⟨some .s, 1, [], none, false, false⟩
  | .cmp _ _ _ _ => ⟨some .s, 1, [], none, false, false⟩
  | .pand _ _ _ => ⟨some .s, 1, [], none, false, false⟩
  | .por _ _ _ => ⟨some .s, 1, [], none, false, false⟩
  | .pxor _ _ _ => ⟨some .s, 1, [], none, false, false⟩
  | .pnot _ _ => ⟨some .s, 1, [], none, false, false⟩
  | .addi _ _ _ => ⟨some .s, 1, [], none, false, false⟩
  | .andi _ _ _ => ⟨some .s, 1, [], none, false, false⟩
  | .ori _ _ _ => ⟨some .s, 1, [], none, false, false⟩
  | .xori _ _ _ => ⟨some .s, 1, [], none, false, false⟩
  | .shli _ _ _ => ⟨some .s, 1, [], none, false, false⟩
  | .shri _ _ _ => ⟨some .s, 1, [], none, false, false⟩
  | .srai _ _ _ => ⟨some .s, 1, [], none, false, false⟩
  | .movi _ _ => ⟨some .s, 1, [], none, false, false⟩
  | .movhi _ _ _ => ⟨some .s, 1, [], none, false, false⟩
  | .cmpi _ _ _ _ => ⟨some .s, 1, [], none, false, false⟩
  | .lds _ _ _ _ => ⟨some .s, 1, [], none, false, false⟩
  | .sts _ _ _ _ => ⟨some .s, 1, [], none, false, false⟩
  | .ldg _ _ _ _ _ _ => ⟨some .s, 1, [], none, false, false⟩
  | .stg _ _ _ _ _ _ => ⟨some .s, 1, [], none, false, false⟩
  | .scalarAccessComplete _ _ => ⟨none, 1, [], none, false, false⟩
  | .amoAdd _ _ _ _ _ _ => ⟨some .s, 1, [], none, false, false⟩
  | .amoSwap _ _ _ _ _ _ => ⟨some .s, 1, [], none, false, false⟩
  | .amoCas _ _ _ _ _ _ => ⟨some .s, 1, [], none, false, false⟩
  | .amoMin _ _ _ _ _ _ => ⟨some .s, 1, [], none, false, false⟩
  | .amoMax _ _ _ _ _ _ => ⟨some .s, 1, [], none, false, false⟩
  | .amoAnd _ _ _ _ _ _ => ⟨some .s, 1, [], none, false, false⟩
  | .amoOr _ _ _ _ _ _ => ⟨some .s, 1, [], none, false, false⟩
  | .fadd _ _ _ _ _ => ⟨some .s, 1, [], none, false, false⟩
  | .fmul _ _ _ _ _ => ⟨some .s, 1, [], none, false, false⟩
  | .fcvtI _ _ _ _ => ⟨some .s, 1, [], none, false, false⟩
  | .fcvtF _ _ _ _ => ⟨some .s, 1, [], none, false, false⟩
  | .resultLand _ => ⟨none, 1, [], none, false, false⟩
  | .vadd _ _ _ _ _ => ⟨some .v, 1, [], none, false, false⟩
  | .vsub _ _ _ _ _ => ⟨some .v, 1, [], none, false, false⟩
  | .vmin _ _ _ _ _ => ⟨some .v, 1, [], none, false, false⟩
  | .vmax _ _ _ _ _ => ⟨some .v, 1, [], none, false, false⟩
  | .vabs _ _ _ _ => ⟨some .v, 1, [], none, false, false⟩
  | .vneg _ _ _ _ => ⟨some .v, 1, [], none, false, false⟩
  | .vmul _ _ _ _ _ => ⟨some .v, 1, [], none, false, false⟩
  | .vfma _ _ _ _ _ => ⟨some .v, 1, [], none, false, false⟩
  | .vfms _ _ _ _ _ => ⟨some .v, 1, [], none, false, false⟩
  | .vrcp _ _ _ _ => ⟨some .v, 1, [], none, false, false⟩
  | .vrsq _ _ _ _ => ⟨some .v, 1, [], none, false, false⟩
  | .vsqrt _ _ _ _ => ⟨some .v, 1, [], none, false, false⟩
  | .vexp2 _ _ _ _ => ⟨some .v, 1, [], none, false, false⟩
  | .vlog2 _ _ _ _ => ⟨some .v, 1, [], none, false, false⟩
  | .vtanh _ _ _ _ => ⟨some .v, 1, [], none, false, false⟩
  | .viadd _ _ _ _ _ => ⟨some .v, 1, [], none, false, false⟩
  | .visub _ _ _ _ _ => ⟨some .v, 1, [], none, false, false⟩
  | .vimul _ _ _ _ _ => ⟨some .v, 1, [], none, false, false⟩
  | .vimin _ _ _ _ _ => ⟨some .v, 1, [], none, false, false⟩
  | .vimax _ _ _ _ _ => ⟨some .v, 1, [], none, false, false⟩
  | .vand _ _ _ _ _ => ⟨some .v, 1, [], none, false, false⟩
  | .vor _ _ _ _ _ => ⟨some .v, 1, [], none, false, false⟩
  | .vxor _ _ _ _ _ => ⟨some .v, 1, [], none, false, false⟩
  | .vshl _ _ _ _ _ => ⟨some .v, 1, [], none, false, false⟩
  | .vshr _ _ _ _ _ => ⟨some .v, 1, [], none, false, false⟩
  | .vsra _ _ _ _ _ => ⟨some .v, 1, [], none, false, false⟩
  | .vcmp _ _ _ _ _ _ => ⟨some .v, 1, [], none, false, false⟩
  | .vsel _ _ _ _ _ _ => ⟨some .v, 1, [], none, false, false⟩
  | .vkand _ _ _ _ _ => ⟨some .v, 1, [], none, false, false⟩
  | .vkor _ _ _ _ _ => ⟨some .v, 1, [], none, false, false⟩
  | .vknot _ _ _ _ => ⟨some .v, 1, [], none, false, false⟩
  | .vcvt _ _ _ _ _ _ => ⟨some .v, 1, [], none, false, false⟩
  | .vbcast _ _ _ _ => ⟨some .v, 1, [], none, false, false⟩
  | .vmov _ _ _ _ => ⟨some .v, 1, [], none, false, false⟩
  | .viota _ _ _ => ⟨some .v, 1, [], none, false, false⟩
  | .vshuf _ _ _ _ _ => ⟨some .v, 1, [], none, false, false⟩
  | .vslideUp _ _ _ _ _ => ⟨some .v, 1, [], none, false, false⟩
  | .vslideDn _ _ _ _ _ => ⟨some .v, 1, [], none, false, false⟩
  | .vred _ _ _ _ _ => ⟨some .v, 1, [], none, false, false⟩
  | .vscan _ _ _ _ _ => ⟨some .v, 1, [], none, false, false⟩
  | .vsegred _ _ _ _ _ _ => ⟨some .v, 1, [], none, false, false⟩
  | .vsortAsc _ _ _ _ _ => ⟨some .v, 1, [], none, false, false⟩
  | .vsortDesc _ _ _ _ _ => ⟨some .v, 1, [], none, false, false⟩
  | .vcompact _ _ _ _ _ => ⟨some .v, 1, [], none, false, false⟩
  | .vexpand _ _ _ _ _ => ⟨some .v, 1, [], none, false, false⟩
  | .vdelta _ _ _ _ _ => ⟨some .v, 3, [], none, false, false⟩
  | .vrope _ _ _ _ _ => ⟨some .v, 2, [], none, false, false⟩
  | .vsmax _ _ _ _ _ => ⟨some .v, 2, [], none, false, false⟩
  | .vld _ _ _ _ _ => ⟨some .v, 1, [], none, false, false⟩
  | .vst _ _ _ _ _ => ⟨some .v, 1, [], none, false, false⟩
  | .vmovs _ _ _ _ _ => ⟨some .v, 1, [], none, false, false⟩
  | .vins _ _ _ _ _ => ⟨some .v, 1, [], none, false, false⟩
  | .mlatch a _ => ⟨some .m, 1, [a], none, false, false⟩
  | .mlatchX a _ _ => ⟨some .m, 2, [a], none, false, false⟩
  | .mma d a _ c _ _ u _ _ => ⟨some .m, 1, if u = 1 then [d, a, c] else [d, a], none, false, false⟩
  | .mzero d => ⟨some .m, 1, [d], none, false, false⟩
  | .mtrans d a => ⟨some .m, 1, [d, a], none, false, false⟩
  | .mcast d a _ => ⟨some .m, 1, [d, a], none, false, false⟩
  | .msave s => ⟨some .m, 1, [s], none, false, false⟩
  | .mresume s => ⟨some .m, 1, [s], none, false, false⟩
  | .msync => ⟨some .m, 1, [], none, false, false⟩
  | .mprobe _ => ⟨some .m, 1, [], none, false, false⟩
  | .mCommandStart _ => ⟨none, 1, [], none, false, false⟩
  | .mCommandComplete _ => ⟨none, 1, [], none, false, false⟩
  | .migration _ => ⟨none, 1, [], none, false, false⟩
  | .recall _ => ⟨none, 1, [], none, false, false⟩
  | .duetWindowSwitch _ => ⟨none, 1, [], none, false, false⟩
  | .tload t _ _ _ _ => ⟨some .k, 1, [t], none, false, false⟩
  | .tstore t _ _ _ _ _ _ => ⟨some .k, 1, [t], none, false, false⟩
  | .tloadIx t _ i _ => ⟨some .k, 1, [t, i], none, false, false⟩
  | .gather t _ i _ _ => ⟨some .k, 1, [t, i], none, false, false⟩
  | .scatter t _ i _ _ _ => ⟨some .k, 1, [t, i], none, false, false⟩
  | .copy _ _ _ _ _ => ⟨some .k, 1, [], none, false, false⟩
  | .tsend t _ _ _ => ⟨some .k, 1, [t], none, false, false⟩
  | .trecv t _ _ => ⟨some .k, 1, [t], none, false, false⟩
  | .signal _ _ _ => ⟨some .k, 1, [], none, false, false⟩
  | .drain _ => ⟨some .k, 1, [], none, false, false⟩
  | .ksave _ => ⟨some .k, 1, [], none, false, false⟩
  | .kresume _ => ⟨some .k, 1, [], none, false, false⟩
  | .prefetchUp _ _ _ => ⟨some .k, 1, [], none, false, false⟩
  | .prefetchDn _ _ _ => ⟨some .k, 1, [], none, false, false⟩
  | .route t _ _ => ⟨some .k, 2, [t], none, false, false⟩
  | .routeClose _ _ => ⟨some .k, 2, [], none, false, false⟩
  | .routePairArrival _ _ => ⟨none, 1, [], none, false, false⟩
  | .kCommandStart _ _ => ⟨none, 1, [], none, false, false⟩
  | .kCommandComplete _ _ => ⟨none, 1, [], none, false, false⟩
  | .pitScaleadd t _ _ => ⟨some .k, 1, [t], none, false, false⟩
  | .pitAtomadd t _ _ => ⟨some .k, 1, [t], none, false, false⟩
  | .pitAttn t _ _ => ⟨some .k, 2, [t], none, false, false⟩
  | .pitFence _ => ⟨some .k, 1, [], none, false, false⟩
  | .pitXload t _ _ => ⟨some .k, 3, [t], none, false, false⟩
  | .pitXlock _ _ => ⟨some .k, 3, [], none, false, false⟩
  | .pitXunlock _ _ => ⟨some .k, 3, [], none, false, false⟩
  | .pitDispatch _ _ => ⟨none, 1, [], none, false, false⟩
  | .pitCommandRun _ => ⟨none, 1, [], none, false, false⟩
  | .pitCommandComplete _ => ⟨none, 1, [], none, false, false⟩
  | .pitSuspend _ => ⟨none, 1, [], none, false, false⟩
  | .pitResume _ => ⟨none, 1, [], none, false, false⟩
  | .pitWindowEnd _ => ⟨none, 1, [], none, false, false⟩
  | .pitStatusArrival _ => ⟨none, 1, [], none, false, false⟩
  | .tdef t _ => ⟨some .x, 1, [t], none, false, false⟩
  | .tbind t _ => ⟨some .x, 1, [t], none, false, false⟩
  | .treshape t a _ => ⟨some .x, 1, [t, a], none, false, false⟩
  | .ttranspose t a => ⟨some .x, 1, [t, a], none, false, false⟩
  | .tcast t a _ => ⟨some .x, 1, [t, a], none, false, false⟩
  | .ttype t _ => ⟨some .x, 1, [t], none, false, false⟩
  | .tcheck t _ => ⟨some .x, 1, [t], none, false, false⟩
  | .dvSet _ _ => ⟨some .x, 1, [], none, false, false⟩
  | .dvGet _ _ => ⟨some .x, 1, [], none, false, false⟩
  | .dvClear _ => ⟨some .x, 1, [], none, false, false⟩
  | .dvBound _ _ => ⟨some .x, 1, [], none, false, false⟩
  | .accAlloc _ _ => ⟨some .x, 1, [], none, false, false⟩
  | .accFree _ _ => ⟨some .x, 1, [], none, false, false⟩
  | .accWin _ _ => ⟨some .x, 1, [], none, false, false⟩
  | .pgLoad _ _ => ⟨some .x, 1, [], none, false, false⟩
  | .pgStartFwd _ => ⟨some .x, 1, [], none, false, false⟩
  | .pgStartTr _ => ⟨some .x, 1, [], none, false, false⟩
  | .countPassEnd _ _ => ⟨none, 1, [], none, false, false⟩
  | .pgNext _ _ => ⟨some .x, 1, [], none, false, false⟩
  | .pgNextblk _ _ => ⟨some .x, 1, [], none, false, false⟩
  | .pgSave _ _ => ⟨some .x, 1, [], none, false, false⟩
  | .pgRestore _ _ => ⟨some .x, 1, [], none, false, false⟩
  | .treeClear => ⟨some .x, 2, [], none, false, false⟩
  | .treeRoot _ _ => ⟨some .x, 2, [], none, false, false⟩
  | .treeAdd _ _ _ => ⟨some .x, 2, [], none, false, false⟩
  | .treeMaskF32 _ _ => ⟨some .x, 2, [], none, false, false⟩
  | .treeMaskBf16 _ _ => ⟨some .x, 2, [], none, false, false⟩
  | .treeMaskk _ _ => ⟨some .x, 2, [], none, false, false⟩
  | .treePosLo _ => ⟨some .x, 2, [], none, false, false⟩
  | .treePosHi _ => ⟨some .x, 2, [], none, false, false⟩
  | .treePrune _ => ⟨some .x, 2, [], none, false, false⟩
  | .treeMap _ => ⟨some .x, 3, [], none, false, false⟩
  | .treeSave _ => ⟨some .x, 2, [], none, false, false⟩
  | .treeLoad _ => ⟨some .x, 2, [], none, false, false⟩
  | .portSet _ _ => ⟨some .x, 1, [], none, false, false⟩
  | .portReset _ => ⟨some .x, 1, [], none, false, false⟩
  | .wfence => ⟨some .x, 1, [], none, false, false⟩
  | .trapEntry _ => ⟨none, 1, [], none, false, false⟩
  | .prompterPick _ => ⟨none, 1, [], none, false, false⟩
  | .ageStep _ _ => ⟨none, 1, [], none, false, false⟩
  | .prestageFill _ _ => ⟨none, 1, [], none, false, false⟩
  | .enqueueBufferDrain _ => ⟨none, 1, [], none, false, false⟩
  | .curtain _ => ⟨none, 1, [], none, false, false⟩
  | .contextResume _ => ⟨none, 1, [], none, false, false⟩
  | .remoteWrite _ _ _ => ⟨none, 1, [], none, false, false⟩
  | .remoteRead _ _ => ⟨none, 1, [], none, false, false⟩
  | .remoteWritePerform _ => ⟨none, 1, [], none, false, false⟩
  | .hostMemoryAccess _ _ _ _ _ => ⟨none, 1, [], none, false, false⟩
  | .hostPush _ _ _ _ _ => ⟨none, 1, [], none, false, false⟩
  | .qbaseWrite _ _ _ _ => ⟨none, 1, [], none, false, false⟩
  | .pushstatWrite _ _ _ _ => ⟨none, 1, [], none, false, false⟩
  | .approveWrite _ _ _ => ⟨none, 1, [], none, false, false⟩
  | .configProposal _ _ => ⟨none, 1, [], none, false, false⟩
  | .attestRequest _ => ⟨none, 1, [], none, false, false⟩
  | .attestReportReady _ => ⟨none, 1, [], none, false, false⟩
  | .nonceWrite _ _ _ => ⟨none, 1, [], none, false, false⟩
  | .throttleWrite _ => ⟨none, 1, [], none, false, false⟩
  | .pstateWrite _ => ⟨none, 1, [], none, false, false⟩
  | .registerWrite _ _ _ => ⟨none, 1, [], none, false, false⟩
  | .debugStop _ _ => ⟨none, 1, [], none, false, false⟩
  | .debugRegisterWrite _ _ _ _ _ => ⟨none, 1, [], none, false, false⟩
  | .debugRegisterRead _ _ _ _ => ⟨none, 1, [], none, false, false⟩
  | .debugRestart _ _ => ⟨none, 1, [], none, false, false⟩
  | .moduleReset => ⟨none, 1, [], none, false, false⟩
  | .clockStep _ => ⟨none, 1, [], none, false, false⟩
  | .linkFailure _ => ⟨none, 1, [], none, false, false⟩
  | .remoteTimeout _ _ _ => ⟨none, 1, [], none, false, false⟩
  | .reduceContribution _ _ _ _ => ⟨none, 1, [], none, false, false⟩
  | .selfTestStart _ _ _ => ⟨none, 1, [], none, false, false⟩
  | .selfTestEnd _ _ => ⟨none, 1, [], none, false, false⟩
  | .linkRetrainComplete _ => ⟨none, 1, [], none, false, false⟩

/-- A slot word: its fixed bits and its fields, each at the bit where it starts. -/
def pack (base : Nat) (fs : List (Nat × Nat)) : Nat := fs.foldr (fun f acc => acc + f.1 * 2 ^ f.2) base

/-- The slot word of an instruction; an event has no word and gives 0. -/
def encode : Instr → Nat
  | .nop => pack 0x00000000 []
  | .pbr t i => pack 0x04000000 [(t, 23), (i, 0)]
  | .pbrr t a i => pack 0x08000000 [(t, 23), (a, 18), (i, 0)]
  | .br t => pack 0x0C000000 [(t, 23)]
  | .brp t p n => pack 0x10000000 [(t, 23), (p, 19), (n, 18)]
  | .call t p n => pack 0x14000000 [(t, 23), (p, 19), (n, 18)]
  | .ret p n => pack 0x18000000 [(p, 19), (n, 18)]
  | .loop t a s => pack 0x1C000000 [(t, 23), (a, 18), (s, 0)]
  | .loops t a s => pack 0x20000000 [(t, 23), (a, 18), (s, 0)]
  | .voteAny p k => pack 0x24000000 [(p, 19), (k, 0)]
  | .voteAll p k => pack 0x24010000 [(p, 19), (k, 0)]
  | .cuePush a b => pack 0x40000000 [(a, 18), (b, 13)]
  | .cueFork a b => pack 0x44000000 [(a, 18), (b, 13)]
  | .cueExit => pack 0x48000000 []
  | .cueSelf a => pack 0x4C000000 [(a, 18)]
  | .ensJoin a => pack 0x50000000 [(a, 18)]
  | .ensLeave a => pack 0x54000000 [(a, 18)]
  | .ensSize a b => pack 0x58000000 [(a, 18), (b, 13)]
  | .markInit a m => pack 0x60000000 [(a, 18), (m, 0)]
  | .markInitEns a m => pack 0x60000800 [(a, 18), (m, 0)]
  | .markArrive a m => pack 0x64000000 [(a, 18), (m, 0)]
  | .markWait a m => pack 0x68000000 [(a, 18), (m, 0)]
  | .markAwait a m => pack 0x6C000000 [(a, 18), (m, 0)]
  | .ensembleCountNotice _ _ => 0
  | .waita a b c => pack 0x70000000 [(a, 18), (b, 13), (c, 0)]
  | .waitaRetest _ => 0
  | .trap i => pack 0xC0000000 [(i, 0)]
  | .eret => pack 0xC4000000 []
  | .halt => pack 0xC8000000 []
  | .sysrd a n => pack 0xCC000000 [(a, 18), (n, 0)]
  | .syswr a n => pack 0xD0000000 [(a, 18), (n, 0)]
  | .nopreWrite a n => pack 0xD0000000 [(a, 18), (n, 0)]
  | .nopreTimeout _ => 0
  | .stickyWrite a n => pack 0xD0000000 [(a, 18), (n, 0)]
  | .evselWrite a n => pack 0xD0000000 [(a, 18), (n, 0)]
  | .rootWrite a n => pack 0xD0000000 [(a, 18), (n, 0)]
  | .duetctlWrite a n => pack 0xD0000000 [(a, 18), (n, 0)]
  | .admitSeg a b => pack 0xD4000000 [(a, 18), (b, 13)]
  | .admitReport _ => 0
  | .add d a b => pack 0x04000000 [(d, 21), (a, 16), (b, 11)]
  | .sub d a b => pack 0x04000020 [(d, 21), (a, 16), (b, 11)]
  | .and d a b => pack 0x04000040 [(d, 21), (a, 16), (b, 11)]
  | .or d a b => pack 0x04000060 [(d, 21), (a, 16), (b, 11)]
  | .xor d a b => pack 0x04000080 [(d, 21), (a, 16), (b, 11)]
  | .shl d a b => pack 0x040000A0 [(d, 21), (a, 16), (b, 11)]
  | .shr d a b => pack 0x040000C0 [(d, 21), (a, 16), (b, 11)]
  | .sra d a b => pack 0x040000E0 [(d, 21), (a, 16), (b, 11)]
  | .min d a b => pack 0x04000100 [(d, 21), (a, 16), (b, 11)]
  | .max d a b => pack 0x04000120 [(d, 21), (a, 16), (b, 11)]
  | .minu d a b => pack 0x04000140 [(d, 21), (a, 16), (b, 11)]
  | .maxu d a b => pack 0x04000160 [(d, 21), (a, 16), (b, 11)]
  | .clz d a => pack 0x04000180 [(d, 21), (a, 16)]
  | .popc d a => pack 0x040001A0 [(d, 21), (a, 16)]
  | .sel d a b p => pack 0x040001C0 [(d, 21), (a, 16), (b, 11), (p, 0)]
  | .mul d a b => pack 0x08000000 [(d, 21), (a, 16), (b, 11)]
  | .mulh d a b => pack 0x08000020 [(d, 21), (a, 16), (b, 11)]
  | .mulhu d a b => pack 0x08000040 [(d, 21), (a, 16), (b, 11)]
  | .div d a b => pack 0x08000080 [(d, 21), (a, 16), (b, 11)]
  | .divu d a b => pack 0x080000A0 [(d, 21), (a, 16), (b, 11)]
  | .rem d a b => pack 0x080000C0 [(d, 21), (a, 16), (b, 11)]
  | .remu d a b => pack 0x080000E0 [(d, 21), (a, 16), (b, 11)]
  | .cmp d a b c => pack 0x0C000000 [(d, 21), (a, 16), (b, 11), (c, 0)]
  | .pand d a b => pack 0x10000000 [(d, 21), (a, 16), (b, 11)]
  | .por d a b => pack 0x10000020 [(d, 21), (a, 16), (b, 11)]
  | .pxor d a b => pack 0x10000040 [(d, 21), (a, 16), (b, 11)]
  | .pnot d a => pack 0x10000060 [(d, 21), (a, 16)]
  | .addi d a i => pack 0x14000000 [(d, 21), (a, 16), (i, 0)]
  | .andi d a i => pack 0x18000000 [(d, 21), (a, 16), (i, 0)]
  | .ori d a i => pack 0x1C000000 [(d, 21), (a, 16), (i, 0)]
  | .xori d a i => pack 0x20000000 [(d, 21), (a, 16), (i, 0)]
  | .shli d a n => pack 0x24000000 [(d, 21), (a, 16), (n, 0)]
  | .shri d a n => pack 0x28000000 [(d, 21), (a, 16), (n, 0)]
  | .srai d a n => pack 0x2C000000 [(d, 21), (a, 16), (n, 0)]
  | .movi d i => pack 0x30000000 [(d, 21), (i, 0)]
  | .movhi d a i => pack 0x34000000 [(d, 21), (a, 16), (i, 0)]
  | .cmpi d a c i => pack 0x38000000 [(d, 21), (a, 16), (c, 13), (i, 0)]
  | .lds d a z i => pack 0x40000000 [(d, 21), (a, 16), (z, 14), (i, 0)]
  | .sts d a z i => pack 0x44000000 [(d, 21), (a, 16), (z, 14), (i, 0)]
  | .ldg d a b s o z => pack 0x48000000 [(d, 21), (a, 16), (b, 11), (s, 3), (o, 2), (z, 0)]
  | .stg d a b s o z => pack 0x48000020 [(d, 21), (a, 16), (b, 11), (s, 3), (o, 2), (z, 0)]
  | .scalarAccessComplete _ _ => 0
  | .amoAdd d a b s o w => pack 0x4C000000 [(d, 21), (a, 16), (b, 11), (s, 3), (o, 1), (w, 0)]
  | .amoSwap d a b s o w => pack 0x4C000020 [(d, 21), (a, 16), (b, 11), (s, 3), (o, 1), (w, 0)]
  | .amoCas d a b s o w => pack 0x4C000040 [(d, 21), (a, 16), (b, 11), (s, 3), (o, 1), (w, 0)]
  | .amoMin d a b s o w => pack 0x4C000060 [(d, 21), (a, 16), (b, 11), (s, 3), (o, 1), (w, 0)]
  | .amoMax d a b s o w => pack 0x4C000080 [(d, 21), (a, 16), (b, 11), (s, 3), (o, 1), (w, 0)]
  | .amoAnd d a b s o w => pack 0x4C0000A0 [(d, 21), (a, 16), (b, 11), (s, 3), (o, 1), (w, 0)]
  | .amoOr d a b s o w => pack 0x4C0000C0 [(d, 21), (a, 16), (b, 11), (s, 3), (o, 1), (w, 0)]
  | .fadd d a b p r => pack 0x50000000 [(d, 21), (a, 16), (b, 11), (p, 4), (r, 0)]
  | .fmul d a b p r => pack 0x50000020 [(d, 21), (a, 16), (b, 11), (p, 4), (r, 0)]
  | .fcvtI d a p r => pack 0x50000040 [(d, 21), (a, 16), (p, 4), (r, 0)]
  | .fcvtF d a p r => pack 0x50000060 [(d, 21), (a, 16), (p, 4), (r, 0)]
  | .resultLand _ => 0
  | .vadd d a b g w => pack 0x04000000 [(d, 20), (a, 14), (b, 8), (g, 4), (w, 0)]
  | .vsub d a b g w => pack 0x04000002 [(d, 20), (a, 14), (b, 8), (g, 4), (w, 0)]
  | .vmin d a b g w => pack 0x04000004 [(d, 20), (a, 14), (b, 8), (g, 4), (w, 0)]
  | .vmax d a b g w => pack 0x04000006 [(d, 20), (a, 14), (b, 8), (g, 4), (w, 0)]
  | .vabs d a g w => pack 0x08000000 [(d, 20), (a, 14), (g, 4), (w, 0)]
  | .vneg d a g w => pack 0x08000002 [(d, 20), (a, 14), (g, 4), (w, 0)]
  | .vmul d a b g w => pack 0x0C000000 [(d, 20), (a, 14), (b, 8), (g, 4), (w, 0)]
  | .vfma d a b g w => pack 0x10000000 [(d, 20), (a, 14), (b, 8), (g, 4), (w, 0)]
  | .vfms d a b g w => pack 0x10000002 [(d, 20), (a, 14), (b, 8), (g, 4), (w, 0)]
  | .vrcp d a g w => pack 0x14000000 [(d, 20), (a, 14), (g, 4), (w, 0)]
  | .vrsq d a g w => pack 0x14000002 [(d, 20), (a, 14), (g, 4), (w, 0)]
  | .vsqrt d a g w => pack 0x14000004 [(d, 20), (a, 14), (g, 4), (w, 0)]
  | .vexp2 d a g w => pack 0x14000006 [(d, 20), (a, 14), (g, 4), (w, 0)]
  | .vlog2 d a g w => pack 0x14000008 [(d, 20), (a, 14), (g, 4), (w, 0)]
  | .vtanh d a g w => pack 0x1400000A [(d, 20), (a, 14), (g, 4), (w, 0)]
  | .viadd d a b g w => pack 0x18000000 [(d, 20), (a, 14), (b, 8), (g, 4), (w, 0)]
  | .visub d a b g w => pack 0x18000002 [(d, 20), (a, 14), (b, 8), (g, 4), (w, 0)]
  | .vimul d a b g w => pack 0x18000004 [(d, 20), (a, 14), (b, 8), (g, 4), (w, 0)]
  | .vimin d a b g w => pack 0x18000006 [(d, 20), (a, 14), (b, 8), (g, 4), (w, 0)]
  | .vimax d a b g w => pack 0x18000008 [(d, 20), (a, 14), (b, 8), (g, 4), (w, 0)]
  | .vand d a b g w => pack 0x1C000000 [(d, 20), (a, 14), (b, 8), (g, 4), (w, 0)]
  | .vor d a b g w => pack 0x1C000002 [(d, 20), (a, 14), (b, 8), (g, 4), (w, 0)]
  | .vxor d a b g w => pack 0x1C000004 [(d, 20), (a, 14), (b, 8), (g, 4), (w, 0)]
  | .vshl d a i g w => pack 0x20000000 [(d, 20), (a, 14), (i, 6), (g, 2), (w, 0)]
  | .vshr d a i g w => pack 0x20000002 [(d, 20), (a, 14), (i, 6), (g, 2), (w, 0)]
  | .vsra d a i g w => pack 0x24000000 [(d, 20), (a, 14), (i, 6), (g, 2), (w, 0)]
  | .vcmp k a b g c w => pack 0x28000000 [(k, 20), (a, 14), (b, 8), (g, 4), (c, 1), (w, 0)]
  | .vsel d a b g k w => pack 0x2C000000 [(d, 20), (a, 14), (b, 8), (g, 4), (k, 1), (w, 0)]
  | .vkand d a b g w => pack 0x30000000 [(d, 20), (a, 14), (b, 8), (g, 4), (w, 0)]
  | .vkor d a b g w => pack 0x30000002 [(d, 20), (a, 14), (b, 8), (g, 4), (w, 0)]
  | .vknot d a g w => pack 0x30000004 [(d, 20), (a, 14), (g, 4), (w, 0)]
  | .vcvt d a f g r w => pack 0x34000000 [(d, 20), (a, 14), (f, 8), (g, 4), (r, 1), (w, 0)]
  | .vbcast d a g w => pack 0x38000000 [(d, 20), (a, 14), (g, 4), (w, 0)]
  | .vmov d a g w => pack 0x38000002 [(d, 20), (a, 14), (g, 4), (w, 0)]
  | .viota d g w => pack 0x38000004 [(d, 20), (g, 4), (w, 0)]
  | .vshuf d a b g w => pack 0x38000006 [(d, 20), (a, 14), (b, 8), (g, 4), (w, 0)]
  | .vslideUp d a i g w => pack 0x3C000000 [(d, 20), (a, 14), (i, 6), (g, 2), (w, 0)]
  | .vslideDn d a i g w => pack 0x3C000002 [(d, 20), (a, 14), (i, 6), (g, 2), (w, 0)]
  | .vred d a o g w => pack 0x40000000 [(d, 20), (a, 14), (o, 6), (g, 2), (w, 0)]
  | .vscan d a o g w => pack 0x40000002 [(d, 20), (a, 14), (o, 6), (g, 2), (w, 0)]
  | .vsegred d a b g o w => pack 0x44000000 [(d, 20), (a, 14), (b, 8), (g, 4), (o, 1), (w, 0)]
  | .vsortAsc d a b g w => pack 0x48000000 [(d, 20), (a, 14), (b, 8), (g, 4), (w, 0)]
  | .vsortDesc d a b g w => pack 0x48000002 [(d, 20), (a, 14), (b, 8), (g, 4), (w, 0)]
  | .vcompact d a k g w => pack 0x4C000000 [(d, 20), (a, 14), (k, 8), (g, 4), (w, 0)]
  | .vexpand d a k g w => pack 0x4C000002 [(d, 20), (a, 14), (k, 8), (g, 4), (w, 0)]
  | .vdelta d a b g w => pack 0x50000000 [(d, 20), (a, 14), (b, 8), (g, 4), (w, 0)]
  | .vrope d a b g w => pack 0x54000000 [(d, 20), (a, 14), (b, 8), (g, 4), (w, 0)]
  | .vsmax d a b g w => pack 0x58000000 [(d, 20), (a, 14), (b, 8), (g, 4), (w, 0)]
  | .vld d a i g w => pack 0x5C000000 [(d, 20), (a, 14), (i, 6), (g, 2), (w, 0)]
  | .vst s a i g w => pack 0x5C000002 [(s, 20), (a, 14), (i, 6), (g, 2), (w, 0)]
  | .vmovs d a i g w => pack 0x60000000 [(d, 20), (a, 14), (i, 6), (g, 2), (w, 0)]
  | .vins d a i g w => pack 0x60000002 [(d, 20), (a, 14), (i, 6), (g, 2), (w, 0)]
  | .mlatch a l => pack 0x04000000 [(a, 16), (l, 14)]
  | .mlatchX a l g => pack 0x08000000 [(a, 16), (l, 14), (g, 7)]
  | .mma d a l c h x u n q => pack 0x0C000000 [(d, 21), (a, 16), (l, 14), (c, 9), (h, 4), (x, 3), (u, 2), (n, 1), (q, 0)]
  | .mzero d => pack 0x10000000 [(d, 21)]
  | .mtrans d a => pack 0x14000000 [(d, 21), (a, 16)]
  | .mcast d a r => pack 0x18000000 [(d, 21), (a, 16), (r, 9)]
  | .msave s => pack 0x1C000000 [(s, 21)]
  | .mresume s => pack 0x20000000 [(s, 16)]
  | .msync => pack 0x24000000 []
  | .mprobe d => pack 0x28000000 [(d, 21)]
  | .mCommandStart _ => 0
  | .mCommandComplete _ => 0
  | .migration _ => 0
  | .recall _ => 0
  | .duetWindowSwitch _ => 0
  | .tload t w c g x => pack 0x04000000 [(t, 21), (w, 16), (c, 11), (g, 6), (x, 3)]
  | .tstore t w c g r x s => pack 0x08000000 [(t, 21), (w, 16), (c, 11), (g, 6), (r, 4), (x, 3), (s, 0)]
  | .tloadIx t w i g => pack 0x0C000000 [(t, 21), (w, 16), (i, 11), (g, 6)]
  | .gather t w i g s => pack 0x10000000 [(t, 21), (w, 16), (i, 11), (g, 6), (s, 0)]
  | .scatter t w i g r s => pack 0x14000000 [(t, 21), (w, 16), (i, 11), (g, 6), (r, 4), (s, 0)]
  | .copy l w c g s => pack 0x18000000 [(l, 21), (w, 16), (c, 11), (g, 6), (s, 0)]
  | .tsend t w g s => pack 0x1C000000 [(t, 21), (w, 16), (g, 6), (s, 0)]
  | .trecv t w g => pack 0x20000000 [(t, 21), (w, 16), (g, 6)]
  | .signal v g s => pack 0x24000000 [(v, 16), (g, 6), (s, 0)]
  | .drain s => pack 0x28000000 [(s, 0)]
  | .ksave w => pack 0x2C000000 [(w, 16)]
  | .kresume w => pack 0x30000000 [(w, 16)]
  | .prefetchUp w c g => pack 0x34000000 [(w, 16), (c, 11), (g, 6)]
  | .prefetchDn w c g => pack 0x34000004 [(w, 16), (c, 11), (g, 6)]
  | .route t w g => pack 0x38000000 [(t, 21), (w, 16), (g, 6)]
  | .routeClose w g => pack 0x3C000000 [(w, 16), (g, 6)]
  | .routePairArrival _ _ => 0
  | .kCommandStart _ _ => 0
  | .kCommandComplete _ _ => 0
  | .pitScaleadd t w g => pack 0x80000000 [(t, 21), (w, 16), (g, 6)]
  | .pitAtomadd t w g => pack 0x84000000 [(t, 21), (w, 16), (g, 6)]
  | .pitAttn t w g => pack 0x88000000 [(t, 21), (w, 16), (g, 6)]
  | .pitFence g => pack 0x8C000000 [(g, 6)]
  | .pitXload t w g => pack 0x90000000 [(t, 21), (w, 16), (g, 6)]
  | .pitXlock w g => pack 0x94000000 [(w, 16), (g, 6)]
  | .pitXunlock w g => pack 0x98000000 [(w, 16), (g, 6)]
  | .pitDispatch _ _ => 0
  | .pitCommandRun _ => 0
  | .pitCommandComplete _ => 0
  | .pitSuspend _ => 0
  | .pitResume _ => 0
  | .pitWindowEnd _ => 0
  | .pitStatusArrival _ => 0
  | .tdef t a => pack 0x04000000 [(t, 21), (a, 16)]
  | .tbind t a => pack 0x08000000 [(t, 21), (a, 16)]
  | .treshape t a b => pack 0x0C000000 [(t, 21), (a, 16), (b, 11)]
  | .ttranspose t a => pack 0x10000000 [(t, 21), (a, 16)]
  | .tcast t a f => pack 0x14000000 [(t, 21), (a, 16), (f, 0)]
  | .ttype t a => pack 0x18000000 [(t, 21), (a, 16)]
  | .tcheck t a => pack 0x1C000000 [(t, 21), (a, 16)]
  | .dvSet n b => pack 0x20000000 [(n, 16), (b, 11)]
  | .dvGet d n => pack 0x24000000 [(d, 21), (n, 16)]
  | .dvClear n => pack 0x28000000 [(n, 16)]
  | .dvBound n b => pack 0x2C000000 [(n, 16), (b, 11)]
  | .accAlloc d a => pack 0x30000000 [(d, 21), (a, 16)]
  | .accFree a b => pack 0x34000000 [(a, 16), (b, 11)]
  | .accWin a f => pack 0x38000000 [(a, 16), (f, 0)]
  | .pgLoad c b => pack 0x40000000 [(c, 16), (b, 11)]
  | .pgStartFwd c => pack 0x44000000 [(c, 16)]
  | .pgStartTr c => pack 0x44000001 [(c, 16)]
  | .countPassEnd _ _ => 0
  | .pgNext d c => pack 0x48000000 [(d, 21), (c, 16)]
  | .pgNextblk d c => pack 0x4C000000 [(d, 21), (c, 16)]
  | .pgSave c b => pack 0x50000000 [(c, 16), (b, 11)]
  | .pgRestore c b => pack 0x54000000 [(c, 16), (b, 11)]
  | .treeClear => pack 0x60000000 []
  | .treeRoot a b => pack 0x64000000 [(a, 16), (b, 11)]
  | .treeAdd d a n => pack 0x68000000 [(d, 21), (a, 16), (n, 0)]
  | .treeMaskF32 d n => pack 0x6C000000 [(d, 21), (n, 0)]
  | .treeMaskBf16 d n => pack 0x6C000100 [(d, 21), (n, 0)]
  | .treeMaskk k n => pack 0x70000000 [(k, 21), (n, 0)]
  | .treePosLo d => pack 0x74000000 [(d, 21)]
  | .treePosHi d => pack 0x74000001 [(d, 21)]
  | .treePrune n => pack 0x78000000 [(n, 0)]
  | .treeMap d => pack 0x7C000000 [(d, 21)]
  | .treeSave a => pack 0x80000000 [(a, 16)]
  | .treeLoad a => pack 0x84000000 [(a, 16)]
  | .portSet a p => pack 0x90000000 [(a, 16), (p, 0)]
  | .portReset p => pack 0x94000000 [(p, 0)]
  | .wfence => pack 0xA0000000 []
  | .trapEntry _ => 0
  | .prompterPick _ => 0
  | .ageStep _ _ => 0
  | .prestageFill _ _ => 0
  | .enqueueBufferDrain _ => 0
  | .curtain _ => 0
  | .contextResume _ => 0
  | .remoteWrite _ _ _ => 0
  | .remoteRead _ _ => 0
  | .remoteWritePerform _ => 0
  | .hostMemoryAccess _ _ _ _ _ => 0
  | .hostPush _ _ _ _ _ => 0
  | .qbaseWrite _ _ _ _ => 0
  | .pushstatWrite _ _ _ _ => 0
  | .approveWrite _ _ _ => 0
  | .configProposal _ _ => 0
  | .attestRequest _ => 0
  | .attestReportReady _ => 0
  | .nonceWrite _ _ _ => 0
  | .throttleWrite _ => 0
  | .pstateWrite _ => 0
  | .registerWrite _ _ _ => 0
  | .debugStop _ _ => 0
  | .debugRegisterWrite _ _ _ _ _ => 0
  | .debugRegisterRead _ _ _ _ => 0
  | .debugRestart _ _ => 0
  | .moduleReset => 0
  | .clockStep _ => 0
  | .linkFailure _ => 0
  | .remoteTimeout _ _ _ => 0
  | .reduceContribution _ _ _ _ => 0
  | .selfTestStart _ _ _ => 0
  | .selfTestEnd _ _ => 0
  | .linkRetrainComplete _ => 0

/-- How many bits of an instruction's word its row of the opcode table leaves to operands; 0 for an event. -/
def Instr.operandBits : Instr → Nat
  | .nop => 0
  | .pbr _ _ => 26
  | .pbrr _ _ _ => 21
  | .br _ => 3
  | .brp _ _ _ => 8
  | .call _ _ _ => 8
  | .ret _ _ => 5
  | .loop _ _ _ => 21
  | .loops _ _ _ => 12
  | .voteAny _ _ => 7
  | .voteAll _ _ => 7
  | .cuePush _ _ => 10
  | .cueFork _ _ => 10
  | .cueExit => 0
  | .cueSelf _ => 5
  | .ensJoin _ => 5
  | .ensLeave _ => 5
  | .ensSize _ _ => 10
  | .markInit _ _ => 16
  | .markInitEns _ _ => 16
  | .markArrive _ _ => 16
  | .markWait _ _ => 16
  | .markAwait _ _ => 16
  | .ensembleCountNotice _ _ => 0
  | .waita _ _ _ => 12
  | .waitaRetest _ => 0
  | .trap _ => 16
  | .eret => 0
  | .halt => 0
  | .sysrd _ _ => 18
  | .syswr _ _ => 18
  | .nopreWrite _ _ => 0
  | .nopreTimeout _ => 0
  | .stickyWrite _ _ => 0
  | .evselWrite _ _ => 0
  | .rootWrite _ _ => 0
  | .duetctlWrite _ _ => 0
  | .admitSeg _ _ => 10
  | .admitReport _ => 0
  | .add _ _ _ => 15
  | .sub _ _ _ => 15
  | .and _ _ _ => 15
  | .or _ _ _ => 15
  | .xor _ _ _ => 15
  | .shl _ _ _ => 15
  | .shr _ _ _ => 15
  | .sra _ _ _ => 15
  | .min _ _ _ => 15
  | .max _ _ _ => 15
  | .minu _ _ _ => 15
  | .maxu _ _ _ => 15
  | .clz _ _ => 10
  | .popc _ _ => 10
  | .sel _ _ _ _ => 20
  | .mul _ _ _ => 15
  | .mulh _ _ _ => 15
  | .mulhu _ _ _ => 15
  | .div _ _ _ => 15
  | .divu _ _ _ => 15
  | .rem _ _ _ => 15
  | .remu _ _ _ => 15
  | .cmp _ _ _ _ => 20
  | .pand _ _ _ => 15
  | .por _ _ _ => 15
  | .pxor _ _ _ => 15
  | .pnot _ _ => 10
  | .addi _ _ _ => 26
  | .andi _ _ _ => 26
  | .ori _ _ _ => 26
  | .xori _ _ _ => 26
  | .shli _ _ _ => 16
  | .shri _ _ _ => 16
  | .srai _ _ _ => 16
  | .movi _ _ => 26
  | .movhi _ _ _ => 26
  | .cmpi _ _ _ _ => 26
  | .lds _ _ _ _ => 26
  | .sts _ _ _ _ => 26
  | .ldg _ _ _ _ _ _ => 20
  | .stg _ _ _ _ _ _ => 20
  | .scalarAccessComplete _ _ => 0
  | .amoAdd _ _ _ _ _ _ => 20
  | .amoSwap _ _ _ _ _ _ => 20
  | .amoCas _ _ _ _ _ _ => 20
  | .amoMin _ _ _ _ _ _ => 20
  | .amoMax _ _ _ _ _ _ => 20
  | .amoAnd _ _ _ _ _ _ => 20
  | .amoOr _ _ _ _ _ _ => 20
  | .fadd _ _ _ _ _ => 19
  | .fmul _ _ _ _ _ => 19
  | .fcvtI _ _ _ _ => 14
  | .fcvtF _ _ _ _ => 14
  | .resultLand _ => 0
  | .vadd _ _ _ _ _ => 23
  | .vsub _ _ _ _ _ => 23
  | .vmin _ _ _ _ _ => 23
  | .vmax _ _ _ _ _ => 23
  | .vabs _ _ _ _ => 17
  | .vneg _ _ _ _ => 17
  | .vmul _ _ _ _ _ => 23
  | .vfma _ _ _ _ _ => 23
  | .vfms _ _ _ _ _ => 23
  | .vrcp _ _ _ _ => 17
  | .vrsq _ _ _ _ => 17
  | .vsqrt _ _ _ _ => 17
  | .vexp2 _ _ _ _ => 17
  | .vlog2 _ _ _ _ => 17
  | .vtanh _ _ _ _ => 17
  | .viadd _ _ _ _ _ => 23
  | .visub _ _ _ _ _ => 23
  | .vimul _ _ _ _ _ => 23
  | .vimin _ _ _ _ _ => 23
  | .vimax _ _ _ _ _ => 23
  | .vand _ _ _ _ _ => 23
  | .vor _ _ _ _ _ => 23
  | .vxor _ _ _ _ _ => 23
  | .vshl _ _ _ _ _ => 25
  | .vshr _ _ _ _ _ => 25
  | .vsra _ _ _ _ _ => 25
  | .vcmp _ _ _ _ _ _ => 23
  | .vsel _ _ _ _ _ _ => 26
  | .vkand _ _ _ _ _ => 14
  | .vkor _ _ _ _ _ => 14
  | .vknot _ _ _ _ => 11
  | .vcvt _ _ _ _ _ _ => 25
  | .vbcast _ _ _ _ => 17
  | .vmov _ _ _ _ => 17
  | .viota _ _ _ => 11
  | .vshuf _ _ _ _ _ => 23
  | .vslideUp _ _ _ _ _ => 25
  | .vslideDn _ _ _ _ _ => 25
  | .vred _ _ _ _ _ => 19
  | .vscan _ _ _ _ _ => 19
  | .vsegred _ _ _ _ _ _ => 26
  | .vsortAsc _ _ _ _ _ => 23
  | .vsortDesc _ _ _ _ _ => 23
  | .vcompact _ _ _ _ _ => 20
  | .vexpand _ _ _ _ _ => 20
  | .vdelta _ _ _ _ _ => 23
  | .vrope _ _ _ _ _ => 23
  | .vsmax _ _ _ _ _ => 23
  | .vld _ _ _ _ _ => 24
  | .vst _ _ _ _ _ => 24
  | .vmovs _ _ _ _ _ => 24
  | .vins _ _ _ _ _ => 24
  | .mlatch _ _ => 7
  | .mlatchX _ _ _ => 9
  | .mma _ _ _ _ _ _ _ _ _ => 22
  | .mzero _ => 5
  | .mtrans _ _ => 10
  | .mcast _ _ _ => 13
  | .msave _ => 5
  | .mresume _ => 5
  | .msync => 0
  | .mprobe _ => 5
  | .mCommandStart _ => 0
  | .mCommandComplete _ => 0
  | .migration _ => 0
  | .recall _ => 0
  | .duetWindowSwitch _ => 0
  | .tload _ _ _ _ _ => 21
  | .tstore _ _ _ _ _ _ _ => 25
  | .tloadIx _ _ _ _ => 20
  | .gather _ _ _ _ _ => 22
  | .scatter _ _ _ _ _ _ => 24
  | .copy _ _ _ _ _ => 22
  | .tsend _ _ _ _ => 17
  | .trecv _ _ _ => 15
  | .signal _ _ _ => 12
  | .drain _ => 2
  | .ksave _ => 5
  | .kresume _ => 5
  | .prefetchUp _ _ _ => 15
  | .prefetchDn _ _ _ => 15
  | .route _ _ _ => 15
  | .routeClose _ _ => 10
  | .routePairArrival _ _ => 0
  | .kCommandStart _ _ => 0
  | .kCommandComplete _ _ => 0
  | .pitScaleadd _ _ _ => 15
  | .pitAtomadd _ _ _ => 15
  | .pitAttn _ _ _ => 15
  | .pitFence _ => 5
  | .pitXload _ _ _ => 15
  | .pitXlock _ _ => 10
  | .pitXunlock _ _ => 10
  | .pitDispatch _ _ => 0
  | .pitCommandRun _ => 0
  | .pitCommandComplete _ => 0
  | .pitSuspend _ => 0
  | .pitResume _ => 0
  | .pitWindowEnd _ => 0
  | .pitStatusArrival _ => 0
  | .tdef _ _ => 10
  | .tbind _ _ => 10
  | .treshape _ _ _ => 15
  | .ttranspose _ _ => 10
  | .tcast _ _ _ => 15
  | .ttype _ _ => 10
  | .tcheck _ _ => 10
  | .dvSet _ _ => 10
  | .dvGet _ _ => 10
  | .dvClear _ => 5
  | .dvBound _ _ => 10
  | .accAlloc _ _ => 10
  | .accFree _ _ => 10
  | .accWin _ _ => 10
  | .pgLoad _ _ => 10
  | .pgStartFwd _ => 5
  | .pgStartTr _ => 5
  | .countPassEnd _ _ => 0
  | .pgNext _ _ => 10
  | .pgNextblk _ _ => 10
  | .pgSave _ _ => 10
  | .pgRestore _ _ => 10
  | .treeClear => 0
  | .treeRoot _ _ => 10
  | .treeAdd _ _ _ => 18
  | .treeMaskF32 _ _ => 13
  | .treeMaskBf16 _ _ => 13
  | .treeMaskk _ _ => 11
  | .treePosLo _ => 5
  | .treePosHi _ => 5
  | .treePrune _ => 8
  | .treeMap _ => 5
  | .treeSave _ => 5
  | .treeLoad _ => 5
  | .portSet _ _ => 7
  | .portReset _ => 2
  | .wfence => 0
  | .trapEntry _ => 0
  | .prompterPick _ => 0
  | .ageStep _ _ => 0
  | .prestageFill _ _ => 0
  | .enqueueBufferDrain _ => 0
  | .curtain _ => 0
  | .contextResume _ => 0
  | .remoteWrite _ _ _ => 0
  | .remoteRead _ _ => 0
  | .remoteWritePerform _ => 0
  | .hostMemoryAccess _ _ _ _ _ => 0
  | .hostPush _ _ _ _ _ => 0
  | .qbaseWrite _ _ _ _ => 0
  | .pushstatWrite _ _ _ _ => 0
  | .approveWrite _ _ _ => 0
  | .configProposal _ _ => 0
  | .attestRequest _ => 0
  | .attestReportReady _ => 0
  | .nonceWrite _ _ _ => 0
  | .throttleWrite _ => 0
  | .pstateWrite _ => 0
  | .registerWrite _ _ _ => 0
  | .debugStop _ _ => 0
  | .debugRegisterWrite _ _ _ _ _ => 0
  | .debugRegisterRead _ _ _ _ => 0
  | .debugRestart _ _ => 0
  | .moduleReset => 0
  | .clockStep _ => 0
  | .linkFailure _ => 0
  | .remoteTimeout _ _ _ => 0
  | .reduceContribution _ _ _ _ => 0
  | .selfTestStart _ _ _ => 0
  | .selfTestEnd _ _ => 0
  | .linkRetrainComplete _ => 0

/-- The order in which a word without a stated slot is tried; the opcode table gives its rows no slot. -/
def tableSlots : List SlotKind := [.c, .s, .v, .m, .k, .x]

/-- Of the slot tables in that order that hold the word, the one whose row fixes the most of its bits, with its instruction (log 21). -/
def tableDecode (w : Nat) : List SlotKind → Option (SlotKind × Instr)
  | [] => none
  | sk :: ks =>
    let rest := tableDecode w ks
    match decodeSlot sk w with
    | .ok i => match rest with
      | some r => if r.2.operandBits < i.operandBits then some r else some (sk, i)
      | none => some (sk, i)
    | .error _ => rest

/-- The instruction the decoder reads from a 32-bit slot word numbered as the opcode table numbers it. -/
def decodeTableWord (nbits w : Nat) : Option Instr :=
  if nbits ≤ 32 then (tableDecode w tableSlots).map Prod.snd else none

end Sys2Proof
end

