-- ==== Sys2Proof/Machine/Flags.lean ====
section
/-! DEFINITION. The sticky flags of R111: one mask each, joined by bitwise or. -/

namespace Sys2Proof.Machine

def flagLatchLost : Word := 0x001#64
def flagSat : Word := 0x002#64
def flagUnder : Word := 0x004#64
def flagNegScale : Word := 0x008#64
def flagRange : Word := 0x010#64
def flagNopreOver : Word := 0x020#64
def flagInexact : Word := 0x040#64
def flagOver : Word := 0x080#64
def flagInvalid : Word := 0x100#64
def flagDivz : Word := 0x200#64
def flagPitLost : Word := 0x400#64

/-- The bits that STICKY has (R111). -/
def flagAll : Word := 0x7FF#64

/-- A flag when a condition holds. -/
def flagIf (b : Bool) (f : Word) : Word := if b then f else 0#64

/-- A flag set: STICKY gathers flags and drops none (R111). -/
def stickySet (st fl : Word) : Word := (st ||| fl) &&& flagAll

/-- Writing 1 clears, writing 0 has no effect (R4, R111). -/
def stickyClear (st w : Word) : Word := st &&& ~~~w

end Sys2Proof.Machine
end

