-- ==== Sys2Proof/Machine/Exact.lean ====
section
/-! DEFINITION. Exact real values with the special values beside them, and the exact sums, products, quotients and roots that every unit
rounds once (R117, R122, R128, R178, R401). -/

namespace Sys2Proof.Machine

/-- A value as a unit reads it: NaN (signalling or quiet), an infinity, or the number (-1)^neg * m * 2^e; m = 0 keeps the zero's sign. -/
inductive FV where
  | nan (sig : Bool)
  | inf (neg : Bool)
  | fin (neg : Bool) (m : Nat) (e : Int)
  deriving DecidableEq, Repr, Inhabited

/-- The integer z. -/
def fvInt (z : Int) : FV := .fin (decide (z < 0)) z.natAbs 0

/-- +0. -/
def fvZero : FV := .fin false 0 0

def fvIsNan : FV → Bool | .nan _ => true | _ => false
def fvIsSig : FV → Bool | .nan s => s | _ => false
def fvIsInf : FV → Bool | .inf _ => true | _ => false
def fvIsZero : FV → Bool | .fin _ m _ => m == 0 | _ => false
def fvNegative : FV → Bool | .nan _ => false | .inf n => n | .fin n _ _ => n

/-- The opposite sign; a NaN stays a NaN. -/
def fvNeg : FV → FV
  | .nan s => .nan s
  | .inf n => .inf (!n)
  | .fin n m e => .fin (!n) m e

/-- The magnitude. -/
def fvAbs : FV → FV
  | .nan s => .nan s
  | .inf _ => .inf false
  | .fin _ m e => .fin false m e

/-- 2^k for a non-negative k, else 1. -/
def pow2 (k : Int) : Nat := 2 ^ k.toNat

/-- The signed integer of a finite term in units of 2^e0. -/
def fvScaled (e0 : Int) : FV → Int
  | .fin n m e => let v : Int := ((m * pow2 (e - e0) : Nat) : Int); if n then -v else v
  | _ => 0

/-- The least exponent among finite terms. -/
def fvMinExp : List FV → Int
  | [] => 0
  | [.fin _ _ e] => e
  | .fin _ _ e :: ts => min e (fvMinExp ts)
  | _ :: ts => fvMinExp ts

/-- The exact sum of terms and the INVALID flag; an exact zero takes its sign by R401 (`rdn`: the sum is to be rounded by RDN). -/
def fvSum (rdn : Bool) (ts : List FV) : FV × Word :=
  if ts.any fvIsNan then (.nan false, flagIf (ts.any fvIsSig) flagInvalid)
  else if ts.any (fun t => fvIsInf t && fvNegative t) && ts.any (fun t => fvIsInf t && !fvNegative t) then (.nan false, flagInvalid)
  else match ts.find? fvIsInf with
    | some t => (t, 0)
    | none =>
      let e0 := fvMinExp ts
      let z := (ts.map (fvScaled e0)).foldl (· + ·) 0
      if z ≠ 0 then (.fin (decide (z < 0)) z.natAbs e0, 0)
      else if ts.all fvIsZero && ts.all fvNegative && !ts.isEmpty then (.fin true 0 0, 0)
      else if ts.all fvIsZero && ts.all (fun t => !fvNegative t) then (fvZero, 0)
      else (.fin rdn 0 0, 0)

/-- The exact product and its INVALID flag (R100, R128, R178). -/
def fvMul (a b : FV) : FV × Word :=
  match a, b with
  | .nan s, .nan t => (.nan false, flagIf (s || t) flagInvalid)
  | .nan s, _ => (.nan false, flagIf s flagInvalid)
  | _, .nan t => (.nan false, flagIf t flagInvalid)
  | .inf n, .inf k => (.inf (n != k), 0)
  | .inf n, .fin k m _ => if m = 0 then (.nan false, flagInvalid) else (.inf (n != k), 0)
  | .fin n m _, .inf k => if m = 0 then (.nan false, flagInvalid) else (.inf (n != k), 0)
  | .fin n m e, .fin k m' e' => (.fin (n != k) (m * m') (e + e'), 0)

/-- a < b for values that are not NaN; -0 is not below +0. -/
def fvLt (a b : FV) : Bool :=
  match a, b with
  | .nan _, _ | _, .nan _ => false
  | .inf n, .inf k => n && !k
  | .inf n, .fin _ _ _ => n
  | .fin _ _ _, .inf k => !k
  | .fin n m e, .fin k m' e' =>
    let e0 := min e e'
    decide (fvScaled e0 (.fin n m e) < fvScaled e0 (.fin k m' e'))

/-- Equal as numbers: -0 = +0, and NaN equals nothing. -/
def fvEq (a b : FV) : Bool := !fvIsNan a && !fvIsNan b && !fvLt a b && !fvLt b a

/-- a below b in the order that puts -0 below +0 (R178, R185). -/
def fvLtZ (a b : FV) : Bool :=
  fvLt a b || (fvIsZero a && fvIsZero b && fvNegative a && !fvNegative b)

/-- The key order of VSORT: NaN above everything, -0 below +0 (R185). -/
def fvKeyLt (a b : FV) : Bool :=
  if fvIsNan a then false else if fvIsNan b then true else fvLtZ a b

/-- VMIN and VMAX: NaN when either is NaN; INVALID for a signalling input (R178). -/
def fvPick (wantMax : Bool) (a b : FV) : FV × Word :=
  if fvIsNan a || fvIsNan b then (.nan false, flagIf (fvIsSig a || fvIsSig b) flagInvalid)
  else if fvLtZ a b then (if wantMax then b else a, 0) else (if wantMax then a else b, 0)

/-- Maximum or minimum over a list. -/
def fvPickList (wantMax : Bool) : List FV → FV × Word
  | [] => (.inf wantMax, 0)
  | t :: ts => ts.foldl (fun acc x => let r := fvPick wantMax acc.1 x; (r.1, acc.2 ||| r.2))
      (if fvIsNan t then .nan false else t, flagIf (fvIsSig t) flagInvalid)

/-- A quotient of two positive numbers to `p` more than enough bits, its last bit sticky: it rounds as the exact quotient does. -/
def fvQuot (neg : Bool) (m : Nat) (e : Int) (m' : Nat) (e' : Int) : FV :=
  let k : Nat := 140 + Nat.log2 m' + 1 - Nat.log2 m
  let num := m * 2 ^ k
  let q := num / m'
  .fin neg (2 * q + (if num % m' = 0 then 0 else 1)) (e - e' - (k : Int) - 1)

/-- x / y with the special cases of R125: inf/inf and 0/0 give NaN with INVALID, x/0 an infinity, finite/inf a zero. -/
def fvDiv (a b : FV) : FV × Word :=
  match a, b with
  | .nan s, .nan t => (.nan false, flagIf (s || t) flagInvalid)
  | .nan s, _ => (.nan false, flagIf s flagInvalid)
  | _, .nan t => (.nan false, flagIf t flagInvalid)
  | .inf _, .inf _ => (.nan false, flagInvalid)
  | .inf n, .fin k _ _ => (.inf (n != k), 0)
  | .fin n _ _, .inf k => (.fin (n != k) 0 0, 0)
  | .fin n m e, .fin k m' e' =>
    if m' = 0 then (if m = 0 then (.nan false, flagInvalid) else (.inf (n != k), 0))
    else if m = 0 then (.fin (n != k) 0 0, 0) else (fvQuot (n != k) m e m' e', 0)

/-- One Newton step per unit of fuel towards the integer square root from above. -/
def isqrtLoop (n : Nat) : Nat → Nat → Nat
  | 0, x => x
  | f + 1, x => let y := (x + n / x) / 2; if y < x then isqrtLoop n f y else x

/-- The integer square root. -/
def isqrt (n : Nat) : Nat :=
  if n = 0 then 0 else isqrtLoop n (Nat.log2 n + 8) (2 ^ (Nat.log2 n / 2 + 1))

/-- The square root of a positive number, its last bit sticky. -/
def fvRoot (m : Nat) (e : Int) : FV :=
  let odd : Nat := (e % 2).toNat
  let k : Nat := 150
  let n := m * 2 ^ (odd + 2 * k)
  let r := isqrt n
  .fin false (2 * r + (if r * r = n then 0 else 1)) ((e - odd) / 2 - (k : Int) - 1)

end Sys2Proof.Machine
end

