-- ==== Sys2Proof/Machine/Formats.lean ====
section
/-! DEFINITION. The number formats of R113-R121: widths, decoding, and conversion with its flags under each rounding mode (R122-R125). -/

namespace Sys2Proof.Machine

/-- What the top exponent code of a floating-point format means (R116). -/
inductive TopCode where
  /-- Every code is finite. -/
  | allFinite
  /-- Only the all-ones fraction is NaN. -/
  | oneNan
  /-- Fraction 0 is an infinity, any other a NaN. -/
  | ieee
  deriving DecidableEq, Repr

/-- Exponent bits, fraction bits, bias and top code of a format (R116). -/
structure FloatFmt where
  eb : Nat
  mb : Nat
  bias : Int
  top : TopCode
  deriving DecidableEq, Repr

/-- The floating-point formats by code (R113, R116). -/
def floatFmt? : Nat → Option FloatFmt
  | 0x09 => some ⟨2, 1, 1, .allFinite⟩
  | 0x0A => some ⟨2, 3, 1, .allFinite⟩
  | 0x0B => some ⟨3, 2, 3, .allFinite⟩
  | 0x0C => some ⟨4, 3, 7, .oneNan⟩
  | 0x0D => some ⟨5, 2, 15, .ieee⟩
  | 0x0E => some ⟨3, 4, 3, .oneNan⟩
  | 0x0F => some ⟨8, 7, 127, .ieee⟩
  | 0x10 => some ⟨5, 10, 15, .ieee⟩
  | 0x11 => some ⟨8, 15, 127, .ieee⟩
  | 0x12 => some ⟨8, 23, 127, .ieee⟩
  | 0x13 => some ⟨11, 52, 1023, .ieee⟩
  | _ => none

def fmtFp32 : FloatFmt := ⟨8, 23, 127, .ieee⟩
def fmtFp64 : FloatFmt := ⟨11, 52, 1023, .ieee⟩
/-- The node format of R127. -/
def fmtNode33 : FloatFmt := ⟨11, 33, 1023, .ieee⟩
/-- The node format of R127 for FP64 accumulators. -/
def fmtNode70 : FloatFmt := ⟨11, 70, 1023, .ieee⟩

/-- Element width in bits by format code (R113). -/
def fmtWidth : Nat → Nat
  | 0x00 => 1 | 0x01 => 2 | 0x02 => 4 | 0x03 => 4 | 0x04 => 8 | 0x05 => 8 | 0x06 => 16 | 0x07 => 16 | 0x08 => 32
  | 0x09 => 4 | 0x0A => 6 | 0x0B => 6 | 0x0C => 8 | 0x0D => 8 | 0x0E => 8 | 0x0F => 16 | 0x10 => 16 | 0x11 => 24
  | 0x12 => 32 | 0x13 => 64 | 0x18 => 64 | 0x1C => 8 | 0x1D => 8 | _ => 0

/-- Plane count by format code (R13, R113). -/
def fmtPlanes : Nat → Nat
  | 0x00 => 1 | 0x01 => 2 | 0x02 => 4 | 0x03 => 4 | 0x04 => 8 | 0x05 => 8 | 0x06 => 16 | 0x07 => 16 | 0x08 => 32
  | 0x09 => 2 | 0x0A => 4 | 0x0B => 3 | 0x0C => 4 | 0x0D => 3 | 0x0E => 5 | 0x0F => 8 | 0x10 => 11 | 0x11 => 16
  | 0x12 => 24 | 0x13 => 53 | _ => 0

def fmtIsInt (f : Nat) : Bool := decide (f ≤ 8)
/-- Operand formats (R113, Use column "op"). -/
def fmtIsOp (f : Nat) : Bool := decide (f ≤ 0x13)
/-- Accumulator formats (R113, Use column "acc"; R121). -/
def fmtIsAcc (f : Nat) : Bool := f == 0x08 || f == 0x0F || f == 0x10 || f == 0x12 || f == 0x13 || f == 0x18
/-- Formats that may carry scales (R120). -/
def fmtScalable (f : Nat) : Bool :=
  f == 0x09 || f == 0x0A || f == 0x0B || f == 0x0C || f == 0x0D || f == 0x0E || f == 0x0F

/-- Element i of width w of a bit string (R114). -/
def elt (w : Nat) (bits i : Nat) : Nat := bits / 2 ^ (w * i) % 2 ^ w

/-- Elements packed densely in ascending bit order (R114). -/
def packElts (w : Nat) : List Nat → Nat
  | [] => 0
  | x :: xs => x % 2 ^ w + 2 ^ w * packElts w xs

/-- Two's complement of an n-bit number. -/
def sextNat (n x : Nat) : Int := if x % 2 ^ n < 2 ^ (n - 1) then ((x % 2 ^ n : Nat) : Int) else ((x % 2 ^ n : Nat) : Int) - ((2 ^ n : Nat) : Int)

/-- The n-bit two's complement code of an integer. -/
def intCode (n : Nat) (z : Int) : Nat := (z % ((2 ^ n : Nat) : Int)).toNat

/-- A floating-point code read by R116 and R117. -/
def decodeFloat (f : FloatFmt) (code : Nat) : FV :=
  let neg := code / 2 ^ (f.eb + f.mb) % 2 == 1
  let ex := code / 2 ^ f.mb % 2 ^ f.eb
  let fr := code % 2 ^ f.mb
  let finite : FV :=
    if ex = 0 then .fin neg fr (1 - f.bias - f.mb) else .fin neg (2 ^ f.mb + fr) ((ex : Int) - f.bias - f.mb)
  if ex + 1 = 2 ^ f.eb then
    match f.top with
    | .allFinite => finite
    | .oneNan => if fr + 1 = 2 ^ f.mb then .nan false else finite
    | .ieee => if fr = 0 then .inf neg else .nan (decide (f.mb ≥ 7) && decide (fr < 2 ^ (f.mb - 1)))
  else finite

/-- The largest finite code, sign clear. -/
def maxCode (f : FloatFmt) : Nat :=
  match f.top with
  | .allFinite => 2 ^ (f.eb + f.mb) - 1
  | .oneNan => 2 ^ (f.eb + f.mb) - 2
  | .ieee => (2 ^ f.eb - 1) * 2 ^ f.mb - 1

/-- The canonical NaN of R116, if the format has one. -/
def canonNan? (f : FloatFmt) : Option Nat :=
  match f.top with
  | .allFinite => none
  | .oneNan => some (2 ^ (f.eb + f.mb) - 1)
  | .ieee => some ((2 ^ f.eb - 1) * 2 ^ f.mb + 2 ^ (f.mb - 1))

/-- m * 2^e as a multiple of 2^q under a mode of R122, and whether the value changed. -/
def roundTo (mode : Nat) (neg : Bool) (m : Nat) (e q : Int) : Nat × Bool :=
  if q ≤ e then (m * pow2 (e - q), false)
  else
    let d := pow2 (q - e)
    let n := m / d
    let r := m % d
    let up := match mode with
      | 2 => false
      | 3 => neg && r != 0
      | 4 => !neg && r != 0
      | _ => decide (2 * r > d) || (2 * r == d && n % 2 == 1)
    (if up then n + 1 else n, r != 0)

/-- The quantum at which a non-zero number rounds in a format: its last fraction place, not below the subnormals' place. -/
def quantum (f : FloatFmt) (m : Nat) (e : Int) : Int :=
  max ((Nat.log2 m : Int) + e - f.mb) (1 - f.bias - f.mb)

/-- Conversion into a signed floating-point format with its flags (R124). -/
def encodeFloat (f : FloatFmt) (mode : Nat) (v : FV) : Nat × Word :=
  let sgn (n : Bool) : Nat := if n then 2 ^ (f.eb + f.mb) else 0
  match v with
  | .nan s => match canonNan? f with
    | some c => (c, flagIf s flagInvalid)
    | none => (0, flagInvalid)
  | .inf n => match f.top with
    | .ieee => (sgn n + (2 ^ f.eb - 1) * 2 ^ f.mb, 0)
    | _ => (sgn n + maxCode f, flagOver)
  | .fin n 0 _ => (sgn n, 0)
  | .fin n m e =>
    let q := quantum f m e
    let r := roundTo mode n m e q
    let code := ((q - (1 - f.bias - f.mb)) * ((2 ^ f.mb : Nat) : Int)).toNat + r.1
    if code ≤ maxCode f then (sgn n + code, flagIf r.2 flagInexact)
    else
      let toInf := f.top == .ieee && (match mode with | 2 => false | 3 => n | 4 => !n | _ => true)
      (sgn n + (if toInf then (2 ^ f.eb - 1) * 2 ^ f.mb else maxCode f), flagOver ||| flagInexact)

/-- A number rounded into a floating-point format and read back. -/
def roundFloat (f : FloatFmt) (mode : Nat) (v : FV) : FV × Word :=
  let r := encodeFloat f mode v; (decodeFloat f r.1, r.2)

/-- The integer nearest a finite number under a mode, and whether the value changed. -/
def roundInt (mode : Nat) (neg : Bool) (m : Nat) (e : Int) : Int × Bool :=
  let r := roundTo mode neg m e 0
  (if neg then -(r.1 : Int) else (r.1 : Int), r.2)

/-- Conversion into a two's complement integer of n bits (R101, R124). -/
def encodeSigned (n mode : Nat) (v : FV) : Nat × Word :=
  let lo : Int := -((2 ^ (n - 1) : Nat) : Int)
  let hi : Int := ((2 ^ (n - 1) : Nat) : Int) - 1
  match v with
  | .nan _ => (0, flagInvalid)
  | .inf neg => (intCode n (if neg then lo else hi), flagSat)
  | .fin neg m e =>
    let r := roundInt mode neg m e
    if r.1 < lo then (intCode n lo, flagSat) else if hi < r.1 then (intCode n hi, flagSat)
    else (intCode n r.1, flagIf r.2 flagInexact)

/-- Conversion into an unsigned integer of n bits (R124). The table has no row for a value above 2^n - 1 or +inf: the model saturates at 2^n - 1
and sets SAT, as the rows for signed integers do (log 103). -/
def encodeUnsigned (n mode : Nat) (v : FV) : Nat × Word :=
  match v with
  | .nan _ => (0, flagInvalid)
  | .inf neg => (if neg then 0 else 2 ^ n - 1, flagSat)
  | .fin neg m e =>
    let r := roundInt mode neg m e
    if neg then (0, if r.1 = 0 then flagUnder else flagSat)
    else if ((2 ^ n - 1 : Nat) : Int) < r.1 then (2 ^ n - 1, flagSat)
    else (r.1.toNat, flagIf r.2 flagInexact)

/-- Conversion into INT1: the sign bit of the input (R124). -/
def encodeInt1 (v : FV) : Nat × Word :=
  match v with
  | .nan _ => (0, flagInvalid)
  | v => (if fvNegative v then 1 else 0, flagIf (!fvEq (fvAbs v) (fvInt 1)) flagInexact)

/-- Conversion into INT2: rounded, then clamped to [-1, 1] (R115, R124). -/
def encodeInt2 (mode : Nat) (v : FV) : Nat × Word :=
  match v with
  | .nan _ => (0, flagInvalid)
  | .inf n => (if n then 3 else 1, flagSat)
  | .fin neg m e =>
    let r := roundInt mode neg m e
    if r.1 < -1 then (3, flagSat) else if 1 < r.1 then (1, flagSat)
    else (if r.1 = 0 then 0 else if r.1 < 0 then 3 else 1, flagIf r.2 flagInexact)

/-- UE3M5 as a format without a sign (R118). -/
def fmtUe3m5 : FloatFmt := ⟨3, 5, 3, .allFinite⟩

/-- Conversion into UE3M5 (R118, R124). -/
def encodeUe3m5 (mode : Nat) (v : FV) : Nat × Word :=
  match v with
  | .nan _ => (0, flagInvalid)
  | .inf n => if n then (0, flagNegScale) else (0xFF, flagOver)
  | .fin n m e =>
    let r := encodeFloat fmtUe3m5 mode (.fin n m e)
    if n then (0, if r.1 % 256 = 0 then flagUnder else flagNegScale) else (r.1 % 256, r.2)

/-- The exponent code a positive number takes in UE8M0 before the range is looked at: adjacent powers of two, a tie to the even code (R122). -/
def ue8m0Exp (mode : Nat) (m : Nat) (e : Int) : Int × Bool :=
  let k : Int := (Nat.log2 m : Int) + e
  let one := 2 ^ Nat.log2 m
  let up := match mode with
    | 2 => false
    | 3 => false
    | 4 => m != one
    | _ => decide (2 * m > 3 * one) || (2 * m == 3 * one && (k + 127) % 2 == 1)
  (if up then k + 1 else k, m != one)

/-- Conversion into UE8M0 (R118, R124). -/
def encodeUe8m0 (mode : Nat) (v : FV) : Nat × Word :=
  match v with
  | .nan _ => (0xFF, 0)
  | .inf n => if n then (0, flagNegScale) else (0xFE, flagOver)
  | .fin true 0 _ => (0, flagUnder)
  | .fin true _ _ => (0, flagNegScale)
  | .fin false 0 _ => (0, flagInexact)
  | .fin false m e =>
    if (Nat.log2 m : Int) + e < -127 then (0, flagInexact)
    else
      let r := ue8m0Exp mode m e
      if 127 < r.1 then (0xFE, flagOver ||| flagInexact) else ((r.1 + 127).toNat, flagIf r.2 flagInexact)

/-- The value of a code of a format of R113 (R115-R119). FP32X is the exact S + E, or S where S is no number; a NaN in E
under a number in S is a quiet NaN of the sum, signalling or not, which R119 leaves open (log 23). -/
def decodeElt (fmt code : Nat) : FV :=
  match fmt with
  | 0x00 => fvInt (if code % 2 = 1 then -1 else 1)
  | 0x01 => fvInt (if code % 4 = 1 then 1 else if code % 4 = 3 then -1 else 0)
  | 0x02 => fvInt (sextNat 4 code) | 0x03 => fvInt ((code % 16 : Nat) : Int)
  | 0x04 => fvInt (sextNat 8 code) | 0x05 => fvInt ((code % 256 : Nat) : Int)
  | 0x06 => fvInt (sextNat 16 code) | 0x07 => fvInt ((code % 65536 : Nat) : Int)
  | 0x08 => fvInt (sextNat 32 code)
  | 0x18 =>
    let s := decodeFloat fmtFp32 (code % 2 ^ 32)
    match s with
    | .fin _ _ _ =>
      let e := decodeFloat fmtFp32 (code / 2 ^ 32 % 2 ^ 32)
      if fvIsZero e then s else (fvSum false [s, e]).1
    | v => v
  | 0x1C => decodeFloat fmtUe3m5 (code % 256)
  | 0x1D => if code % 256 = 255 then .nan false else .fin false 1 ((code % 256 : Nat) - 127)
  | f => match floatFmt? f with
    | some ff => decodeFloat ff code
    | none => fvZero

/-- Whether a code is a signalling NaN of its format, FP32X by its sum word. -/
def eltSig (fmt code : Nat) : Bool := fvIsSig (decodeElt fmt code)

/-- An FP32X element written from an exact value (R119), with the flags of R178. -/
def encodeFp32x (v : FV) : Nat × Word :=
  let s := encodeFloat fmtFp32 0 v
  match decodeFloat fmtFp32 s.1 with
  | .fin n m e =>
    let d := (fvSum false [v, fvNeg (.fin n m e)]).1
    let er := encodeFloat fmtFp32 0 d
    (s.1 + 2 ^ 32 * (if m = 0 ∧ fvIsZero v then 0 else er.1), flagIf (er.2 &&& flagInexact != 0#64) flagInexact)
  | _ => (s.1, s.2)

/-- Conversion of a value into a format of R113 under a mode, with its flags (R119, R122, R124). -/
def encodeElt (fmt mode : Nat) (v : FV) : Nat × Word :=
  match fmt with
  | 0x00 => encodeInt1 v
  | 0x01 => encodeInt2 mode v
  | 0x02 => encodeSigned 4 mode v | 0x03 => encodeUnsigned 4 mode v
  | 0x04 => encodeSigned 8 mode v | 0x05 => encodeUnsigned 8 mode v
  | 0x06 => encodeSigned 16 mode v | 0x07 => encodeUnsigned 16 mode v
  | 0x08 => encodeSigned 32 mode v
  | 0x18 => encodeFp32x v
  | 0x1C => encodeUe3m5 mode v
  | 0x1D => encodeUe8m0 mode v
  | f => match floatFmt? f with
    | some ff => encodeFloat ff mode v
    | none => (0, 0)

/-- The code of +0, or of the integer 0, in a format. -/
def zeroCode (_fmt : Nat) : Nat := 0

/-- One block under RNE-EF: residuals run from each element to the next; `none` marks an element that takes no part (R123). The residual runs on
into INT1 and FP32X too, of which R124 and R119 say how a value converts in any mode (log 103). -/
def encodeEF (fmt : Nat) : FV → List (Option FV) → List (Option Nat) × Word
  | _, [] => ([], 0)
  | e, none :: xs => let r := encodeEF fmt e xs; (none :: r.1, r.2)
  | e, some q :: xs =>
    let x' := if fvIsZero e || fvIsNan q || fvIsInf q then q else (fvSum false [q, e]).1
    let y := encodeElt fmt 0 x'
    let yv := decodeElt fmt y.1
    let fine := match x', yv with
      | .fin _ _ _, .fin _ _ _ => (y.2 &&& (flagSat ||| flagOver)) == 0#64
      | _, _ => false
    let e' := if fine then (fvSum false [x', fvNeg yv]).1 else fvZero
    let r := encodeEF fmt (if fvIsZero e' then fvZero else e') xs
    (some y.1 :: r.1, y.2 ||| r.2)

/-- A block under any mode: element by element, or by R123. -/
def encodeBlock (fmt mode : Nat) (xs : List (Option FV)) : List (Option Nat) × Word :=
  if mode = 1 then encodeEF fmt fvZero xs
  else
    let ys := xs.map fun o => o.map (encodeElt fmt mode)
    (ys.map (·.map Prod.fst), ys.foldl (fun acc o => match o with | some y => acc ||| y.2 | none => acc) 0#64)

/-- One block of quotients x / d under RNE-EF, d a finite number other than zero (R123, R125). The residual is carried as `r`, which is the
residual times d: so every sum is exact, and each quotient rounds once. -/
def encodeEFDiv (fmt : Nat) (d : FV) : FV → List FV → List Nat × Word
  | _, [] => ([], 0)
  | r, x :: xs =>
    let x' := if fvIsZero r then x else (fvSum false [x, r]).1
    let q := if fvIsZero x' && !fvIsZero r then fvZero else (fvDiv x' d).1
    let y := encodeElt fmt 0 q
    let yv := decodeElt fmt y.1
    let fine := match q, yv with
      | .fin _ _ _, .fin _ _ _ => (y.2 &&& (flagSat ||| flagOver)) == 0#64
      | _, _ => false
    let rest := encodeEFDiv fmt d (if fine then (fvSum false [x', fvNeg (fvMul yv d).1]).1 else fvZero) xs
    (y.1 :: rest.1, y.2 ||| (fvDiv x d).2 ||| rest.2)

/-- A block of quotients by a divisor under any mode (R123, R125). -/
def encodeQuots (fmt mode : Nat) (d : FV) (xs : List FV) : List Nat × Word :=
  let plain :=
    let qs := xs.map fun x => fvDiv x d
    let y := encodeBlock fmt mode (qs.map fun q => some q.1)
    (y.1.map (·.getD 0), qs.foldl (fun acc q => acc ||| q.2) y.2)
  match d with
  | .fin _ m _ => if mode = 1 ∧ m ≠ 0 then encodeEFDiv fmt d fvZero xs else plain
  | _ => plain

/-- The block scale that R125 chooses, in scale format `sf` (0 UE3M5, 1 UE8M0), for elements of format `fmt` under band scale `b`. -/
def chooseScale (sf fmt : Nat) (b : FV) (xs : List FV) : Nat × Word :=
  let sfmt := if sf = 0 then 0x1C else 0x1D
  let largest : Nat := if sf = 0 then 0xFF else 0xFE
  let maxf := match floatFmt? fmt with
    | some ff => decodeFloat ff (maxCode ff)
    | none => fvInt 1
  if xs.all fvIsZero then (0, 0)
  else if xs.any fvIsNan || xs.any fvIsInf then (largest, 0)
  else match b with
    | .fin _ 0 _ | .nan _ | .inf _ => (largest, 0)
    | b =>
      let amax := (fvPickList true (xs.map fvAbs)).1
      let r := encodeElt sfmt 4 (fvDiv amax (fvMul (fvAbs b) maxf).1).1
      (r.1, r.2 &&& flagOver)

/-- A block converted into a scaled target: the chosen scale code, the element codes and the flags (R125). -/
def encodeScaledBlock (sf fmt mode : Nat) (b : FV) (xs : List FV) : Nat × List Nat × Word :=
  let s := chooseScale sf fmt b xs
  let sv := decodeElt (if sf = 0 then 0x1C else 0x1D) s.1
  let y := encodeQuots fmt mode (if xs.all fvIsZero then fvInt 1 else (fvMul b sv).1) xs
  (s.1, y.1, s.2 ||| y.2)

end Sys2Proof.Machine
end

