-- ==== Sys2Proof/Config.lean ====
section
/-! DEFINITION. What the manual leaves open, as constants without a body (no proof can see a value), and the module's fixed sizes. -/

namespace Sys2Proof

/-- A free value: the manual fixes no number here; `n` counts the uses (log 3). -/
opaque Config.freeWord : Nat → Word

/-- How far a stopped or failing engine command has come: the manual says "at a row boundary" and no more (log 4). -/
opaque Config.freeRows : Nat → Nat

/-- VTANH of a format and code: false takes the neighbour nearer zero, true the other (R180 asks for one unit in the last place; log 5). -/
opaque Config.tanhOuter : Nat → Nat → Bool

/-- The SHA-512 digest, which R75, R380 and R383 name and do not define (log 6). -/
opaque Config.sha512 : List Byte → BitVec 512

/-- The Ed25519 signature by the module's identity key (R383; log 6). -/
opaque Config.sign : List Byte → BitVec 512

/-- Verification of boot stage n's signature over an image (R382; log 6). -/
opaque Config.verify : Nat → List Byte → Bool

/-- The digest of firmware image n of the flash (R383; log 6). -/
opaque Config.imageDigest : Nat → BitVec 512

/-- The number of firmware images in flash, of which R385 says 1 to 4 (log 6). -/
opaque Config.imageCount : Nat

/-- How far a code object goes on after its text image, by its header: no field of R75 gives the object's size (log 15). -/
opaque Config.objectTail : Nat → Nat

/-- The sensor readings of the telemetry block, by register and use (R386; log 3). -/
opaque Config.sensor : Nat → Nat → Word

/-- Whether the spare maps of a record, which R384 leaves in the security engine's own form, hold a unit: kind, core, index (R19, R372; log 6). -/
opaque Config.spared : List Byte → Nat → Nat → Nat → Bool

/-- Cores of the module (R8). -/
def Config.cores : Nat := 512
/-- Bytes of a scratchpad (R12, R256). -/
def Config.spadBytes : Nat := 0x200000
/-- The declared bound of a dimension variable at the start of a cue (R141). -/
def Config.dimLimit : Nat := 32767
/-- Cycles after which the part closes a non-pre-emptible region (R85). -/
def Config.nopreLimit : Nat := 65536
/-- Cycles of one aging step (R310). -/
def Config.ageCycles : Nat := 65536
/-- Entries of the admission table (R359). -/
def Config.admissionEntries : Nat := 262144

end Sys2Proof
end

