-- ==== Sys2Proof/Machine/Map.lean ====
section
/-! DEFINITION. Sparse data by number, and byte memory in its one canonical form: keys strictly rising, no byte listed that equals what an
unlisted address reads as, which is 0 (DESIGN CHOICE, unsafe, log 1). -/

namespace Sys2Proof.Machine

/-- The value at a key; `d` where nothing is listed. -/
def mget {α : Type} (d : α) (k : Nat) : List (Nat × α) → α
  | [] => d
  | e :: r => if e.1 = k then e.2 else mget d k r

/-- A map with one key's value replaced; keys stay strictly rising. -/
def mput {α : Type} (k : Nat) (v : α) : List (Nat × α) → List (Nat × α)
  | [] => [(k, v)]
  | e :: r => if k < e.1 then (k, v) :: e :: r else if e.1 = k then (k, v) :: r else e :: mput k v r

/-- Byte memory: an address space, a scratchpad. -/
abbrev Memory := List Host.Cell

/-- One byte; an unlisted address reads 0. -/
def memGet (m : Memory) (a : Nat) : Byte := mget 0#8 a m

/-- A cell ahead of a rest that lies above it; the byte 0 is not listed. -/
def memCons (a : Nat) (v : Byte) (m : Memory) : Memory := if v = 0#8 then m else (a, v) :: m

/-- One byte written. -/
def memSet (a : Nat) (v : Byte) : Memory → Memory
  | [] => memCons a v []
  | e :: r => if a < e.1 then memCons a v (e :: r) else if e.1 = a then memCons a v r else e :: memSet a v r

/-- n bytes from an address, ascending. -/
def memRead (m : Memory) (a : Nat) : Nat → List Byte
  | 0 => []
  | n + 1 => memGet m a :: memRead m (a + 1) n

/-- Bytes written at ascending addresses. -/
def memWrite (m : Memory) (a : Nat) : List Byte → Memory
  | [] => m
  | b :: bs => memWrite (memSet a b m) (a + 1) bs

/-- The cells of ascending bytes from an address, zeros left out. -/
def memCells (a : Nat) : List Byte → Memory
  | [] => []
  | b :: bs => memCons a b (memCells (a + 1) bs)

/-- A whole range written at once; the same memory as byte by byte. -/
def memBlock (m : Memory) (a : Nat) (bs : List Byte) : Memory :=
  m.filter (fun e => decide (e.1 < a)) ++ (memCells a bs ++ m.filter (fun e => decide (a + bs.length ≤ e.1)))

/-- Keys strictly rising. -/
def keysRise {α : Type} : List (Nat × α) → Bool
  | [] => true
  | [_] => true
  | e :: f :: r => decide (e.1 < f.1) && keysRise (f :: r)

/-- The canonical form of byte memory. -/
def Memory.wf (m : Memory) : Bool := keysRise m && m.all (fun e => e.2 != 0#8)

/-- Bytes as one number, the first least significant (R3, R20, R114). -/
def bytesNat : List Byte → Nat
  | [] => 0
  | b :: bs => b.toNat + 256 * bytesNat bs

/-- The n bytes of a number, least significant first. -/
def natBytes : Nat → Nat → List Byte
  | 0, _ => []
  | n + 1, x => BitVec.ofNat 8 x :: natBytes n (x / 256)

/-- n bytes of memory as a number. -/
def memNat (m : Memory) (a n : Nat) : Nat := bytesNat (memRead m a n)

end Sys2Proof.Machine
end

