-- ==== Sys2Proof/Machine/State.lean ====
section
/-! DEFINITION. The whole module as plain data: what the manual gives the machine, the bundle in issue, and the moves still to come; and the
state at module reset. INVENTORY.md, "State", lists every piece with its rule and reset value. -/

namespace Sys2Proof.Machine

/-- Why a step of the machine stops for good; the manual names no such case for a core that exists. -/
inductive Fault where
  /-- The agenda names a core, die, engine or host that the module does not have (R7). Raised by the step; safe: the hardware has no such
  agent, so no behaviour is left out. -/
  | noSuchAgent (n : Nat)
  deriving DecidableEq, Repr

/-- Why the machine has no meaning for an instruction. -/
inductive Refusal where
  /-- An instruction whose meaning is not written; raised by the dispatch arm alone. Safe: no claim about it can be proved. -/
  | notModelled (mnemonic : String)
  deriving DecidableEq, Repr

/-- The mode of a core (R304, R347). -/
inductive Mode where | cue | stageManager
  deriving DecidableEq, Repr

/-- What a core is doing (R306, R349, R352). -/
inductive Status where | idle | running | stopped | halted
  deriving DecidableEq, Repr

/-- A trap's cause code, FAULTINFO, and SHAPEINFO where the cause is SHAPE (R346, R348). -/
structure Trap where
  code : Nat
  info : Word
  shape : Option Word
  deriving DecidableEq, Repr

/-- Why a bundle stalls, in the counting order of R55. -/
inductive StallWhy where | fetch | range | scalar | queue | wait
  deriving DecidableEq, Repr

/-- A matrix command's DATAERR that waits for its point of R198: the physical address and the ranges whose touch raises it. -/
structure MatErr where
  pa : Nat
  ranges : List (Nat × Nat × Nat)
  deriving DecidableEq, Repr

/-- An error that waits on a core until a bundle raises it: of a scalar access, by its register (R98); of a matrix command (R198); of the head
of a copy engine (R268); the first DATAERR of an access without a register, which CUE.EXIT raises in a handler (R297, R320); or a remote read at
issue that nobody answered (R378). `met` holds what the slot itself has read at issue, by physical address: errors there start a self-test (R372),
and the error log takes what found nothing (R9). -/
inductive Held where
  | reg (n : Nat)
  | mat (e : MatErr)
  | eng (n : Nat)
  | met (ps : List (Nat × Nat))
  | note
  | noReply
  deriving DecidableEq, Repr

/-- Why a slot does not perform: a fault found at issue (R58), one that was held and is no longer held once it is taken, or a stall of its
bundle (R22). -/
inductive Stop where
  | fault (t : Trap)
  | held (t : Trap) (h : Held)
  | stall (w : StallWhy)
  deriving DecidableEq, Repr

/-- The register whose value a latch carries: an accumulator row, a scalar register, a lane mask (R371). -/
inductive LatchSrc where
  | row (n : Nat)
  | sreg (n : Nat)
  | kmask (n : Nat)
  deriving DecidableEq, Repr

/-- A bypass or hold latch: its row and tag, whether it is valid, and the register it carries, for the debugger (R35, R38, R42, R371). -/
structure Latch where
  valid : Bool
  val : Row
  tag : Option Nat
  src : Option LatchSrc
  deriving DecidableEq, Repr

/-- A tile register (R131, R132, R134). -/
structure Tile where
  tw : BitVec 128
  bd : Word
  deriving DecidableEq, Repr

/-- A dimension variable (R141). -/
structure Dim where
  limit : Nat
  val : Option Nat
  deriving DecidableEq, Repr

/-- A stream port: unset, or its record and the four indices (R174, R175). -/
structure Port where
  set : Bool
  base : Nat
  write : Bool
  fmt : Nat
  counts : List Nat
  strides : List Int
  idx : List Nat
  deriving DecidableEq, Repr

/-- A pattern context: the fields of its image, and whether its counting pass still runs (R221, R230, R237). -/
structure PCtx where
  state : Nat
  order : Nat
  pc : Nat
  pars : List Nat
  total : Nat
  outcur : Nat
  blkMajor : Nat
  blkMinor : Nat
  spanLo : Nat
  spanHi : Nat
  counting : Bool
  deriving DecidableEq, Repr

/-- A token-tree node (R242). -/
structure Node where
  parent : Nat
  depth : Nat
  pos : Nat
  token : Nat
  deriving DecidableEq, Repr

/-- The token-tree file: N is the length of the node list, MAPN that of the map (R241). -/
structure Tree where
  nodes : List Node
  map : List Nat
  deriving DecidableEq, Repr

/-- A stationary latch: type word and whether its block scales run along k, both set at issue, the group that last held it as (first, number),
block scales, band scale and element storage (R194, R195, R199, R209), and the 8-byte granules that hold an error (R402), by byte offset: of the
element storage, from 16,384 on of the block scales, at 17,408 of the band scale. -/
structure LatchSt where
  tw : BitVec 128
  col : Bool
  grp : Nat × Nat
  scales : Memory
  band : Nat
  store : Memory
  bad : List Nat
  deriving DecidableEq, Repr

/-- A captured operand: type word and binding as resolved at issue (R143, R210). -/
structure Opnd where
  tw : BitVec 128
  bd : Word
  deriving DecidableEq, Repr

/-- A matrix command: its word, captured operands and context, whether it has started and whether an array runs it now, its progress, its place in
program order, where it runs and the latch copy it carried there (R197, R209, R210, R213-R215); `old` holds 64-byte units of its ranges as they
stood before an outside write, by offset (R258). -/
structure MCmd where
  word : Nat
  ops : List Opnd
  ctx : PCtx
  latch : List (Nat × LatchSt)
  started : Bool
  running : Bool
  rows : Nat
  col : Nat
  depth : Nat
  issuedAt : Nat
  num : Nat
  away : Option Nat
  old : List (Nat × List Byte) := []
  deriving DecidableEq, Repr

/-- What an MRESUME has read at issue and re-enters when it runs: the commands, the latches' type words and band scales, and the cells (R212). -/
structure MBack where
  cmds : List MCmd
  latches : List (Nat × LatchSt)
  cells : Option Nat
  deriving DecidableEq, Repr

/-- Where a command issued that KSAVE took and a KRESUME elsewhere brought back: the core, its place in the core's program order, and that of the
KSAVE (R275, R277, R292). -/
structure KHome where
  core : Nat
  seq : Nat
  place : Nat
  deriving DecidableEq, Repr

/-- A copy-engine command: its word, what it captured at issue, and its progress (R265, R269, R277). `sm` is the mode it issued in, `tag` its
number among the cue's pit commands, `wrec` the captured window, routing or pit record. `ahead` holds the units done ahead of `progress`, as
(from, to) (R336); `skipped` notes an index out of range (R272), `flags` the flags for its completion (R271), `done` that every unit is performed
or sent (R50); `old` holds 64-byte units of the tiles it reads as they stood before an outside write, by offset (R258). `home` tells
where a command issued that a KRESUME elsewhere has brought back (R275, R277, R292). -/
structure KCmd where
  word : Nat
  value : Nat
  sig : Option Nat
  tile : Opnd
  orig : List Nat
  dst : Nat
  idx : Opnd
  src : Nat
  wrec : List Byte
  capf : Nat
  sm : Bool
  tag : Nat
  serial : Nat
  seq : Nat
  started : Bool
  progress : Nat
  parked : Option Word
  failed : Option Nat
  ahead : List (Nat × Nat)
  skipped : Bool
  flags : Word
  done : Bool
  old : List (Nat × List Byte) := []
  home : Option KHome := none
  deriving DecidableEq, Repr

/-- A command that a KSAVE has taken: its place in program order, its word, and where it issued if that is another core. -/
structure KTaken where
  seq : Nat
  word : Nat
  home : Option KHome
  deriving DecidableEq, Repr

/-- The commands that a KSAVE has taken and no KRESUME has brought back: its engine, its place in program order, the commands (R275, R277, R292). -/
structure KAway where
  eng : Nat
  place : Nat
  cmds : List KTaken
  deriving DecidableEq, Repr

/-- What an in-flight access does when it performs (R54, R98, R99, R158; the replies of R213, R236, R323 and R83). `posted` is a write that a
copy engine has sent towards memory (R333, R336). -/
inductive AccessKind where
  | load
  | store
  | amo (fn : Nat)
  | block
  | posted (eng : Nat)
  | reply
  | audition (job : Nat)
  deriving DecidableEq, Repr

/-- An access in flight (R54, R98, R335, R336, R363). `pa` is the translated address; `home` is none while its cue is on the core, else the
class under which the cue was saved. `upto` says at which narrow scope it already counts as performed: 0 none, 1 core, 2 die (R332, R340), `seen`
which cores are ordered after it there, by an acquire or a fence (R338). A copy engine's write of several parts of one unit that lie apart leaves the
bytes whose bits `hole` sets alone (R333); its `rel` marks a completion word or a SIGNAL's (R337). -/
structure Access where
  seq : Nat
  kind : AccessKind
  va : Nat
  pa : Nat
  size : Nat
  dst : Nat
  data : Nat
  swap : Nat
  scope : Nat
  acq : Bool
  rel : Bool
  serial : Nat
  home : Option Nat
  upto : Nat
  seen : List Nat
  hole : Nat := 0
  deriving DecidableEq, Repr

/-- What lands when an exposed result or a boundary write lands (R43, R89, R146, R362). -/
inductive Upd where
  | sreg (n : Nat) (v : Word)
  | pred (n : Nat) (v : Bool)
  | breg (n : Nat) (v : Word)
  | kmask (n : Nat) (bits : BitVec 512) (cnt : Nat)
  | row (r : Nat) (v : Row) (tag : Option Nat)
  | spad (off n v : Nat)
  | tile (t : Nat) (tw : Option (BitVec 128)) (bd : Option Word)
  | dim (n : Nat) (v : Option Nat)
  | dimLimit (n b : Nat)
  | sys (n : Nat) (v : Word)
  | port (z : Nat) (p : Port)
  | accAlloc (f n : Nat)
  | accFree (f n : Nat)
  | accWin (w fmt : Nat)
  | rot (v : Nat)
  | tree (t : Tree)
  | pgMem (dest : Nat) (ws : List Nat)
  | pgCtx (g : Nat) (c : PCtx)
  | latchType (l : Nat) (tw : BitVec 128) (col : Bool) (grp : Option (Nat × Nat))
  deriving DecidableEq, Repr

/-- A result in the exposed pipelines: bundles left, its order, what it writes (none under nowb), its bypass entry, its flags
(R35, R43, R362), and whether the entry is another row than the one it writes (R193). -/
structure Flight where
  left : Nat
  ord : Nat
  upd : Option Upd
  byp : Option (Row × Option Nat)
  flags : Word
  apart : Bool
  deriving DecidableEq, Repr

/-- A mark wait: home, mark, returned GEN (R329). -/
structure MarkWait where
  home : Nat
  mark : Nat
  gen : Nat
  deriving DecidableEq, Repr

/-- A pit trap record with its command's tag, or the DATAERR of a scalar access of the core's `own` whose destination is s0 (R296, R297). -/
structure PitTrap where
  code : Nat
  info : Word
  own : Bool
  tag : Nat
  deriving DecidableEq, Repr

/-- An error of a scalar access that waits for a bundle that touches its register, or for CUE.EXIT (R98). -/
structure RegErr where
  dst : Nat
  va : Nat
  deriving DecidableEq, Repr

/-- What a core still has to finish before it goes on: ERET and HALT by empty steps (R44, R351, R352), CUE.EXIT what its bundle stalls for and its
join step (R250, R254, R305, R320). -/
inductive Drain where | eret | halt | exit
  deriving DecidableEq, Repr

/-- The context of one cue: everything a curtain saves and a resume restores (R87, R131, R241, R367), with the state of its engines. `fresh`
counts the newest bypass entries, which entered at the boundary where the core stands (R41); `resumeErr` is a DATAERR that a resume left for the
boundary before the first bundle (R369); `spent` counts the cycles that the bundle about to issue has stalled for its own time (R230), `owed` those
that a tree operation still stalls (R255);
`kaway` holds what each KSAVE took, the newest first; `mback` what an MRESUME in the queue has read (R212). -/
structure Ctxt where
  pc : Word
  delay : Option (Nat × Word)
  shadow : Nat
  sregs : List (Nat × Word)
  preds : BitVec 16
  bregs : List (Nat × Word)
  kmasks : List (Nat × BitVec 512 × Nat)
  mode : Mode
  cause : Word
  faultpc : Word
  faultpcSet : Bool
  faultinfo : Word
  shapeinfo : Word
  esave : Word
  rehearse : Bool
  sticky : Word
  nopre : Option Nat
  rot : Nat
  window : Option Nat
  wfmt : Nat
  held : BitVec 256
  tiles : List (Nat × Tile)
  dims : List (Nat × Dim)
  ports : List (Nat × Port)
  cls : Nat
  decl : Word
  slotAddr : Word
  serial : Nat
  joinAddr : Word
  iroot : Word
  droot : Word
  inflight : List Flight
  trapCap : List Flight
  trapDelay : Option (Nat × Word)
  trapShadow : Nat
  trapWait : Option MarkWait
  wait : Option MarkWait
  draining : Option Drain
  bypass : List Latch
  fresh : Nat
  spent : Nat
  owed : Nat
  holds : List (Nat × Latch)
  ens : List Nat
  pitCount : Nat
  pitTraps : List PitTrap
  resumeErr : Option Word
  regErrs : List RegErr
  matErrs : List MatErr
  pgMem : List (Nat × Nat)
  pgCtxs : List (Nat × PCtx)
  tree : Tree
  latches : List (Nat × LatchSt)
  cells : Option Nat
  mq : List MCmd
  mback : Option MBack
  kq0 : List KCmd
  kq1 : List KCmd
  kaway : List KAway
  lastUnits : List (Nat × Nat)
  saveBase : Option Nat
  deriving DecidableEq, Repr

/-- A mark of a home core (R324). -/
structure Mark where
  inited : Bool
  bound : Bool
  expect : Nat
  arrived : Nat
  gen : Nat
  deriving DecidableEq, Repr

/-- A cached leaf translation: the root it was made under, virtual page base and size, the leaf entry and its address, and whether the page was
waived when the walk found it (R84, R358, R359). -/
structure TlbEnt where
  root : Nat
  vbase : Nat
  size : Nat
  leaf : Nat
  leafAddr : Nat
  waived : Bool := false
  deriving DecidableEq, Repr

/-- A remote write held at its owner's NoC interface (R258), with the group of the pit command whose result it is (R299), or the host that posted
it (R376). -/
structure HeldWrite where
  off : Nat
  data : List Byte
  pit : Option Nat
  host : Option Nat
  deriving DecidableEq, Repr

/-- One core: the running context, the contexts curtains saved, and what belongs to the core whatever cue runs (R12, R109, R324, R364). `icache` lists
the bundles that its instruction cache holds, as (root, address), oldest first (R12, R83). `debugNote` counts the refusals that its debug block
reports, `reloads` the registers whose latches are marked to reload (R371). `sramBad` names the engine arrays whose SRAM holds an uncorrectable error:
0 the matrix array, 1 and 2 the copy engines; `snapBad` the entries of the trap capture in the snapshot latch bank that hold one (R362, R402). `kbuf`
holds what the command on an engine has read, and not yet used, of an aligned 64-byte unit of a core's window, byte by byte, by twice the physical
address plus the engine (R333); `noReply` says that a remote read at issue was not answered in time (R378). -/
structure Core where
  status : Status
  debugStop : Bool
  ctx : Ctxt
  saved : List (Nat × Ctxt)
  started : Nat
  cycles : Nat
  tvec : Word
  migctl : Word
  duetctl : Word
  capf : Word
  evsel : List (Nat × Word)
  evcnt : List (Nat × Word)
  spad : Memory
  rows : List (Nat × Row)
  tags : List (Nat × Option Nat)
  marks : List (Nat × Mark)
  pend : List Access
  nextSeq : Nat
  nextOrd : Nat
  dtlb : List TlbEnt
  itlb : List TlbEnt
  icache : List (Nat × Nat)
  remote : List HeldWrite
  foreign : Option (Nat × MCmd)
  duetSide : Bool
  debugNote : Nat
  reloads : List LatchSrc
  sramBad : List Nat
  snapBad : List Nat
  kbuf : List (Nat × Byte)
  noReply : Bool
  deriving DecidableEq, Repr

/-- One wing of a die (R303, R310, R376). `age` counts the aging steps of its head, `since` orders heads by when they became head. -/
structure Wing where
  qbase : Word
  head : Nat
  tail : Nat
  qroot : Word
  dropped : Nat
  age : Nat
  since : Nat
  deriving DecidableEq, Repr

/-- A hardware enqueue waiting in a die's buffer (R305). -/
structure Waiting where
  wing : Nat
  entry : List Byte
  deriving DecidableEq, Repr

/-- A pre-staged line (R312, R313): the wing whose pending head it is for, and once that cue has started its core and serial; the record, its
VERSION at the fill, the DROOT, the virtual line address, its bytes, and whether a TLOAD has taken it. -/
structure PreLine where
  wing : Nat
  owner : Option (Nat × Nat)
  recAddr : Nat
  version : Nat
  root : Nat
  line : Nat
  data : List Byte
  used : Bool
  deriving DecidableEq, Repr

/-- One stage die (R7, R303, R365, R263, R358). -/
structure Die where
  wings : List (Nat × Wing)
  ctab : Word
  savebase : Word
  buffer : List Waiting
  dtlb : List TlbEnt
  itlb : List TlbEnt
  wcache : List (Nat × List Byte)
  prestage : List PreLine
  picks : Nat
  deriving DecidableEq, Repr

/-- An entry of a pit engine's translation memory (R293). -/
structure TmEnt where
  seq : Nat
  blk : Nat
  unit : Nat
  locked : Bool
  deriving DecidableEq, Repr

/-- A dispatched pit command (R287): its opcode, issuer, place among the core's commands, tag, K engine and translated completion word; the
parts of one command share a group; the operands the copy engine sent; the first status met and where; the flags gathered; rows done and what
they left in the bank accumulators (R298); whether it runs, and whether a PIT.ATTN still marks its tile (R288, R299); the rows or additions done ahead
of `rows` (R336); `home` as a K command has it. -/
structure PitCmd where
  op : Nat
  core : Nat
  serial : Nat
  seq : Nat
  tag : Nat
  keng : Nat
  sig : Option Nat
  group : Nat
  pars : List Nat
  addrs : List Nat
  vals : List Nat
  places : List Nat
  tileOff : Nat
  tileLen : Nat
  status : Nat
  statusAt : Nat
  flags : Word
  rows : Nat
  acc : List Nat
  ran : Bool
  marked : Bool
  ahead : List Nat := []
  home : Option KHome := none
  deriving DecidableEq, Repr

/-- One pit engine (R287, R293, R298). `sent` holds the commands whose last write waits where it goes to (R258, R286, R299). -/
structure Pit where
  queue : List PitCmd
  sent : List PitCmd
  tm : List TmEnt
  suspended : Bool
  windows : Nat
  deriving DecidableEq, Repr

/-- A pit status on its way to the issuing core (R296, R297). -/
structure PitStatus where
  core : Nat
  serial : Nat
  tag : Nat
  code : Nat
  info : Word
  deriving DecidableEq, Repr

/-- Why the house die wrote its error log. -/
inductive LogKind where
  | disabledCore | discardedWrite | freeBank | qbaseEntry | disabledWing | smEnqueue | joinNegative | joinLost | contLost | cueFailed
  | doubleFault | halted | pitGone | pitDropped | admissionEvicted | unmapped | hostRefused | corrected | retired | unitFailed | lostWrite
  | debugRefused
  deriving DecidableEq, Repr

/-- One entry of the house die's error log. -/
structure LogEntry where
  kind : LogKind
  a : Nat
  b : Nat
  c : Nat
  d : Nat
  deriving DecidableEq, Repr

/-- An audition in progress (R83): issuer, the descriptor as read, its address, the status register, and the verdict. -/
structure Audit where
  core : Nat
  serial : Nat
  dst : Nat
  desc : Nat
  ibase : Nat
  pages : Nat
  ctl : Nat
  header : Nat
  iroot : Nat
  droot : Nat
  bad : Bool
  deriving DecidableEq, Repr

/-- A self-test in progress, or a unit marked failed (R372, R373): `kind / 2` is 0 for a bank of core SRAM, 1 for an HBM row, 2 for a matrix array,
3 for a copy-engine array, 4 for latch storage, 5 for the snapshot latch bank; an odd kind has no free spare. `idx` is the bank, scratchpad banks
first, then accumulator banks, the row's physical address, the engine, or the latch. -/
structure SelfTest where
  kind : Nat
  core : Nat
  idx : Nat
  deriving DecidableEq, Repr

/-- A slot of the reducing unit (R379): contributions so far and, per lane, the terms of the exact sum as FP32 codes. -/
structure RedSlot where
  count : Nat
  lanes : List (Nat × List Nat)
  deriving DecidableEq, Repr

/-- A host's private attestation block and approval bytes (R384, R385). -/
structure HostBlock where
  nonce : Nat
  request : Bool
  ready : Bool
  atRequest : Nat
  report : List Byte
  approve : List (Nat × Nat)
  deriving DecidableEq, Repr

/-- A host push that waits for the writes that its host posted before it (R376): host, die, wing, size and bytes. -/
structure HeldPush where
  host : Nat
  die : Nat
  wing : Nat
  size : Nat
  data : Nat
  deriving DecidableEq, Repr

/-- The house die (R7, R322, R359, R375-R386). `admission` holds each admitted leaf with its address and the range it was admitted for, `text`
the bytes of admitted frames as they were admitted (R80), `retired` the units that a spare serves and no committed record's spare map holds yet
(R372), `due` the self-tests of arrays that wait for an empty queue, `pushes` the host pushes that wait for earlier writes (R376). -/
structure House where
  ensembles : List (Nat × Nat)
  admission : List TlbEnt
  waived : List (Nat × Nat)
  text : Memory
  audits : List (Nat × Audit)
  nextAudit : Nat
  log : List LogEntry
  modid : Word
  dommask : Word
  redbase : Word
  red : List (Nat × RedSlot)
  bootstat : Word
  record : List Byte
  previous : List Byte
  pcounter : Nat
  proposal : List Byte
  digest : Nat
  stagestat : Word
  enables : BitVec 512
  owners : BitVec 8
  hosts : List (Nat × HostBlock)
  pstate : Nat
  throttle : Nat
  clock : Nat
  links : BitVec 16
  tests : List (Nat × SelfTest)
  due : List SelfTest
  nextTest : Nat
  failed : List SelfTest
  retired : List SelfTest
  statuses : List PitStatus
  pushes : List HeldPush
  nextGroup : Nat
  deriving DecidableEq, Repr

/-- What takes control at the end of a bundle. -/
inductive Ctl where
  | branch (target : Word)
  | jump (target : Word)
  | trap (n : Nat)
  | eret
  | halt
  | exit
  | sleep (w : MarkWait)
  deriving DecidableEq, Repr

/-- What an instruction does beyond its core's registers, performed when its bundle issues. -/
inductive Act where
  | cuePush (wing : Nat) (r : List Byte)
  | cueFork (wing n : Nat) (join : Option Nat) (r : List Byte)
  | ensJoin (e : Nat)
  | ensLeave (e : Nat)
  | markInit (m : Nat) (bound : Bool) (v : Nat)
  | markArrive (home m : Nat)
  | auditStart (a : Audit)
  | windowFence
  | mback (b : MBack)
  | ksave (eng : Nat) (ps : List (Nat × Nat))
  | kresume (eng : Nat) (cmds : List KCmd)
  | unitAccept (slot : Nat)
  | spend (n : Nat)
  | met (ps : List (Nat × Nat))
  | observe (level : Nat)
  deriving DecidableEq, Repr

/-- The effect of a slot, gathered while the bundle is in issue and performed together when it closes (R22, R45, R58). -/
inductive Eff where
  | land (lat : Nat) (upd : Option Upd) (byp : Option (Row × Option Nat)) (flags : Word)
  | landApart (lat : Nat) (upd : Option Upd) (byp : Option (Row × Option Nat)) (flags : Word)
  | hold (pos : Nat) (l : Latch)
  | pop (z : Nat)
  | access (a : Access)
  | mcmd (c : MCmd)
  | kcmd (eng : Nat) (c : KCmd)
  | bind (n v : Nat)
  | bcast (v : Word)
  | fillD (e : TlbEnt)
  | fillRec (pa : Nat) (bytes : List Byte)
  | ctl (c : Ctl)
  | act (a : Act)
  deriving DecidableEq, Repr

/-- The bundle in issue: the slot whose word is being performed, the effects so far with their slots, and the slots that stopped. -/
structure Issue where
  slot : Nat
  words : List Nat
  effs : List (Nat × Eff)
  stops : List (Nat × Stop)
  deriving DecidableEq, Repr

/-- A move of the module: a core's sequencer goes on, an event of the opcode table takes place, one unit of the command that a copy engine runs
performs, at a progress (R333, R336), an access in flight performs at a scope narrower than the module: 1 core, 2 die (R332, R340), a core's
array does one row of the command it runs (R213), or a pit engine does one row or addition of its command ahead of earlier ones (R336). -/
inductive Turn where
  | core (n : Nat)
  | event (i : Instr)
  | unit (core eng at' : Nat)
  | scoped (core idx level : Nat)
  | row (core : Nat)
  | add (pit k : Nat)
  deriving DecidableEq, Repr

/-- A word that a release wrote last: its address and size, the core that released it and the scope level (R337). -/
structure RelWord where
  pa : Nat
  size : Nat
  core : Nat
  level : Nat
  deriving DecidableEq, Repr

/-- What the sensors of the telemetry block show (R386). -/
structure Sensors where
  power : Nat
  current : Nat
  temp : Nat
  deriving DecidableEq, Repr

/-- The whole module. `focus` is the core whose sequencer acts; `agenda` holds the moves to come, oldest first (the model's own, log 2);
`uses` counts the free values drawn (the model's own, log 3); `rels` holds the words that a release wrote last (the model's own, R337). -/
structure State where
  focus : Nat
  agenda : List Turn
  uses : Nat
  issue : Issue
  cores : List (Nat × Core)
  dies : List (Nat × Die)
  house : House
  pits : List (Nat × Pit)
  mem : Memory
  bad : List Nat
  sensors : Sensors
  reply : Nat
  rels : List RelWord
  deriving DecidableEq, Repr

/-- An empty pattern context (R219). -/
def PCtx.empty : PCtx := ⟨0, 0, 0, [0, 0, 0, 0], 0, 0, 0, 0, 0, 0, false⟩

/-- An unset port (R175). -/
def Port.unset : Port := ⟨false, 0, false, 0, [], [], []⟩

/-- An invalid latch (R41, R42). -/
def Latch.invalid : Latch := ⟨false, 0, none, none⟩

/-- An unbound variable with the bound of R141. -/
def Dim.start : Dim := ⟨Config.dimLimit, none⟩

/-- The empty stationary latch (R194). -/
def LatchSt.empty : LatchSt := ⟨0, false, (0, 0), [], 0, [], []⟩

/-- A mark at module reset (R324). -/
def Mark.start : Mark := ⟨false, false, 0, 0, 0⟩

/-- A context with every register at its reset value: zero where R109 gives a value or gives none (log 8). -/
def Ctxt.start : Ctxt :=
  { pc := 0, delay := none, shadow := 0, sregs := [], preds := 1, bregs := [], kmasks := [], mode := .cue, cause := 0, faultpc := 0,
    faultpcSet := false, faultinfo := 0, shapeinfo := 0, esave := 0, rehearse := false, sticky := 0, nopre := none, rot := 0,
    window := none, wfmt := 0x12, held := 0, tiles := [], dims := [], ports := [], cls := 0, decl := 0, slotAddr := 0, serial := 0,
    joinAddr := 0, iroot := 0, droot := 0, inflight := [], trapCap := [], trapDelay := none, trapShadow := 0, trapWait := none,
    wait := none, draining := none, bypass := [], fresh := 0, spent := 0, owed := 0, holds := [], ens := [], pitCount := 0, pitTraps := [],
    resumeErr := none, regErrs := [], matErrs := [], pgMem := [], pgCtxs := [], tree := ⟨[], []⟩, latches := [], cells := none, mq := [], mback := none, kq0 := [],
    kq1 := [], kaway := [], lastUnits := [], saveBase := none }

/-- A core at module reset (R109, R324). -/
def Core.reset : Core :=
  { status := .idle, debugStop := false, ctx := Ctxt.start, saved := [], started := 0, cycles := 0, tvec := 0, migctl := 0, duetctl := 0,
    capf := 0x0100, evsel := [], evcnt := [], spad := [], rows := [], tags := [], marks := [], pend := [], nextSeq := 0, nextOrd := 0,
    dtlb := [], itlb := [], icache := [], remote := [], foreign := none, duetSide := false, debugNote := 0, reloads := [],
    sramBad := [], snapBad := [], kbuf := [], noReply := false }

/-- A wing at module reset: disabled (R303). -/
def Wing.reset : Wing := ⟨0, 0, 0, 0, 0, 0, 0⟩

/-- A stage die at module reset (R303, R365). -/
def Die.reset : Die := ⟨[], 0, 0, [], [], [], [], [], 0⟩

/-- A pit engine at module reset (R293). -/
def Pit.reset : Pit := ⟨[], [], [], false, 0⟩

/-- A host's blocks at module reset (R384, R385). -/
def HostBlock.reset : HostBlock := ⟨0, false, false, 0, [], []⟩

/-- The house die at module reset: booting, no core enabled yet (R382), every die host A's until a record says otherwise (log 9). -/
def House.reset : House :=
  { ensembles := [], admission := [], waived := [], text := [], audits := [], nextAudit := 0, log := [], modid := 0, dommask := 0, redbase := 0,
    red := [], bootstat := 0, record := [], previous := [], pcounter := 0, proposal := [], digest := 0, stagestat := 0,
    enables := 0, owners := 0, hosts := [], pstate := 0, throttle := 0, clock := 4000, links := BitVec.allOnes 16,
    tests := [], due := [], nextTest := 0, failed := [], retired := [], statuses := [], pushes := [], nextGroup := 0 }

/-- The module right after reset: no cue runs, no wing is enabled, memory lists nothing, the sensors show 0 (R386). -/
def State.reset : State :=
  { focus := 0, agenda := [], uses := 0, issue := ⟨0, [], [], []⟩, cores := [], dies := [], house := House.reset, pits := [], mem := [],
    bad := [], sensors := ⟨0, 0, 0⟩, reply := 0, rels := [] }

end Sys2Proof.Machine
end

