-- ==== Sys2Proof/Machine/Ops.lean ====
section
/-! DEFINITION. The named operations over registers, storage, the physical map and translation; taking a trap and returning from one. -/

namespace Sys2Proof.Machine

/-! ### Cores, dies, contexts -/

/-- Core n. -/
def coreOf (s : State) (n : Nat) : Core := mget Core.reset n s.cores

/-- Core n replaced. -/
def setCoreOf (s : State) (n : Nat) (c : Core) : State := { s with cores := mput n c s.cores }

/-- The core whose sequencer acts. -/
def cur (s : State) : Core := coreOf s s.focus

/-- The acting core replaced. -/
def setCur (s : State) (c : Core) : State := setCoreOf s s.focus c

/-- The running context of the acting core. -/
def ctx (s : State) : Ctxt := (cur s).ctx

/-- The running context replaced. -/
def setCtx (s : State) (x : Ctxt) : State := setCur s { cur s with ctx := x }

/-- The stage die of a core (R8). -/
def dieOfCore (n : Nat) : Nat := n / 64

/-- Die d. -/
def dieOf (s : State) (d : Nat) : Die := mget Die.reset d s.dies

/-- Die d replaced. -/
def setDie (s : State) (d : Nat) (x : Die) : State := { s with dies := mput d x s.dies }

/-- Pit engine p. -/
def pitOf (s : State) (p : Nat) : Pit := mget Pit.reset p s.pits

/-- Pit engine p replaced. -/
def setPit (s : State) (p : Nat) (x : Pit) : State := { s with pits := mput p x s.pits }

/-- An entry of four numbers in the house die's error log. -/
def logErr4 (s : State) (k : LogKind) (a b c d : Nat) : State :=
  { s with house := { s.house with log := s.house.log ++ [⟨k, a, b, c, d⟩] } }

/-- An entry in the house die's error log. -/
def logErr (s : State) (k : LogKind) (a b c : Nat) : State := logErr4 s k a b c 0

/-- Whether the configuration record enables a core (R9). -/
def enabled (s : State) (n : Nat) : Bool := s.house.enables.getLsbD n

/-- The free value of a place k of the step (log 3). -/
def freeOf (s : State) (k : Nat) : Word := Config.freeWord (s.uses + k)

/-- What the sensors show after a use of free values: open (R386, log 3). -/
def sensed (n : Nat) : Sensors :=
  ⟨(Config.sensor 0x08 n).toNat % 2 ^ 16, (Config.sensor 0x10 n).toNat % 2 ^ 16, (Config.sensor 0x18 n).toNat % 2 ^ 16⟩

/-- The count of free values goes on: a step has 65,536 of its own; the sensors show new readings. -/
def useFree (s : State) : State := { s with uses := s.uses + 65536, sensors := sensed s.uses }

/-- The next free value within a step. -/
def useOne (s : State) : State := { s with uses := s.uses + 1 }

/-! ### Registers (R87) -/

/-- A scalar register; s0 reads zero. -/
def sregOf (x : Ctxt) (n : Nat) : Word := if n = 0 then 0 else mget 0 n x.sregs

/-- A scalar register written; a write to s0 is discarded. -/
def setSreg (x : Ctxt) (n : Nat) (v : Word) : Ctxt := if n = 0 then x else { x with sregs := mput n v x.sregs }

/-- A predicate; p0 is true. -/
def predOf (x : Ctxt) (n : Nat) : Bool := n == 0 || x.preds.getLsbD n

/-- A predicate written; a write to p0 is discarded. -/
def setPred (x : Ctxt) (n : Nat) (v : Bool) : Ctxt :=
  if n = 0 then x
  else { x with preds := if v then x.preds ||| BitVec.ofNat 16 (2 ^ n) else x.preds &&& ~~~(BitVec.ofNat 16 (2 ^ n)) }

/-- A branch-target register. -/
def bregOf (x : Ctxt) (n : Nat) : Word := mget 0 n x.bregs

/-- A lane mask: bits and lane count (R90); 512 lanes of zeros at the start of a cue (R88). -/
def kmaskOf (x : Ctxt) (n : Nat) : BitVec 512 × Nat := mget (0, 512) n x.kmasks

/-- Bit i of a mask, zero at and above its lane count (R181). -/
def maskBit (k : BitVec 512 × Nat) (i : Nat) : Bool := decide (i < k.2) && k.1.getLsbD i

/-- A mask of given bits with every bit at and above its count clear (R90). -/
def maskOfBits (bs : List Bool) (cnt : Nat) : BitVec 512 × Nat :=
  (BitVec.ofNat 512 (packElts 1 ((bs.take cnt).map fun b => if b then 1 else 0)), cnt)

def tileOf (x : Ctxt) (t : Nat) : Tile := mget ⟨0, 0⟩ t x.tiles
def dimOf (x : Ctxt) (n : Nat) : Dim := mget Dim.start n x.dims
def portOf (x : Ctxt) (z : Nat) : Port := mget Port.unset z x.ports
def pctxOf (x : Ctxt) (g : Nat) : PCtx := mget PCtx.empty g x.pgCtxs
def latchOf (x : Ctxt) (l : Nat) : LatchSt := mget LatchSt.empty l x.latches
def markOf (c : Core) (m : Nat) : Mark := mget Mark.start m c.marks
def rowOf (c : Core) (r : Nat) : Row := mget 0 r c.rows
def tagOf (c : Core) (r : Nat) : Option Nat := mget none r c.tags

/-- BANKS, TILES, MARKS, PROFILE and CLASS of a resource declaration (R76). -/
def declBanks (d : Word) : Nat := fld d.toNat 0 9
def declTiles (d : Word) : Nat := fld d.toNat 9 6
def declMarks (d : Word) : Nat := fld d.toNat 15 12
def declProfile (d : Word) : Nat := fld d.toNat 27 16
def declClass (d : Word) : Nat := fld d.toNat 43 3

/-- LIVE: from trap entry until ERET (R347). -/
def live (x : Ctxt) : Bool := x.cause.getLsbD 62

/-- Whether the running cue holds bank b (R164). -/
def holdsBank (x : Ctxt) (b : Nat) : Bool := x.held.getLsbD b

/-- Whether the running cue or one that a curtain saved on the core holds bank b (R164). -/
def bankTaken (c : Core) (b : Nat) : Bool := holdsBank c.ctx b || c.saved.any fun e => holdsBank e.2 b

/-- HELD: the banks the cue holds (R165). -/
def heldCount (x : Ctxt) : Nat := ((List.range 256).filter (holdsBank x)).length

/-- The physical accumulator row behind vn (R170). -/
def vrow (x : Ctxt) (w n : Nat) : Nat := if n < 32 then w + n else w + 32 + (n - 32 + x.rot) % 16

/-- Bytes of a row as a number range. -/
def rowByte (r : Row) (i : Nat) : Byte := BitVec.ofNat 8 (r.toNat / 2 ^ (8 * i))

/-- A row with bytes from offset i on replaced. -/
def rowPatch (r : Row) (i : Nat) (bs : List Byte) : Row :=
  let lo := r.toNat % 2 ^ (8 * i)
  let hi := r.toNat / 2 ^ (8 * (i + bs.length))
  BitVec.ofNat 4096 (lo + 2 ^ (8 * i) * bytesNat bs + 2 ^ (8 * (i + bs.length)) * hi)

/-! ### Bindings and busy ranges (R50, R132) -/

def bdSpace (b : Word) : Nat := fld b.toNat 0 2
def bdBase (b : Word) : Nat := fld b.toNat 2 21
def bdLen (b : Word) : Nat := fld b.toNat 23 21

/-- A binding's first byte as an offset of its core's window (R259). -/
def bdOff (b : Word) : Nat := if bdSpace b = 2 then 0x200000 + bdBase b else bdBase b

/-- A range of a core's storage, by window offset. -/
structure Range where
  off : Nat
  len : Nat
  write : Bool
  deriving DecidableEq, Repr

/-- The range of a captured operand; none without storage. -/
def opRange (o : Opnd) (w : Bool) : List Range := if bdSpace o.bd = 0 then [] else [⟨bdOff o.bd, bdLen o.bd, w⟩]

/-- Two ranges share a byte. -/
def meets (a : Nat) (n : Nat) (r : Range) : Bool := decide (a < r.off + r.len) && decide (r.off < a + n)

/-- Operand j of a matrix command. -/
def mOp (c : MCmd) (j : Nat) : Opnd := c.ops.getD j ⟨0, 0⟩

/-- What a matrix command marks busy (R197); what an MRESUME restores is marked beside (`busyRanges`). -/
def mRanges (c : MCmd) : List Range :=
  match fld c.word 26 6 with
  | 1 | 2 | 8 => opRange (mOp c 1) false
  | 3 => opRange (mOp c 0) true ++ opRange (mOp c 1) false ++ (if fld c.word 2 1 = 1 then opRange (mOp c 3) false else [])
  | 4 | 7 => opRange (mOp c 0) true
  | 5 | 6 => opRange (mOp c 0) true ++ opRange (mOp c 1) false
  | _ => []

/-- What a K command marks busy: tiles it fills are write-busy, tiles and index tiles it reads are read-busy, until
the last of their bytes (R50, R288). -/
def kRanges (c : KCmd) : List Range :=
  if c.done then []
  else match fld c.word 26 6 with
  | 0x01 | 0x08 => opRange c.tile true
  | 0x02 | 0x07 | 0x0E => opRange c.tile false
  | 0x03 | 0x04 => opRange c.tile true ++ opRange c.idx false
  | 0x05 => opRange c.tile false ++ opRange c.idx false
  | 0x20 | 0x21 | 0x24 => opRange c.tile false
  | 0x22 => opRange c.tile true
  | _ => []

/-- Whether the cue of a serial number is on a core: it has started there and neither ended nor been saved by a curtain (R109, R320). -/
def runsCue (c : Core) (serial : Nat) : Bool := c.status != .idle && c.ctx.serial == serial

/-- The busy range of a dispatched PIT.ATTN, which stays marked until its result arrives (R288). -/
def attnRanges (s : State) (core : Nat) : List Range :=
  s.pits.foldl (fun acc e => acc ++ ((e.2.queue.filter fun c =>
    decide (c.op = 0x22) && decide (c.core = core) && runsCue (coreOf s core) c.serial && c.marked).map
      fun c => ⟨c.tileOff, c.tileLen, true⟩)) []

/-- The ranges of the commands that an MRESUME is about to restore (R197, R212). -/
def backRanges (x : Ctxt) : List Range := x.mback.elim [] fun b => b.cmds.flatMap mRanges

/-- Every busy range of a core's running context. -/
def busyRanges (s : State) (core : Nat) : List Range :=
  let x := (coreOf s core).ctx
  x.mq.flatMap mRanges ++ backRanges x ++ x.kq0.flatMap kRanges ++ x.kq1.flatMap kRanges ++ attnRanges s core

/-- An access that stalls: any byte within a write-busy range, or a write within a read-busy one (R51). -/
def conflicts (rs : List Range) (off n : Nat) (write : Bool) : Bool := rs.any fun r => meets off n r && (r.write || write)

/-! ### The physical map (R15, R258, R259, R360, R402) -/

def hbmEnd : Nat := 0xC000000000
def windowBase : Nat := 0xF000000000
def controlBase : Nat := 0xF080000000
def loftBase : Nat := 0x10000000000
def loftEnd : Nat := 0x20000000000

def isHbm (pa : Nat) : Bool := decide (pa < hbmEnd)
def isLoft (pa : Nat) : Bool := decide (loftBase ≤ pa) && decide (pa < loftEnd)
/-- The HBM or loft of another module of the domain: module m's address a stands at 2^41 * (m + 1) + a (R377). -/
def isPeer (pa : Nat) : Bool := decide (loftEnd ≤ pa)
def isStore (pa : Nat) : Bool := isHbm pa || isLoft pa || isPeer pa
def isWindow (pa : Nat) : Bool := decide (windowBase ≤ pa) && decide (pa < controlBase)
def isControl (pa : Nat) : Bool := decide (controlBase ≤ pa) && decide (pa < controlBase + 0x2000000)

/-- The core a window address belongs to, and the offset in its window (R8). -/
def windowCore (pa : Nat) : Nat := (pa - windowBase) / 0x400000
def windowOff (pa : Nat) : Nat := (pa - windowBase) % 0x400000
/-- The physical address of a window offset of a core. -/
def windowPa (core off : Nat) : Nat := windowBase + core * 0x400000 + off

/-- The size of the ECC granule at an address: 64 bytes in HBM and the loft, 8 on die (R402). -/
def granule (pa : Nat) : Nat := if isStore pa then 64 else 8

/-- The banks of a core's storage, scratchpad and then accumulator, as window offset and size (R12, R256). -/
def sramBank (n : Nat) : Nat × Nat :=
  if n < 32 then (0x10000 * n, 0x10000) else if n < 288 then (0x200000 + 2048 * (n - 32), 2048) else (0, 0)

/-- Whether n bytes meet a unit that a self-test marked failed: HBM units of 64 KiB, banks of a core (R373, R402). -/
def inFailedUnit (s : State) (pa n : Nat) : Bool := s.house.failed.any fun t =>
  let u := if t.kind / 2 = 1 then (t.idx / 0x10000 * 0x10000, 0x10000)
    else if t.kind / 2 = 0 then (windowBase + t.core * 0x400000 + (sramBank t.idx).1, (sramBank t.idx).2) else (0, 0)
  (isHbm pa || isWindow pa) && decide (u.1 < pa + n) && decide (pa < u.1 + u.2)

/-- Whether a core's matrix array is out of service, or under test (R372, R373). -/
def arrayFailed (s : State) (core : Nat) : Bool := s.house.failed.any fun t => t.kind / 2 == 2 && t.core == core
def arrayTesting (s : State) (core : Nat) : Bool := s.house.tests.any fun t => t.2.kind / 2 == 2 && t.2.core == core

/-- Whether the prompter gives a core no further cue: an SRAM of it is marked failed (R373). -/
def coreRetired (s : State) (core : Nat) : Bool := s.house.failed.any fun t => t.kind / 2 != 1 && t.kind / 2 != 2 && t.core == core

/-- Whether latch l of a core lies in a unit marked failed (R373, R402). -/
def latchFailed (s : State) (core l : Nat) : Bool := s.house.failed.any fun t => t.kind / 2 == 4 && t.core == core && t.idx == l

/-- Whether the SRAM of an engine array of a core holds an uncorrectable error: 0 the matrix array, 1 and 2 the copy engines; one of a copy engine
that is marked failed does on every access (R373, R402). -/
def engineBad (s : State) (core e : Nat) : Bool :=
  (coreOf s core).sramBad.contains e ||
    (e != 0 && s.house.failed.any fun t => t.kind / 2 == 3 && t.core == core && t.idx + 1 == e)

/-- A command begins on an engine array: whether its data fills the granule that holds an error, and so ends the error, is open (R402, logs 3, 97). -/
def sramFill (s : State) (core e : Nat) : State :=
  let c := coreOf s core
  if c.sramBad.contains e && (freeOf s 12).getLsbD 0 then setCoreOf s core { c with sramBad := c.sramBad.filter (· != e) } else s

/-- A core that stopped or halted: its engines finish what they run and run no more (R349, R352). -/
def coreDown (c : Core) : Bool := c.status == .stopped || c.status == .halted

/-- Whether a physical address lies in the window of a core that the configuration record does not enable (R9). -/
def inDisabled (s : State) (pa : Nat) : Bool := isWindow pa && !enabled s (windowCore pa)

/-- Whether n bytes meet a granule that holds an uncorrectable error; a disabled core's window reads as zero without one (R9). -/
def isBad (s : State) (pa n : Nat) : Bool :=
  !inDisabled s pa && (s.bad.any (fun b => decide (b < pa + n) && decide (pa < b + granule b)) || inFailedUnit s pa n)

/-- The physical address of the first uncorrectable error among n bytes. -/
def badAddr (s : State) (pa n : Nat) : Option Nat :=
  if isBad s pa n then some ((s.bad.find? fun b => decide (b < pa + n) && decide (pa < b + granule b)).getD pa) else none

/-- The unit that a physical address lies in and a self-test tests: an HBM row, or a bank of a core (R372). -/
def testUnit (pa : Nat) : Option SelfTest :=
  let off := windowOff pa
  if isHbm pa then some ⟨2, 0, pa / 0x10000 * 0x10000⟩
  else if isWindow pa && decide (off < 0x280000) then
    some ⟨0, windowCore pa, if off < 0x200000 then off / 0x10000 else 32 + (off - 0x200000) / 2048⟩
  else none

/-- A self-test begins: the spare serves every access (R372). -/
def testBegin (s : State) (t : SelfTest) : State :=
  { s with house := { s.house with tests := mput s.house.nextTest t s.house.tests, nextTest := s.house.nextTest + 1 } }

/-- An error met in a unit starts its self-test, unless one runs there or the unit is marked failed; whether a spare is free is open. The test of a
matrix array begins once its queue is empty (R372, R373, logs 3, 97). -/
def unitMet (s : State) (u : SelfTest) : State :=
  let same (t : SelfTest) : Bool := t.kind / 2 == u.kind / 2 && t.core == u.core && t.idx == u.idx
  if (s.house.tests.map Prod.snd ++ s.house.failed ++ s.house.due).any same then s
  else
    let t : SelfTest := { u with kind := u.kind + (freeOf s 9).toNat % 2 }
    if u.kind / 2 = 2 then { s with house := { s.house with due := s.house.due ++ [t] } } else testBegin s t

/-- An error met at a physical address (R372). -/
def errorMet (s : State) (pa : Nat) : State :=
  match testUnit pa with
  | none => s
  | some u => if isBad s pa 1 then unitMet s u else s

/-- The errors among physical pieces that were read (R372). -/
def piecesMet (s : State) (ps : List (Nat × Nat)) : State :=
  (s.bad.filter fun b => ps.any fun p => decide (b < p.1 + p.2) && decide (p.1 < b + granule b)).foldl errorMet s

/-- A write of n bytes clears the errors of the granules it covers whole (R402). -/
def heal (s : State) (pa n : Nat) : State :=
  { s with bad := s.bad.filter fun b => !(decide (pa ≤ b) && decide (b + granule b ≤ pa + n)) }

/-- A view word of a dimension variable (R141). -/
def dimWord (d : Dim) : Nat :=
  d.limit * 2 ^ 16 + (match d.val with | some v => 2 ^ 15 + v | none => 0)

/-- A node record (R242). -/
def nodeWord (n : Node) : Nat := n.token + n.pos * 2 ^ 32 + n.depth * 2 ^ 56 + n.parent * 2 ^ 64 + 2 ^ 72

/-- The cycles that the masks of a tree take (R250, R254, R255). -/
def treeCycles (t : Tree) : Nat := (t.nodes.length + 31) / 32

/-- A mark as the view shows it (R326). -/
def markWord (m : Mark) : Nat :=
  min m.arrived 4095 + (if m.bound then 2 ^ 12 else 0) + m.gen % 8 * 2 ^ 13

/-- One byte of a core's window as another agent reads it (R140, R168, R220, R244, R259, R326). -/
def windowByte (c : Core) (off : Nat) : Byte :=
  let nth (w : Nat) (i : Nat) : Byte := BitVec.ofNat 8 (w / 2 ^ (8 * i))
  if off < 0x200000 then memGet c.spad off
  else if off < 0x280000 then
    let o := off - 0x200000
    if bankTaken c (o / 2048) then rowByte (rowOf c (o / 512)) (o % 512) else 0
  else if off < 0x280400 then
    let t := tileOf c.ctx ((off - 0x280000) / 32)
    nth (t.tw.toNat + t.bd.toNat * 2 ^ 128) (off % 32)
  else if off < 0x280480 then nth (dimWord (dimOf c.ctx ((off - 0x280400) / 8))) (off % 8)
  else if off < 0x282000 then 0
  else if off < 0x283000 then nth (markWord (markOf c ((off - 0x282000) / 2))) (off % 2)
  else if off < 0x284000 then
    match c.ctx.tree.nodes[(off - 0x283000) / 16]? with
    | some n => nth (nodeWord n) (off % 16)
    | none => 0
  else if off < 0x284400 then nth (mget 0 ((off - 0x284000) / 4) c.ctx.pgMem) (off % 4)
  else 0

/-- One byte of the physical map; outside it, and in a disabled core's window, zero (R9, R360). -/
def physByte (s : State) (pa : Nat) : Byte :=
  if isStore pa then memGet s.mem pa
  else if isWindow pa then (if enabled s (windowCore pa) then windowByte (coreOf s (windowCore pa)) (windowOff pa) else 0)
  else 0

/-- n bytes of the physical map. -/
def physRead (s : State) (pa : Nat) : Nat → List Byte
  | 0 => []
  | n + 1 => physByte s pa :: physRead s (pa + 1) n

/-- n bytes of the physical map as a number. -/
def physNat (s : State) (pa n : Nat) : Nat := bytesNat (physRead s pa n)

/-- n bytes from an address share a byte with m bytes from another. -/
def overlaps (a n b m : Nat) : Bool := decide (a < b + m) && decide (b < a + n)

/-- A read that finds nothing is logged: in a disabled core's window (R9), or of the control range where no register answers it (R360, R375). -/
def noteRead (s : State) (pa : Nat) : State :=
  if inDisabled s pa then logErr s .disabledCore (windowCore pa) (windowOff pa) 1
  else if isControl pa then logErr s .unmapped pa 0 1 else s

/-- The same of physical pieces. -/
def notePieces (s : State) (ps : List (Nat × Nat)) : State := ps.foldl (fun st p => noteRead st p.1) s

/-- What a read leaves beside its bytes: the error log's entries, and the self-tests of units whose errors it met (R9, R372). -/
def noteMet (s : State) (ps : List (Nat × Nat)) : State := piecesMet (notePieces s ps) ps

/-- The pieces of a read for which it leaves something. -/
def notable (s : State) (ps : List (Nat × Nat)) : List (Nat × Nat) :=
  ps.filter fun p => inDisabled s p.1 || isControl p.1 || isBad s p.1 p.2

/-! ### Accesses in flight, and what a die sees of them (R332, R340) -/

/-- The scope at which an access counts as performed once it performs at a scope code: 1 core, 2 die, 3 the module and wider, which one module
cannot tell apart (R332, log 73). -/
def scopeLevel (sc : Nat) : Nat := min (sc + 1) 3

/-- Accesses that act on memory. -/
def memoryAccess (a : Access) : Bool := match a.kind with | .reply | .audition _ => false | _ => true

/-- Accesses that write. -/
def writesMemory (a : Access) : Bool := match a.kind with | .store | .amo _ | .block | .posted _ => true | _ => false

/-- A copy engine's write. -/
def postedAccess (a : Access) : Bool := match a.kind with | .posted _ => true | _ => false

/-- The new value of an atomic operation on an n-byte word (R99). -/
def amoNew (fn n old x swap : Nat) : Nat :=
  let m := 2 ^ (8 * n)
  let lt := decide (sextNat (8 * n) old < sextNat (8 * n) x)
  match fn with
  | 0 => (old + x) % m
  | 1 => x % m
  | 2 => if old % m = x % m then swap % m else old
  | 3 => if lt then old else x % m
  | 4 => if lt then x % m else old
  | 5 => (old &&& x) % m
  | _ => (old ||| x) % m

/-- Spans of n bytes from an address whose bits in `hole` are clear. -/
def holeRuns (hole pa : Nat) : Nat → List (Nat × Nat)
  | 0 => []
  | n + 1 => if hole % 2 = 1 then holeRuns (hole / 2) (pa + 1) n
    else match holeRuns (hole / 2) (pa + 1) n with
      | (p, k) :: r => if p = pa + 1 then (pa, k + 1) :: r else (pa, 1) :: (p, k) :: r
      | [] => [(pa, 1)]

/-- The physical spans of an access. -/
def Access.parts (a : Access) : List (Nat × Nat) := if a.hole = 0 then [(a.pa, a.size)] else holeRuns a.hole a.pa a.size

/-- An access shares a byte with n bytes from an address. -/
def Access.meets (a : Access) (pa n : Nat) : Bool := a.parts.any fun p => overlaps p.1 p.2 pa n

/-- Two accesses share a byte. -/
def Access.clash (a b : Access) : Bool := b.parts.any fun p => a.meets p.1 p.2

/-- The bytes that a write leaves. -/
def accessBytes (a : Access) : List Byte := natBytes a.size a.data

/-- The writes of a die's cores that have performed at die scope and not yet for all, those that a disabled core's window discards apart (R9). -/
def dieWrites (s : State) (die : Nat) : List Access := s.cores.flatMap fun e =>
  if dieOfCore e.1 = die then e.2.pend.filter fun a => decide (2 ≤ a.upto) && writesMemory a && !inDisabled s a.pa else []

/-- Atomic operations, whose one moment for every agent is the one at which they read and write (R99). -/
def amoAccess (a : Access) : Bool := match a.kind with | .amo _ => true | _ => false

/-- n bytes of the physical map as the agents of a die see them: its prompter, its walkers, its window-record cache (R332, R358, R263). An atomic
operation shows no result before it has read its word (R99, log 11). -/
def dieRead (s : State) (die pa n : Nat) : List Byte :=
  let ws := (dieWrites s die).filter fun a => !amoAccess a
  if ws.isEmpty then physRead s pa n
  else (List.range n).map fun i =>
    match ws.reverse.find? fun a => a.meets (pa + i) 1 with
    | some a => (accessBytes a).getD (pa + i - a.pa) 0
    | none => physByte s (pa + i)

/-- Whether bytes are those of an atomic operation that has performed at die scope and not yet for all. -/
def dieAmo (s : State) (die pa n : Nat) : Bool := (dieWrites s die).any fun a => amoAccess a && a.meets pa n

/-- Bytes of physical pieces as a die sees them. -/
def diePieces (s : State) (die : Nat) (ps : List (Nat × Nat)) : List Byte := ps.flatMap fun p => dieRead s die p.1 p.2

/-- Whether bytes are among those that a die's cores have written at die scope and not yet for all. -/
def dieHeld (s : State) (die : Nat) (ps : List (Nat × Nat)) : Bool :=
  (dieWrites s die).any fun a => ps.any fun p => a.meets p.1 p.2

/-- An instruction leaf among n written bytes that no longer holds its admitted value leaves the admission table, and with it the list of waived
ones (R79, R84, R359). -/
def withdrawn (s : State) (pa n : Nat) : State :=
  let keep (a leaf : Nat) : Bool := !overlaps a 8 pa n || physNat s a 8 == leaf
  { s with house := { s.house with
    admission := s.house.admission.filter fun t => keep t.leafAddr t.leaf
    waived := s.house.waived.filter fun e => keep e.1 e.2 } }

/-- Words among n written bytes are no longer those that a release wrote (R337). -/
def unreleased (s : State) (pa n : Nat) : State := { s with rels := s.rels.filter fun r => !overlaps r.pa r.size pa n }

/-- A release at a scope level has written n bytes (R337). -/
def released (s : State) (pa n core level : Nat) : State := { s with rels := s.rels ++ [⟨pa, n, core, level⟩] }

/-- The scope level of the acquire that a read of n bytes by a core is: that of the release which wrote them, where both cores lie in an instance of
its scope, else core (R337, R338). -/
def acquireLevel (s : State) (core pa n : Nat) : Nat :=
  match s.rels.find? fun r => overlaps r.pa r.size pa n with
  | some r => if r.core = core ∨ 3 ≤ r.level ∨ (r.level = 2 ∧ dieOfCore r.core = dieOfCore core) then r.level else 1
  | none => 1

/-- What a write of n bytes does beside its bytes: errors of the granules it covers whole are cleared (R402), changed leaves are no longer
admitted, and an earlier release's word is no more. -/
def written (s : State) (pa n : Nat) : State := unreleased (withdrawn (heal s pa n) pa n) pa n

/-- Accumulator bytes written, row by row, tags unchanged (R171). -/
def accBytes (c : Core) (o : Nat) : Nat → List Byte → Core
  | 0, _ => c
  | fuel + 1, bs =>
    if bs.isEmpty then c
    else
      let k := min bs.length (512 - o % 512)
      let r := o / 512
      let c' := { c with rows := mput r (rowPatch (rowOf c r) (o % 512) (bs.take k)) c.rows }
      accBytes c' (o + k) fuel (bs.drop k)

/-- Bytes of the core's own storage at a window offset replaced: scratchpad or accumulator. -/
def coreBytes (s : State) (core off : Nat) (bs : List Byte) : State :=
  let c := coreOf s core
  setCoreOf s core
    (if off < 0x200000 then { c with spad := memBlock c.spad off bs } else accBytes c (off - 0x200000) (bs.length + 1) bs)

/-- The core's own storage written at a window offset. -/
def coreStore (s : State) (core off : Nat) (bs : List Byte) : State :=
  written (coreBytes s core off bs) (windowPa core off) bs.length

/-- The same where only the bytes at the places of `hit` are written: a granule heals when every byte of it is among them (R402). -/
def coreStoreAt (s : State) (core off : Nat) (bs : List Byte) (hit : Nat → Bool) : State :=
  let s' := coreBytes s core off bs
  let whole (b : Nat) : Bool := decide (windowPa core off ≤ b) && decide (b + granule b ≤ windowPa core off + bs.length) &&
    (List.range (granule b)).all fun k => hit (b + k - windowPa core off)
  unreleased (withdrawn { s' with bad := s'.bad.filter fun b => !whole b } (windowPa core off) bs.length) (windowPa core off) bs.length

/-- The core's own storage read at a window offset, whoever holds the banks. -/
def coreLoad (s : State) (core off : Nat) : Nat → List Byte
  | 0 => []
  | n + 1 =>
    let c := coreOf s core
    (if off < 0x200000 then memGet c.spad off else rowByte (rowOf c ((off - 0x200000) / 512)) (off % 512)) :: coreLoad s core (off + 1) n

/-- The units in which a core's own commands read storage that an outside agent writes: 64 bytes of the scratchpad, 8 of accumulator rows (R173,
R258). -/
def readUnits (off n : Nat) : List (Nat × Nat) :=
  let u := if off < 0x200000 then 64 else 8
  (List.range ((off % u + n + u - 1) / u)).map fun k => (off / u * u + u * k, u)

/-- A command's units as they stood, with those that it reads of a write about to be made from outside (R258). -/
def oldUnits (s : State) (core : Nat) (rs : List Range) (old : List (Nat × List Byte)) (us : List (Nat × Nat)) : List (Nat × List Byte) :=
  old ++ (us.filter fun u => rs.any (fun r => !r.write && meets u.1 u.2 r) && !old.any (·.1 == u.1)).map fun u => (u.1, coreLoad s core u.1 u.2)

/-- An outside write to n bytes of a core's storage is about to perform: the commands that run on what they read of it keep its units as they
stand, so that each unit is read whole as before the write or whole as after it (R258). -/
def keepOld (s : State) (core off n : Nat) : State :=
  let c := coreOf s core
  let us := readUnits off n
  let hit (rs : List Range) : Bool := rs.any fun r => !r.write && meets off n r
  let m (k : MCmd) : MCmd := if k.started then { k with old := oldUnits s core (mRanges k) k.old us } else k
  let q (k : KCmd) : KCmd := if k.started then { k with old := oldUnits s core (kRanges k) k.old us } else k
  if c.ctx.mq.any (fun k => k.started && hit (mRanges k)) || (c.ctx.kq0 ++ c.ctx.kq1).any (fun k => k.started && hit (kRanges k)) then
    setCoreOf s core { c with ctx := { c.ctx with mq := c.ctx.mq.map m, kq0 := c.ctx.kq0.map q, kq1 := c.ctx.kq1.map q } }
  else s

/-- A core's own storage written from outside. -/
def outsideStore (s : State) (core off : Nat) (bs : List Byte) : State := coreStore (keepOld s core off bs.length) core off bs

/-- The storage of a core as a command reads it that keeps units as they stood (R258). -/
def asRead (s : State) (core : Nat) (old : List (Nat × List Byte)) : State := old.foldl (fun st u => coreBytes st core u.1 u.2) s

/-- The parts of a window write that fare alike: aligned 64-byte units of the scratchpad (R258), accumulator banks and what lies above by
2 KiB (R168, R259). -/
def windowParts (off n : Nat) : Nat → List (Nat × Nat)
  | 0 => []
  | fuel + 1 =>
    if n = 0 then []
    else
      let u := if off < 0x200000 then 64 else 2048
      let k := min n (u - off % u)
      (off, k) :: windowParts (off + k) (n - k) fuel

/-- Whether bytes of a core's scratchpad are write-busy, or a write that an outside agent made earlier still waits for them (R258). -/
def scratchHeld (s : State) (core off n : Nat) : Bool :=
  (busyRanges s core).any (fun r => r.write && meets off n r) || (coreOf s core).remote.any fun h => overlaps h.off h.data.length off n

/-- One part of a write that reaches a core's window from outside: it waits for a write-busy scratchpad range and behind an earlier write that
waits, performs on scratchpad and held banks, and is discarded and logged elsewhere (R168, R258, R259). -/
def windowPart (s : State) (core off : Nat) (bs : List Byte) (pit host : Option Nat) : State :=
  if off < 0x200000 then
    if scratchHeld s core off bs.length then setCoreOf s core { coreOf s core with remote := (coreOf s core).remote ++ [⟨off, bs, pit, host⟩] }
    else outsideStore s core off bs
  else if off < 0x280000 then
    if bankTaken (coreOf s core) ((off - 0x200000) / 2048) then outsideStore s core off bs else logErr s .freeBank core off 0
  else logErr s .discardedWrite core off 0

/-- A write that reaches a core's window from outside, part by part; a disabled core's is discarded and logged (R9, R258, R259). -/
def windowWrite (s : State) (core off : Nat) (bs : List Byte) (pit : Option Nat := none) (host : Option Nat := none) : State :=
  if !enabled s core then logErr s .disabledCore core off 0
  else (windowParts off bs.length (bs.length + 1)).foldl (fun st p => windowPart st core p.1 ((bs.drop (p.1 - off)).take p.2) pit host) s

/-- A write through the physical map, control registers apart (R15, R360). -/
def physWrite (s : State) (pa : Nat) (bs : List Byte) : State :=
  if isStore pa then written { s with mem := memBlock s.mem pa bs } pa bs.length
  else if isWindow pa then windowWrite s (windowCore pa) (windowOff pa) bs
  else logErr s .unmapped pa 0 0

/-! ### Translation (R354-R359, R377) -/

/-- Index of a level in a virtual address, and the page size of a leaf there (R354). -/
def levelIndex (va lvl : Nat) : Nat := fld va (43 - 10 * lvl) 10
def levelSize (lvl : Nat) : Nat := 2 ^ (43 - 10 * lvl)

/-- The address bits of an entry (R355). -/
def entryPa (e : Nat) : Nat := fld e 13 28 * 2 ^ 13

/-- A malformed entry (R355). -/
def malformed (inst : Bool) (lvl e : Nat) : Bool :=
  let leaf := fld e 1 1 == 1
  fld e 41 23 != 0 || fld e 6 7 != 0 || fld e 4 1 != 0 ||
  (leaf && lvl == 0) || (!inst && !leaf && lvl == 3) || (inst && lvl == 3) ||
  (inst && (fld e 2 1 == 1 || fld e 3 1 == 1)) ||
  (!leaf && (fld e 2 1 == 1 || fld e 3 1 == 1 || fld e 5 1 == 1)) ||
  (leaf && lvl == 2 && fld e 13 10 != 0) || (leaf && lvl == 1 && fld e 13 20 != 0) ||
  (leaf && !(leafInside (entryPa e) (levelSize lvl) || (isControl (entryPa e) && !inst && lvl == 3 && fld e 5 1 == 1)))
where
  /-- A page lies whole in HBM, in the loft or in the core windows. -/
  leafInside (pa n : Nat) : Bool :=
    (isHbm pa && decide (pa + n ≤ hbmEnd)) || (isLoft pa && decide (pa + n ≤ loftEnd)) || (isWindow pa && decide (pa + n ≤ controlBase))

/-- A walk from a table, one entry per level, by a die's walker, which sees what has performed at die scope (R354, R358): the leaf, its level and its
address, or reason 1. -/
def walk (s : State) (die : Nat) (inst : Bool) (va : Nat) : Nat → Nat → Nat → Except Nat (Nat × Nat × Nat)
  | 0, _, _ => .error 1
  | fuel + 1, lvl, table =>
    let a := table + 8 * levelIndex va lvl
    let e := bytesNat (dieRead s die a 8)
    if e % 2 = 0 || malformed inst lvl e then .error 1
    else if fld e 1 1 = 1 then .ok (e, lvl, a)
    else walk s die inst va fuel (lvl + 1) (entryPa e)

/-- The entries that a walk reads, up to its leaf or its failure (R354). -/
def walkReads (s : State) (die : Nat) (inst : Bool) (va : Nat) : Nat → Nat → Nat → List (Nat × Nat)
  | 0, _, _ => []
  | fuel + 1, lvl, table =>
    let a := table + 8 * levelIndex va lvl
    let e := bytesNat (dieRead s die a 8)
    if e % 2 = 0 || malformed inst lvl e || fld e 1 1 == 1 then [(a, 8)] else (a, 8) :: walkReads s die inst va fuel (lvl + 1) (entryPa e)

/-- The root address of an IROOT or DROOT value (R356). -/
def rootPa (r : Word) : Nat := fld r.toNat 13 28 * 2 ^ 13

/-- The leaf for an address under a root that the core's TLB or its die's holds (R358). -/
def cachedLeaf (s : State) (core : Nat) (inst : Bool) (root va : Nat) : Option TlbEnt :=
  let d := dieOf s (dieOfCore core)
  let c := coreOf s core
  let pick (l : List TlbEnt) := l.find? fun t => decide (t.root = root) && decide (t.vbase ≤ va) && decide (va < t.vbase + t.size)
  (pick (if inst then c.itlb else c.dtlb)).or (pick (if inst then d.itlb else d.dtlb))

/-- The leaf for an address that a walk from a root finds, and whether its page is waived by then (R84, R354). -/
def walkedLeaf (s : State) (die : Nat) (inst : Bool) (root va : Nat) : Except Nat TlbEnt := do
  let w ← walk s die inst va 4 0 root
  let sz := levelSize w.2.1
  pure ⟨root, va / sz * sz, sz, w.1, w.2.2, inst && s.house.waived.contains (w.2.2, w.1)⟩

/-- A cached or walked leaf for an address under a root (R358). -/
def findLeaf (s : State) (core : Nat) (inst : Bool) (root va : Nat) : Except Nat TlbEnt :=
  match cachedLeaf s core inst root va with
  | some t => .ok t
  | none => walkedLeaf s (dieOfCore core) inst root va

/-- The entries of a walk, made where no TLB holds the leaf, that leave something beside their bytes (R9, R358, R372). -/
def walkNotes (s : State) (core : Nat) (inst : Bool) (root va : Nat) : List (Nat × Nat) :=
  if 2 ^ 53 ≤ va || (cachedLeaf s core inst root va).isSome || (!inst && fld va 48 5 == 31) then []
  else notable s (walkReads s (dieOfCore core) inst va 4 0 root)

/-- A walk, which may fail: errors among its entries start self-tests, and the error log takes what found nothing (R9, R372). -/
def walkMet (s : State) (core : Nat) (inst : Bool) (root va : Nat) : State := noteMet s (walkNotes s core inst root va)

/-- Whether the admission table holds a leaf's address with its value (R359). -/
def admitted (s : State) (t : TlbEnt) : Bool := s.house.admission.any fun e => e.leafAddr == t.leafAddr && e.leaf == t.leaf

/-- The domain slice (R377): module and address, without a walk. -/
def slicePa (s : State) (va : Nat) : Except Nat Nat :=
  let m := fld va 43 5
  let pa := fld va 0 41
  let own := s.house.modid.toNat % 32
  if fld va 41 2 ≠ 0 then .error 1
  else if m ≠ own && !s.house.dommask.getLsbD m then .error 1
  else if !(isHbm pa || isLoft pa) then .error 1
  else .ok (if m = own then pa else pa + 2 ^ 41 * (m + 1))

/-- A data address translated under a root and mode for reading or writing: the physical address and what the TLBs learn (R354-R357). -/
def xlate (s : State) (core : Nat) (mode : Mode) (root va : Nat) (rd wr : Bool) : Except Nat (Nat × List TlbEnt) :=
  if 2 ^ 53 ≤ va then .error 1
  else if fld va 48 5 = 31 then (slicePa s va).map fun pa => (pa, [])
  else do
    let t ← findLeaf s core false root va
    if (rd && fld t.leaf 2 1 == 0) || (wr && fld t.leaf 3 1 == 0) || (fld t.leaf 5 1 == 1 && mode == .cue) then .error 2
    else .ok (entryPa t.leaf + (va - t.vbase), [t])

/-- An instruction address translated: a leaf that a walk finds must stand in the admission table with its value, and a cached one stood there
when it was walked (R79, R359, log 87). -/
def xlateInst (s : State) (core : Nat) (mode : Mode) (root va : Nat) : Except Nat (Nat × TlbEnt) :=
  if 2 ^ 53 ≤ va then .error 1
  else do
    let t ← findLeaf s core true root va
    if fld t.leaf 5 1 == 1 && mode == .cue then .error 2
    else if (cachedLeaf s core true root va).isNone && !admitted s t then .error 4
    else .ok (entryPa t.leaf + (va - t.vbase), t)

/-- FAULTINFO of a precise translation fault (R357). -/
def xlInfo (va reason : Nat) : Word := BitVec.ofNat 64 (va / 8192 * 8192 + reason)

/-- The pages a span of bytes lies in: (address, length) pieces that cross no 8 KiB boundary. -/
def pieces (va n : Nat) : Nat → List (Nat × Nat)
  | 0 => []
  | fuel + 1 =>
    if n = 0 then []
    else
      let k := min n (8192 - va % 8192)
      (va, k) :: pieces (va + k) (n - k) fuel

/-- A span translated piece by piece: physical pieces, or the first failing address and its reason. -/
def xlatePieces (s : State) (core : Nat) (mode : Mode) (root : Nat) (rd wr : Bool) : List (Nat × Nat) →
    Except (Nat × Nat) (List (Nat × Nat))
  | [] => .ok []
  | p :: ps => match xlate s core mode root p.1 rd wr with
    | .error r => .error (p.1, r)
    | .ok q => (xlatePieces s core mode root rd wr ps).map fun rest => (q.1, p.2) :: rest

/-- A whole span translated. -/
def xlateSpan (s : State) (core : Nat) (mode : Mode) (root va n : Nat) (rd wr : Bool) : Except (Nat × Nat) (List (Nat × Nat)) :=
  xlatePieces s core mode root rd wr (pieces va n (n / 8192 + 2))

/-- What the walks of a span's pages leave, up to the first page that does not translate. -/
def spanNotes (s : State) (core : Nat) (mode : Mode) (root : Nat) (rd wr : Bool) : List (Nat × Nat) → List (Nat × Nat)
  | [] => []
  | p :: ps => walkNotes s core false root p.1 ++ (match xlate s core mode root p.1 rd wr with
    | .ok _ => spanNotes s core mode root rd wr ps
    | .error _ => [])

/-- Bytes of physical pieces. -/
def readPieces (s : State) (ps : List (Nat × Nat)) : List Byte := ps.flatMap fun p => physRead s p.1 p.2

/-- Bytes written over physical pieces. -/
def writePieces (s : State) : List (Nat × Nat) → List Byte → State
  | [], _ => s
  | p :: ps, bs => writePieces (physWrite s p.1 (bs.take p.2)) ps (bs.drop p.2)

/-! ### Stops -/

/-- A fault with its FAULTINFO. -/
def stopFault {α : Type} (code info : Nat) : Except Stop α := .error (.fault ⟨code, BitVec.ofNat 64 info, none⟩)

/-- DATAERR for an error that the slot meets at a physical address (R150, R402). -/
def stopError {α : Type} (info pa : Nat) : Except Stop α := .error (.held ⟨14, BitVec.ofNat 64 info, none⟩ (.met [(pa, 1)]))

/-- A fault whose FAULTINFO is the slot (R58, R346). -/
def stopSlot {α : Type} (s : State) (code : Nat) : Except Stop α := stopFault code s.issue.slot

/-- A stall. -/
def stopStall {α : Type} (w : StallWhy) : Except Stop α := .error (.stall w)

/-- ILLEGAL unless a condition holds (R57). -/
def needLegal (s : State) (b : Bool) : Except Stop Unit := if b then .ok () else stopSlot s 1

/-- PRIV in cue code (R70). -/
def needStageManager (s : State) : Except Stop Unit := if (ctx s).mode = .stageManager then .ok () else stopSlot s 2

/-- ALIGN unless an address is a multiple of n. -/
def needAligned (s : State) (va n : Nat) : Except Stop Unit := if va % n = 0 then .ok () else stopSlot s 3

/-- A data address checked as for LDG before it is translated (R98, R150): DATAXL above the address space, then ALIGN. -/
def needData (s : State) (va n : Nat) : Except Stop Unit := if 2 ^ 53 ≤ va then stopFault 5 (xlInfo va 1).toNat else needAligned s va n

/-- The effects of a slot enter the bundle in issue, or its stop does. -/
def settle (s : State) (r : Except Stop (List Eff)) : State :=
  match r with
  | .ok es => { s with issue := { s.issue with effs := s.issue.effs ++ es.map fun e => (s.issue.slot, e) } }
  | .error st => { s with issue := { s.issue with stops := s.issue.stops ++ [(s.issue.slot, st)] } }

/-- The outcome of a slot's meaning: always a next state, in which the bundle in issue has taken note. -/
def perform (s : State) (r : Except Stop (List Eff)) : Host.Outcome State Fault Refusal := .next (settle s r)

/-! ### Traps (R345-R351) -/

/-- A held error that has been raised is no longer held; a failed copy command leaves its engine (R98, R198, R268). -/
def dropHeld (x : Ctxt) : Held → Ctxt
  | .reg n => { x with regErrs := x.regErrs.filter fun e => e.dst != n }
  | .mat e => { x with matErrs := x.matErrs.erase e }
  | .eng n => if n = 0 then { x with kq0 := x.kq0.drop 1 } else { x with kq1 := x.kq1.drop 1 }
  | .met _ | .noReply => x
  | .note => { x with pitTraps := x.pitTraps.eraseP (·.own) }

/-- A group switch: every bypass and hold latch becomes invalid (R41). -/
def groupSwitch (x : Ctxt) : Ctxt := { x with bypass := [], fresh := 0, holds := [] }

/-- A group switch at a boundary whose results have entered already: they enter after the invalidation and stay valid (R41). -/
def lateSwitch (x : Ctxt) : Ctxt := { x with bypass := x.bypass.take x.fresh, holds := [] }

/-- Trap entry on a core (R348), or its double fault (R349): `f` is the bundle F, `t` the cause with its detail. The entries of the trap capture are
written whole, which ends an error in them (R362, R402). -/
def takeTrap (s : State) (core : Nat) (f : Word) (t : Trap) : State :=
  let c := coreOf s core
  let x := c.ctx
  if live x || c.tvec = 0#64 || c.tvec.toNat % 32 ≠ 0 then
    logErr4 (setCoreOf s core { c with status := .stopped }) .doubleFault core t.code x.cause.toNat x.faultpc.toNat
  else
    let psm : Word := if x.mode = .stageManager then BitVec.ofNat 64 (2 ^ 63) else 0
    let x' : Ctxt := { x with
      trapCap := x.inflight
      inflight := []
      trapDelay := x.delay
      trapShadow := x.shadow
      trapWait := x.wait
      delay := none
      shadow := 0
      wait := none
      cause := psm ||| BitVec.ofNat 64 (2 ^ 62) ||| BitVec.ofNat 64 t.code
      faultpc := f
      faultpcSet := false
      faultinfo := t.info
      shapeinfo := t.shape.getD x.shapeinfo
      mode := .stageManager
      pc := c.tvec }
    setCoreOf s core { c with ctx := lateSwitch x', snapBad := c.snapBad.filter (x.inflight.length ≤ ·) }

/-- Return from a trap (R351): the mode is PSM's, LIVE clears, the delay state and the mark wait come back unless FAULTPC was written,
and the trap capture is replayed. -/
def trapReturn (x : Ctxt) : Ctxt :=
  let x' : Ctxt := { x with
    mode := if x.cause.getLsbD 63 then .stageManager else .cue
    cause := x.cause &&& ~~~(BitVec.ofNat 64 (2 ^ 62))
    pc := x.faultpc
    delay := if x.faultpcSet then none else x.trapDelay
    shadow := if x.faultpcSet then 0 else x.trapShadow
    wait := x.trapWait
    trapDelay := none
    trapShadow := 0
    trapWait := none
    inflight := x.trapCap
    trapCap := []
    draining := none }
  lateSwitch x'

end Sys2Proof.Machine
end

