-- ==== Sys2Proof/Machine/Operands.lean ====
section
/-! DEFINITION. Reading and writing operands from a slot: scalars, predicates and masks under the scoreboard (R54, R56), memory at issue
(R150), vector sources and destinations with their tags (R33-R42, R168-R176). -/

namespace Sys2Proof.Machine

/-! ### Scoreboard and rehearsal -/

/-- Whether scalar register n is write-busy (R54). -/
def busyReg (c : Core) (n : Nat) : Bool := n != 0 && c.pend.any fun a => a.dst == n && a.home.isNone

/-- Whether any scalar register is write-busy (R351). -/
def anyBusyReg (c : Core) : Bool := c.pend.any fun a => a.dst != 0 && a.home.isNone

/-- In rehearsal mode, whether a result still to land writes the location: also one that was in flight when rehearsal was turned on, and until
the last of several has landed (R56, which says neither; log 85). -/
def pendingOn (x : Ctxt) (f : Upd → Bool) : Bool :=
  x.rehearse && x.inflight.any fun fl => match fl.upd with | some u => f u | none => false

/-- The results that write a scalar register, a predicate, a lane mask, an accumulator row; a discarded write to s0 or p0 sets no pending
bit (R87, log 83). -/
def landsSreg (n : Nat) : Upd → Bool | .sreg k _ => k == n && n != 0 | _ => false
def landsPred (n : Nat) : Upd → Bool | .pred k _ => k == n && n != 0 | _ => false
def landsMask (n : Nat) : Upd → Bool | .kmask k _ _ => k == n | _ => false
def landsRow (n : Nat) : Upd → Bool | .row k _ _ => k == n | _ => false

/-- EARLYREAD: FAULTINFO names the slot and the operand index (R56; their places are the model's, log 10). -/
def noEarly (s : State) (opnd : Nat) (f : Upd → Bool) : Except Stop Unit :=
  if pendingOn (ctx s) f then stopFault 7 (s.issue.slot + 8 * opnd) else .ok ()

/-- A register that a waiting error of a scalar access names (R98). -/
def regErrOf (x : Ctxt) (n : Nat) : Option Nat := (x.regErrs.find? fun e => e.dst == n).map (·.va)

/-- The bundle stalls on a busy register, and a waiting DATAERR of the register is raised (R54, R98). -/
def touchReg (s : State) (n : Nat) : Except Stop Unit :=
  if busyReg (cur s) n then stopStall .scalar
  else match regErrOf (ctx s) n with
    | some va => .error (.held ⟨14, BitVec.ofNat 64 va, none⟩ (.reg n))
    | none => .ok ()

/-- The stall on busy registers alone, for an instruction that waits before it looks for a fault of its own (R54, R58). -/
def freeRegs (s : State) (ns : List Nat) : Except Stop Unit := if ns.any (busyReg (cur s)) then stopStall .scalar else .ok ()

/-- A wait of the bundle until a condition holds, counted as a wait (R55). -/
def waitFor (b : Bool) : Except Stop Unit := if b then .ok () else stopStall .wait

/-- A scalar source, read at issue (R87, R92). -/
def rdS (s : State) (opnd n : Nat) : Except Stop Word := do
  touchReg s n
  noEarly s opnd (landsSreg n)
  pure (sregOf (ctx s) n)

/-- A predicate source. -/
def rdP (s : State) (opnd n : Nat) : Except Stop Bool := do
  noEarly s opnd (landsPred n)
  pure (predOf (ctx s) n)

/-- A lane-mask source. -/
def rdK (s : State) (opnd n : Nat) : Except Stop (BitVec 512 × Nat) := do
  noEarly s opnd (landsMask n)
  pure (kmaskOf (ctx s) n)

/-- A result of latency `lat` for a scalar register. -/
def outS (s : State) (lat d : Nat) (v : Word) (flags : Word) : Except Stop (List Eff) := do
  touchReg s d
  pure [.land lat (some (.sreg d v)) none flags]

/-- The same from an S-slot operation that qualifies for the broadcast of R36. -/
def outBcast (s : State) (d : Nat) (v : Word) : Except Stop (List Eff) := do
  touchReg s d
  pure [.bcast v, .land 1 (some (.sreg d v)) none 0]

/-- A predicate result (R89). -/
def outP (d : Nat) (v : Bool) : List Eff := [.land 1 (some (.pred d v)) none 0]

/-- Sign extension of an n-bit field to a word. -/
def sextW (n v : Nat) : Word := BitVec.ofInt 64 (sextNat n v)

/-! ### Scratchpad and memory at issue -/

/-- A busy storage range stalls the bundle (R51). -/
def noRange (s : State) (off n : Nat) (write : Bool) : Except Stop Unit :=
  if conflicts (busyRanges s s.focus) off n write then stopStall .range else .ok ()

/-- What a parked or failed command at the head of an engine raises (R267, R268), an address in its own module (R377); a failed one is then gone. -/
def heldFault (c : KCmd) (eng pos : Nat) : Option Stop :=
  match c.parked, c.failed with
  | some w, _ => some (.fault ⟨5, w ||| BitVec.ofNat 64 (eng * 2 ^ 11 + pos * 2 ^ 7), none⟩)
  | none, some pa => some (.held ⟨14, BitVec.ofNat 64 (pa % 2 ^ 41), none⟩ (.eng eng))
  | none, none => none

/-- The head of an engine's queue, if it is parked or failed, with the stop it raises. -/
def engineFault (x : Ctxt) (eng : Nat) : Option (KCmd × Stop) :=
  match if eng = 0 then x.kq0 else x.kq1 with
  | [] => none
  | c :: _ => (heldFault c eng 0).map fun t => (c, t)

/-- An acquire that has not performed at its scope: every later access of the core waits for it (R337, R338, R342). -/
def acquirePending (c : Core) : Bool := c.pend.any fun a => a.acq && memoryAccess a && decide (a.upto < scopeLevel a.scope)

/-- A touch of storage: it waits for an acquire still in flight (R338; a cycle of that wait is counted as a busy range's where the range is busy too,
else as a busy scalar register's, for which R55 gives no cause: log 100), a waiting matrix DATAERR or a parked or failed copy command is raised, else
a busy range stalls (R51, R198, R267). -/
def touchRange (s : State) (off n : Nat) (write : Bool) : Except Stop Unit :=
  let x := ctx s
  let hit (e : KCmd × Stop) : Bool := (kRanges e.1).any fun r => meets off n r && (r.write || write)
  if acquirePending (cur s) then stopStall (if conflicts (busyRanges s s.focus) off n write then .range else .scalar)
  else match x.matErrs.find? (fun e => e.ranges.any fun r => meets off n ⟨r.1, r.2.1, r.2.2 == 1⟩) with
  | some e => .error (.held ⟨14, BitVec.ofNat 64 e.pa, none⟩ (.mat e))
  | none =>
    match (engineFault x 0).filter hit, (engineFault x 1).filter hit with
    | some e, _ => .error e.2
    | none, some e => .error e.2
    | none, none => noRange s off n write

/-- Whether 64-bit words of the scratchpad that bytes lie in are still to be written by a landing result (R56). -/
def spadPending (off n : Nat) (u : Upd) : Bool :=
  match u with | .spad o k _ => overlaps (o / 8 * 8) ((o % 8 + k + 7) / 8 * 8) (off / 8 * 8) (off % 8 + n) | _ => false

/-- A read of the core's own storage that meets a granule with an uncorrectable error raises DATAERR, precisely (R402; FAULTINFO and the moment
are the model's, log 28). -/
def soundRead (s : State) (off n : Nat) : Except Stop Unit :=
  if isBad s (windowPa s.focus off) n then stopError (windowPa s.focus off) ((badAddr s (windowPa s.focus off) n).getD 0) else .ok ()

/-- Whether an access of the sequencer in flight shares a physical byte; a copy engine's writes are not ordered against it (R98, R335). -/
def pendMeets (c : Core) (pa n : Nat) : Bool := c.pend.any fun a =>
  (match a.kind with | .reply | .audition _ | .posted _ => false | _ => true) && a.meets pa n

/-- Whether an access that has performed for the agents of this core's die, or of this core, and not yet for all, keeps an access of this core
to its bytes waiting: a write that the core is ordered after, or a load that a write of this core would otherwise go ahead of (R332, R338, R340).
`mine` says which of the core's own accesses count. An atomic operation reads too: what it returns is fixed at that scope, so no later write goes
ahead of it (R99, R332, R338). -/
def scopeHeld (s : State) (core pa n : Nat) (write : Bool) (mine : Access → Bool) : Bool :=
  let hit (a : Access) : Bool := memoryAccess a && a.meets pa n &&
    ((writesMemory a && a.seen.contains core) || (write && (!writesMemory a || amoAccess a)))
  (coreOf s core).pend.any (fun a => decide (1 ≤ a.upto) && mine a && hit a) ||
  s.cores.any fun e => e.1 != core && dieOfCore e.1 == dieOfCore core && e.2.pend.any fun a => decide (2 ≤ a.upto) && hit a

/-- Accesses of a core noted as ordered before what `core` does next: those that count as performed at its scope. -/
def seenBy (core from_ : Nat) (a : Access) : Access :=
  if decide (from_ ≤ a.upto) && !a.seen.contains core then { a with seen := a.seen ++ [core] } else a

/-- A core orders itself, by an acquire or a fence at a scope level, after everything that has performed there and not yet for all: its own
accesses, and from die scope on those of its die (R338, R340; log 101). -/
def observe (s : State) (core level : Nat) : State :=
  if s.cores.any fun e => dieOfCore e.1 == dieOfCore core && e.2.pend.any fun a => decide (1 ≤ a.upto) then
    { s with cores := s.cores.map fun e =>
        if e.1 = core then (e.1, { e.2 with pend := e.2.pend.map (seenBy core 1) })
        else if 2 ≤ level ∧ dieOfCore e.1 = dieOfCore core then (e.1, { e.2 with pend := e.2.pend.map (seenBy core 2) })
        else e }
  else s

/-- Whether an access that a core is ordered after has not yet performed at a scope level: a release of the core at that scope waits for it, as
releases are cumulative (R338). -/
def owes (s : State) (core level : Nat) : Bool :=
  s.cores.any fun e => dieOfCore e.1 == dieOfCore core && e.2.pend.any fun a => a.seen.contains core && decide (a.upto < level)

/-- The physical pieces of a span, up to the first page that does not translate. -/
def piecesUpTo (s : State) : List (Nat × Nat) → List (Nat × Nat)
  | [] => []
  | p :: ps => match xlate s s.focus (ctx s).mode (rootPa (ctx s).droot) p.1 true false with
    | .ok q => (q.1, p.2) :: piecesUpTo s ps
    | .error _ => []

/-- What a read at issue waits for: this core's acquires, and its accesses to the bytes, as far as the span translates (R58, R150, R338). -/
def loadWait (s : State) (va n : Nat) : Except Stop Unit :=
  if acquirePending (cur s) ||
      (piecesUpTo s (pieces va n (n / 8192 + 2))).any fun p => pendMeets (cur s) p.1 p.2 || scopeHeld s s.focus p.1 p.2 false (fun _ => true) then stopStall .scalar
  else .ok ()

/-- What the walks of a span at issue leave (R9, R372). -/
def issueNotes (s : State) (va n : Nat) (rd wr : Bool) : List (Nat × Nat) :=
  spanNotes s s.focus (ctx s).mode (rootPa (ctx s).droot) rd wr (pieces va n (n / 8192 + 2))

/-- A fault with what its slot has read before it (R9, R372). -/
def stopMet {α : Type} (t : Trap) (ps : List (Nat × Nat)) : Except Stop α := .error (if ps.isEmpty then .fault t else .held t (.met ps))

/-- DATAXL of a span at issue, at its first page that does not translate (R150, R357). -/
def stopXl {α : Type} (s : State) (va n : Nat) (rd wr : Bool) (e : Nat × Nat) : Except Stop α :=
  stopMet ⟨5, xlInfo e.1 e.2, none⟩ (issueNotes s va n rd wr)

/-- A read made at issue: it waits, then is translated, with DATAERR for an error in its bytes, or where another module does not answer in time
(R58, R150, R338, R378). -/
def loadV (s : State) (va n : Nat) : Except Stop (List Byte) := do
  let x := ctx s
  loadWait s va n
  match xlateSpan s s.focus x.mode (rootPa x.droot) va n true false with
  | .error e => stopXl s va n true false e
  | .ok ps =>
    if (cur s).noReply && ps.any (isPeer ·.1) then .error (.held ⟨14, BitVec.ofNat 64 va, none⟩ .noReply)
    else match ps.findSome? fun p => badAddr s p.1 p.2 with
      | some pa => stopMet ⟨14, BitVec.ofNat 64 va, none⟩ (issueNotes s va n true false ++ [(pa, 1)])
      | none => .ok (readPieces s ps)

/-- What a read at issue leaves beside its bytes, as the bundle issues: the house die logs one that reaches a disabled core's window, or the control
range, which answers aligned 8-byte LDG alone (R9, R375); an error met by a walk starts a self-test (R372). -/
def readNotes (s : State) (va n : Nat) : List Eff :=
  let x := ctx s
  match xlateSpan s s.focus x.mode (rootPa x.droot) va n true false with
  | .error _ => []
  | .ok ps => let ns := issueNotes s va n true false ++ notable s ps; if ns.isEmpty then [] else [.act (.met ns)]

/-- What a list of effects has noted of reads. -/
def effNotes (es : List Eff) : List (Nat × Nat) := es.flatMap fun e => match e with | .act (.met ps) => ps | _ => []

/-- A stop that a slot finds after a read keeps what the read leaves (R9, R372). -/
def Stop.after (ps : List (Nat × Nat)) : Stop → Stop
  | .fault t => if ps.isEmpty then .fault t else .held t (.met ps)
  | .held t (.met qs) => .held t (.met (ps ++ qs))
  | st => st

/-- The rest of a meaning after a read whose notes are among `es`. -/
def afterRead {α : Type} (es : List Eff) (r : Except Stop α) : Except Stop α := r.mapError (Stop.after (effNotes es))

/-- A physical span as (address, length) units that cross no 64-byte boundary (R333). -/
def units64 (pa n : Nat) : Nat → List (Nat × Nat)
  | 0 => []
  | fuel + 1 =>
    if n = 0 then []
    else
      let k := min n (64 - pa % 64)
      (pa, k) :: units64 (pa + k) (n - k) fuel

/-- Physical pieces as units. -/
def unitsOf (ps : List (Nat × Nat)) : List (Nat × Nat) := ps.flatMap fun p => units64 p.1 p.2 (p.2 / 64 + 2)

/-- The access records of an unordered store made at issue, one per unit (R158, R238, R253, R333). -/
def storeEffs (s : State) : Nat → List (Nat × Nat) → List Byte → List Eff
  | _, [], _ => []
  | va, p :: ps, bs =>
    .access { seq := 0, kind := .block, va := va, pa := p.1, size := p.2, dst := 0, data := bytesNat (bs.take p.2), swap := 0, scope := 0,
              acq := false, rel := false, serial := (ctx s).serial, home := none, upto := 0, seen := [] } ::
      storeEffs s (va + p.2) ps (bs.drop p.2)

/-- An unordered store of this core that gives no completion. -/
def storeV (s : State) (va : Nat) (bs : List Byte) : Except Stop (List Eff) :=
  let x := ctx s
  match xlateSpan s s.focus x.mode (rootPa x.droot) va bs.length false true with
  | .error e => stopXl s va bs.length false true e
  | .ok ps =>
    let ns := issueNotes s va bs.length false true
    .ok ((if ns.isEmpty then [] else [.act (.met ns)]) ++ storeEffs s va (unitsOf ps) bs)

/-- A value on its way to a scalar register, which stays busy until it arrives (R54, R83, R213, R236, R323). -/
def replyTo (s : State) (d v : Nat) : Except Stop (List Eff) := do
  touchReg s d
  let a : Access :=
    { seq := 0, kind := .reply, va := 0, pa := 0, size := 0, dst := d, data := v, swap := 0, scope := 0, acq := false, rel := false,
      serial := (ctx s).serial, home := none, upto := 0, seen := [] }
  pure (if d = 0 then [] else [.access a])

/-- The K commands, pit commands apart, that a core has still to complete; a failed one does no more (R268, R276). -/
def kPlain (c : Core) : List KCmd := (c.ctx.kq0 ++ c.ctx.kq1).filter fun k => decide (fld k.word 26 6 < 0x20) && k.failed.isNone

/-- A K command that still writes outside its core's own storage, be it its completion word (R264, R276). -/
def kStores (k : KCmd) : Bool :=
  k.sig.isSome || (!k.done && match fld k.word 26 6 with | 0x02 | 0x05 | 0x06 | 0x07 | 0x0D | 0x0E | 0x0F => true | _ => false)

/-- A K command that still writes anywhere; a failed one writes nothing further (R264, R268). -/
def kWrites (k : KCmd) : Bool :=
  k.failed.isNone && (kStores k || (!k.done && match fld k.word 26 6 with | 0x01 | 0x03 | 0x04 | 0x08 | 0x20 | 0x21 | 0x22 => true | _ => false))

/-- Every earlier store of this core, of whatever cue, and of its K commands, has performed at a scope code, and with it what the core is ordered
after (R264, R276, R332, R338, R340). -/
def storesDone (s : State) (core sc : Nat) : Bool :=
  (coreOf s core).pend.all (fun a => !writesMemory a || decide (scopeLevel sc ≤ a.upto)) && !(kPlain (coreOf s core)).any kStores &&
    !owes s core (scopeLevel sc)

/-- Every earlier access of this core has performed for all, its loads and its K commands too, and with it what the core is ordered after (R318,
R337, R338). -/
def accessesDone (s : State) (core : Nat) : Bool :=
  (coreOf s core).pend.all (fun a => !memoryAccess a) && (kPlain (coreOf s core)).isEmpty && !owes s core 3

/-- The bundle stalls for n cycles of its own before it issues, counted as a wait, and again after a curtain (R230, R250, R254, R255). -/
def spendFirst (s : State) (n : Nat) : Except Stop Unit := if (ctx s).spent < n then stopStall .wait else .ok ()

/-- n words read at issue, one after the other (R150, R233). -/
def loadWords (s : State) (va : Nat) : Nat → Except Stop (List Nat)
  | 0 => .ok []
  | n + 1 => do
    let ws ← loadWords s va n
    let bs ← loadV s (va + 4 * n) 4
    pure (ws ++ [bytesNat bs])

/-! ### SHAPE (R148, R149) -/

/-- SHAPEINFO. -/
def shapeWord (slot opnd field exp act : Nat) (dv : Option Nat) : Word :=
  BitVec.ofNat 64 (slot % 8 + opnd % 16 * 2 ^ 3 + field % 16 * 2 ^ 7 +
    (match dv with | some n => n % 16 * 2 ^ 11 + 2 ^ 15 | none => 0) + min exp 0xFFFFFF * 2 ^ 16 + min act 0xFFFFFF * 2 ^ 40)

/-- A SHAPE fault of the slot. -/
def stopShape {α : Type} (s : State) (opnd field exp act : Nat) (dv : Option Nat := none) : Except Stop α :=
  .error (.fault ⟨6, BitVec.ofNat 64 s.issue.slot, some (shapeWord s.issue.slot opnd field exp act dv)⟩)

/-! ### Tags and lanes (R171, R172) -/

def tagF (t : Nat) : Bool := t == 0x10 || t == 0x0F || t == 0x12 || t == 0x18 || t == 0x13
def tagI (t : Nat) : Bool := t == 0x08
def tagC8 (t : Nat) : Bool := t == 0x04 || t == 0x05 || t == 0x0C || t == 0x0D || t == 0x0E
def tagC16 (t : Nat) : Bool := t == 0x06 || t == 0x07
def tagCS (t : Nat) : Bool := t == 0 || t == 1 || t == 2 || t == 3 || t == 9 || t == 0x0A || t == 0x0B
def tagAny (t : Nat) : Bool := tagF t || tagI t || tagC8 t || tagC16 t || tagCS t
def tagNotCS (t : Nat) : Bool := tagF t || tagI t || tagC8 t || tagC16 t
def tagFI (t : Nat) : Bool := tagF t || tagI t

/-- Lanes of a row of a format: 512 elements for the narrow carriers (R121, R171). -/
def lanesOf (t : Nat) : Nat := if tagCS t || tagC8 t then 512 else 4096 / max (fmtWidth t) 1

/-- The codes of a row's lanes. -/
def laneCodes (t : Nat) (r : Row) : List Nat := (List.range (lanesOf t)).map (elt (fmtWidth t) r.toNat)

/-- A row of lane codes; the bytes after them are zero. -/
def laneRow (t : Nat) (cs : List Nat) : Row := BitVec.ofNat 4096 (packElts (fmtWidth t) cs)

/-- The scalar broadcast at the lane width of a format (R36). -/
def bcastRow (t : Nat) (v : Word) : Row := laneRow t (List.replicate (lanesOf t) (v.toNat % 2 ^ fmtWidth t))

/-- A vector source as read: the row, its tag, and the broadcast value instead of a row for code 61. -/
structure VSrc where
  row : Row
  tag : Option Nat
  bcast : Option Word
  src : Option LatchSrc
  deriving DecidableEq, Repr

/-- The row of a source in the operation's format (R172). -/
def VSrc.rowIn (v : VSrc) (fmt : Nat) : Row := match v.bcast with | some w => bcastRow fmt w | none => v.row

/-! ### Vector sources and destinations -/

/-- Operations of the S slot whose result code 61 delivers (R89). -/
def qualifies : Nat → Bool := fun w =>
  match decodeSlot .s w with
  | .ok i => (match fld w 26 6 with | 1 => true | 5 | 6 | 7 | 8 | 9 | 10 | 11 | 12 | 13 => true | _ => false) && i != .nop
  | .error _ => false

/-- The value the S slot's operation of this bundle delivers. -/
def bcastOf (s : State) : Word :=
  match s.issue.effs.find? (fun e => match e.2 with | .bcast _ => true | _ => false) with
  | some (_, .bcast v) => v
  | _ => 0

/-- Code 61 without a qualifying S operation is illegal (R36, R57). -/
def bcastLegal (s : State) (codes : List Nat) : Except Stop Unit :=
  needLegal s (!codes.any (· == 61) || qualifies (s.issue.words.getD 1 0))

/-- FAULTINFO of a vector DATAXL (R168). -/
def vecInfo (s : State) (nowin : Bool) (which : Nat) : Nat := s.issue.slot * 2 ^ 61 + (if nowin then 2 ^ 12 else 0) + which

/-- The accumulator row of vn: the window must be set and the row's bank held (R168). -/
def vecRow (s : State) (n : Nat) : Except Stop Nat :=
  let x := ctx s
  match x.window with
  | none => stopFault 5 (vecInfo s true n)
  | some w => let r := vrow x w n
    if holdsBank x (r / 4) then .ok r else stopFault 5 (vecInfo s false r)

/-- A port's indices after one access (R176). -/
def portStep (p : Port) : Port :=
  let c (l : Nat) : Nat := p.counts.getD l 1
  let i (l : Nat) : Nat := p.idx.getD l 0
  let a0 := i 0 + 1
  let a1 := if a0 = c 0 then i 1 + 1 else i 1
  let a2 := if a0 = c 0 ∧ a1 = c 1 then i 2 + 1 else i 2
  let a3 := if a0 = c 0 ∧ a1 = c 1 ∧ a2 = c 2 then i 3 + 1 else i 3
  { p with idx := [if a0 = c 0 then 0 else a0, if a1 = c 1 then 0 else a1, if a2 = c 2 then 0 else a2, if a3 = c 3 then 0 else a3] }

/-- A port after k accesses. -/
def portSteps (p : Port) : Nat → Port
  | 0 => p
  | k + 1 => portSteps (portStep p) k

/-- The scratchpad offset of a port's current row (R176). -/
def portOff (p : Port) : Int :=
  (p.base : Int) + ((List.range 4).map fun l => (p.idx.getD l 0 : Int) * p.strides.getD l 0).foldl (· + ·) 0

/-- How often the bundle in issue has moved a port so far (R37). -/
def popCount (s : State) (z : Nat) : Nat := (s.issue.effs.filter fun e => e.2 == .pop z).length

/-- A port row for reading or writing, after `extra` accesses of the same operation (R176). -/
def portRow (s : State) (z extra : Nat) (write : Bool) : Except Stop (Nat × Nat) :=
  let p := portOf (ctx s) z
  if !p.set || p.write != write then stopFault 5 z
  else .ok ((portOff (portSteps p (popCount s z + extra))).toNat, p.fmt)

/-- The stall test of a vector source or destination code (R51), before any fault is looked at; `extra` counts the earlier pops of its port in
the same operation (R37). -/
def vecStall (s : State) (code extra : Nat) (write : Bool) : Except Stop Unit :=
  let x := ctx s
  if code < 48 then
    match x.window with
    | some w => touchRange s (0x200000 + 512 * vrow x w code) 512 write
    | none => .ok ()
  else if 56 ≤ code ∧ code ≤ 59 then
    let p := portOf x (code - 56)
    if p.set && p.write == write then touchRange s (portOff (portSteps p (popCount s (code - 56) + extra))).toNat 512 write else .ok ()
  else .ok ()

/-- The stall tests of an operation's codes. -/
def vecStalls (s : State) (srcs : List Nat) (dst : Option Nat) : Except Stop Unit := do
  (List.range srcs.length).forM fun i => vecStall s (srcs.getD i 60) ((srcs.take i).count (srcs.getD i 60)) false
  match dst with
  | some d => vecStall s d 0 true
  | none => pure ()

/-- The hold latch of this slot and a source position (R38). -/
def holdOf (s : State) (pos : Nat) : Latch := mget Latch.invalid (s.issue.slot * 4 + pos) (ctx s).holds

/-- An invalid latch reads zero, untagged, and sets LATCHLOST (R42): the flag lands at the boundary after the read, not with the result of the
operation that reads, of which R42 and R111 speak (log 86). -/
def readLatch (l : Latch) : VSrc × List Eff :=
  if l.valid then (⟨l.val, l.tag, none, l.src⟩, [])
  else (⟨0, none, none, none⟩, [.land 1 none none flagLatchLost])

/-- One vector source by its code (R33). Position 0 is a6, 1 is b6, 2 is d6; `extra` counts the earlier pops of this port here. -/
def readVec (s : State) (pos code extra : Nat) : Except Stop (VSrc × List Eff) :=
  let x := ctx s
  let opnd := if pos = 2 then 0 else pos + 1
  if code < 48 then do
    let r ← vecRow s code
    noEarly s opnd (landsRow r)
    soundRead s (0x200000 + 512 * r) 512
    pure (⟨rowOf (cur s) r, tagOf (cur s) r, none, some (.row r)⟩, [])
  else if code < 56 then .ok (readLatch (x.bypass.getD (code - 48) Latch.invalid))
  else if code < 60 then do
    let p ← portRow s (code - 56) extra false
    noEarly s opnd (spadPending p.1 512)
    soundRead s p.1 512
    pure (⟨BitVec.ofNat 4096 (memNat (cur s).spad p.1 512), some p.2, none, none⟩, [.pop (code - 56)])
  else if code = 60 then .ok (⟨0, none, none, none⟩, [])
  else if code = 61 then .ok (⟨0, none, some (bcastOf s), none⟩, [])
  else .ok (readLatch (holdOf s pos))

/-- Sources by position and code, in order, with their effects (R37). -/
def readVecs (s : State) : List (Nat × Nat) → List Eff → Except Stop (List VSrc × List Eff)
  | [], es => .ok ([], es)
  | p :: ps, es => do
    let extra := (es.filter fun e => e == .pop (p.2 - 56)).length
    let v ← readVec s p.1 p.2 extra
    let rest ← readVecs s ps (es ++ v.2)
    pure (v.1 :: rest.1, rest.2)

/-- The operation's format: the first tagged source's tag, else WFMT (R172). -/
def opFmt (x : Ctxt) (vs : List VSrc) : Nat := (vs.findSome? (·.tag)).getD x.wfmt

/-- The hold-latch loads of the sources not read through code 63 (R38). -/
def holdEffs (fmt : Nat) : List (Nat × Nat) → List VSrc → List Eff
  | p :: ps, v :: vs => (if p.2 = 63 then [] else [.hold p.1 ⟨true, v.rowIn fmt, v.tag, v.src⟩]) ++ holdEffs fmt ps vs
  | _, _ => []

/-- OPND of a source position (R172). -/
def posOpnd (pos : Nat) : Nat := if pos = 2 then 0 else pos + 1

/-- Every tagged source lies in the set allowed for its position (R172). -/
def tagsAllowed (s : State) (ok : Nat → Nat → Bool) : List (Nat × Nat) → List VSrc → Except Stop Unit
  | p :: ps, v :: vs => match v.tag with
    | some t => if ok p.1 t then tagsAllowed s ok ps vs else stopShape s (posOpnd p.1) 1 0 t
    | none => tagsAllowed s ok ps vs
  | _, _ => .ok ()

/-- Every tagged source carries the same tag (R172). -/
def tagsAlike (s : State) (fmt : Nat) : List (Nat × Nat) → List VSrc → Except Stop Unit
  | p :: ps, v :: vs => match v.tag with
    | some t => if t = fmt then tagsAlike s fmt ps vs else stopShape s (posOpnd p.1) 1 fmt t
    | none => tagsAlike s fmt ps vs
  | _, _ => .ok ()

/-- What a vector operation hands back: the row and tag it writes, its bypass entry, its flags, and whether the entry is that row itself. -/
structure VRes where
  row : Row
  tag : Option Nat
  byp : Row × Option Nat
  flags : Word
  own : Bool

/-- A row result whose bypass entry is itself (R193). -/
def rowRes (row : Row) (tag : Nat) (flags : Word) : VRes := ⟨row, some tag, (row, some tag), flags, true⟩

/-- A result on its way, with its write if any (R193). -/
def vecLands (lat : Nat) (u : Option Upd) (r : VRes) : Eff :=
  if r.own then .land lat u (some r.byp) r.flags else .landApart lat u (some r.byp) r.flags

/-- The destination of a row result: nothing under nowb (R40), a vector register (R34), or a port's next row (R172, R176). -/
def vecDest (s : State) (d nowb lat : Nat) (r : VRes) : Except Stop (List Eff) :=
  if nowb = 1 then .ok [vecLands lat none r]
  else if d < 48 then do
    let k ← vecRow s d
    pure [vecLands lat (some (.row k r.row r.tag)) r]
  else do
    let p ← portRow s (d - 56) 0 true
    match r.tag with
    | some t => if t = p.2 then pure () else stopShape s 0 1 p.2 t
    | none => pure ()
    pure [.pop (d - 56), vecLands lat (some (.spad p.1 512 r.row.toNat)) r]

/-- The common course of a vector operation: the encoding check of code 61, the guard (R39), stalls, sources, tags, result, destination. A guard
that is pending in rehearsal raises EARLYREAD even where it is false now: R56 lets no pending predicate be read, though R39 leaves a suppressed
operation ILLEGAL and PRIV alone (log 108).
`pos` lists the source positions and codes; the first check of `ok` is by position and tag; `alike` as the table of R177 marks it. -/
def vecOp (s : State) (guard d nowb lat : Nat) (pos : List (Nat × Nat)) (ok : Nat → Nat → Bool) (alike : Bool)
    (f : Nat → List Row → List VSrc → Except Stop VRes) : Except Stop (List Eff) := do
  bcastLegal s (pos.map Prod.snd)
  if !(← rdP s 3 guard) then pure []
  else do
    vecStalls s (pos.map Prod.snd) (if nowb = 1 then none else some d)
    let r ← readVecs s pos []
    let fmt := opFmt (ctx s) r.1
    tagsAllowed s ok pos r.1
    if alike then tagsAlike s fmt pos r.1
    let v ← f fmt (r.1.map (·.rowIn fmt)) r.1
    let out ← vecDest s d nowb lat v
    pure (r.2 ++ holdEffs fmt pos r.1 ++ out)

end Sys2Proof.Machine
end

