-- ==== Sys2Proof/Machine/Types.lean ====
section
/-! DEFINITION. Type words and bindings (R132-R139), unification at issue (R143-R147) and the faults it raises (R148, R149). -/

namespace Sys2Proof.Machine

/-! ### Type words (R134-R137) -/

def twRank (w : Nat) : Nat := fld w 0 2
def twFmt (w : Nat) : Nat := fld w 2 5
def twLayout (w : Nat) : Nat := fld w 7 4
def twScale (w : Nat) : Nat := fld w 11 5
def twExt (w k : Nat) : Nat := fld w (16 + 16 * k) 16
/-- A type word from its fields. -/
def twMake (rank fmt layout scale : Nat) (es : List Nat) : BitVec 128 :=
  BitVec.ofNat 128 (rank + fmt * 2 ^ 2 + layout * 2 ^ 7 + scale * 2 ^ 11 + 2 ^ 16 * packElts 16 es)

/-- BFMT, BAND and the block length of a SCALE field (R137). -/
def scBfmt (sc : Nat) : Nat := fld sc 3 2
def scBand (sc : Nat) : Bool := fld sc 2 1 == 1
def scBlock (sc : Nat) : Nat := match sc % 4 with | 0 => 0 | 1 => 8 | 2 => 16 | _ => 32

/-- A valid SCALE for a format, rank field and layout (R137). -/
def scaleOk (rank fmt layout sc : Nat) : Bool :=
  sc == 0 || (fmtScalable fmt && rank == 1 && (layout == 0 || layout == 1 || layout == 2 || layout == 4) && decide (scBfmt sc ≤ 1) &&
    (scBlock sc != 0 || scBfmt sc == 0))

/-- The RANK field a layout requires (R136); none permits every rank. -/
def layoutRank : Nat → Option Nat
  | 0 | 1 => none
  | 5 => some 0
  | _ => some 1

/-- The formats a layout permits (R136). -/
def layoutFmt (layout f : Nat) : Bool :=
  match layout with
  | 0 | 1 | 4 => fmtIsOp f || fmtIsAcc f
  | 3 => fmtIsAcc f
  | _ => fmtIsOp f

/-- The space a layout lies in (R136). -/
def layoutSpace (layout : Nat) : Nat := if layout = 3 then 2 else 1

/-- The limit of R136 or R196 that a value of extent k breaks. -/
def limitBroken (layout fmt k v : Nat) : Option Nat :=
  match layout with
  | 2 => if k = 1 ∧ 64 < v then some 64 else none
  | 3 => let lim := if k = 0 then 1024 else 4096 / max (fmtWidth fmt) 1
    if k ≤ 1 ∧ lim < v then some lim else none
  | 4 => if v % 8 ≠ 0 then some 8 else none
  | _ => none

/-! ### Extents and variables -/

/-- An extent as coded: a constant or a variable (R135, R260). -/
inductive Ext where
  | const (v : Nat)
  | var (n : Nat)
  deriving DecidableEq, Repr

/-- An extent field of a type word (R135). -/
def extOf (raw : Nat) : Ext := if raw < 0x8000 then .const raw else .var (raw % 16)

/-- The variable that an extent names. -/
def Ext.dv : Ext → Option Nat
  | .const _ => none
  | .var n => some n

/-- Bindings made so far by the rule of this slot. -/
abbrev Local := List (Nat × Nat)

/-- A tentative binding made by a lower slot of the bundle (R145). -/
def tentOf (s : State) (n : Nat) : Option Nat :=
  s.issue.effs.findSome? fun e => match e.2 with | .bind k v => if k = n then some v else none | _ => none

/-- An extent resolved (R145): its value, and whether a lower slot's tentative binding gave it. -/
def resolve (s : State) (loc : Local) : Ext → Option (Nat × Bool)
  | .const v => some (v, false)
  | .var n =>
    match (dimOf (ctx s) n).val, tentOf s n, loc.find? (·.1 == n) with
    | some v, _, _ => some (v, false)
    | none, some v, _ => some (v, true)
    | none, none, some p => some (p.2, false)
    | none, none, none => none

/-- The value of an extent. -/
def extVal (s : State) (loc : Local) (e : Ext) : Option Nat := (resolve s loc e).map (·.1)

/-- A variable takes a value within its declared bound (R142). -/
def bindVar (s : State) (loc : Local) (opnd n v : Nat) : Except Stop Local :=
  if (dimOf (ctx s) n).limit < v then stopShape s opnd 8 (dimOf (ctx s) n).limit v (some n) else .ok (loc ++ [(n, v)])

/-- One constraint: the extent x of an operand against the reference y (R145). `field` is the field under test. -/
def unify (s : State) (loc : Local) (opnd field : Nat) (x y : Ext) (limit : Bool := false) : Except Stop Local :=
  match resolve s loc x, resolve s loc y with
  | some a, some b =>
    if (if limit then decide (a.1 ≤ b.1) else a.1 == b.1) then .ok loc
    else if a.2 then stopShape s opnd 11 a.1 b.1 x.dv
    else if b.2 then stopShape s opnd 11 b.1 a.1 y.dv
    else stopShape s opnd field b.1 a.1 x.dv
  | none, some b => match x with
    | .var n => bindVar s loc opnd n b.1
    | .const _ => .ok loc
  | some a, none => match y with
    | .var n => bindVar s loc opnd n a.1
    | .const _ => .ok loc
  | none, none => if x = y then .ok loc else stopShape s opnd 10 0 0 x.dv

/-- The bindings of a slot enter the bundle's tentative ones (R145, R146). -/
def bindEffs (loc : Local) : List Eff := loc.map fun p => .bind p.1 p.2

/-- The outcome of a slot that has unified its operands: its bindings are tentative ones for the slots above it, whether it then performs or stops
(R145). -/
def performBound (s : State) (r : Except Stop (Local × Except Stop (List Eff))) : Host.Outcome State Fault Refusal :=
  match r with
  | .error e => perform s (.error e)
  | .ok p => perform (settle s (.ok (bindEffs p.1))) p.2

/-! ### The checks of R138 -/

/-- Check 5 for one extent. -/
def checkExt (s : State) (loc : Local) (opnd w k : Nat) : Except Stop Unit :=
  let raw := twExt w k
  let dv := (extOf raw).dv
  if twRank w < k then (if raw = 0 then .ok () else stopShape s opnd (4 + k) 1 raw dv)
  else if raw = 0 ∨ (0x8000 ≤ raw ∧ fld raw 4 11 ≠ 0) then stopShape s opnd (4 + k) 1 raw dv
  else match extVal s loc (extOf raw) with
    | some v => match limitBroken (twLayout w) (twFmt w) k v with
      | some lim => stopShape s opnd (4 + k) lim v dv
      | none => .ok ()
    | none => .ok ()

/-- The checks of R138 on a type word, in order. -/
def checkType (s : State) (loc : Local) (opnd : Nat) (tw : BitVec 128) : Except Stop Unit := do
  let w := tw.toNat
  if 6 ≤ twLayout w then stopShape s opnd 2 0 (twLayout w)
  if w / 2 ^ 80 ≠ 0 then stopShape s opnd 0 0 (fld w 80 24)
  match layoutRank (twLayout w) with
  | some r => if twRank w ≠ r then stopShape s opnd 0 r (twRank w)
  | none => pure ()
  if !layoutFmt (twLayout w) (twFmt w) then stopShape s opnd 1 0 (twFmt w)
  if !scaleOk (twRank w) (twFmt w) (twLayout w) (twScale w) then stopShape s opnd 3 0 (twScale w)
  checkExt s loc opnd w 0
  checkExt s loc opnd w 1
  checkExt s loc opnd w 2
  checkExt s loc opnd w 3

/-! ### Values and storage (R139, R145, R147) -/

/-- The extents of a type word with missing ones 1; none while a variable in use is unbound. -/
def extsKnown (s : State) (loc : Local) (w : Nat) : Option (List Nat) :=
  (List.range 4).mapM fun k => if twRank w < k then some 1 else extVal s loc (extOf (twExt w k))

/-- Every extent in use has a value, else UNBOUND names the first variable met (R145). -/
def extsNeeded (s : State) (loc : Local) (opnd : Nat) (tw : BitVec 128) : Except Stop (List Nat) :=
  (List.range 4).mapM fun k =>
    let e := extOf (twExt tw.toNat k)
    if twRank tw.toNat < k then .ok 1
    else match extVal s loc e with
      | some v => .ok v
      | none => stopShape s opnd 10 0 0 e.dv

def ceilDiv (a b : Nat) : Nat := (a + b - 1) / b
def round64 (x : Nat) : Nat := ceilDiv x 64 * 64

/-- Lines and the run of blocks of a scaled type (R120). -/
def scLines (layout : Nat) (e : List Nat) : Nat := if layout = 1 then e.getD 1 1 else e.getD 0 1
def scRun (layout : Nat) (e : List Nat) : Nat := if layout = 1 then e.getD 0 1 else e.getD 1 1

/-- Element bytes of a type with its extents (R139). -/
def eltBytes (w : Nat) (e : List Nat) : Nat := ceilDiv (e.foldl (· * ·) 1 * fmtWidth (twFmt w)) 8

/-- Where block scales and band scales begin, after the elements (R120, R139). -/
def blkOff (w : Nat) (e : List Nat) : Nat := round64 (eltBytes w e)
def blkBytes (w : Nat) (e : List Nat) : Nat :=
  let b := scBlock (twScale w)
  if b = 0 then 0 else scLines (twLayout w) e * ceilDiv (scRun (twLayout w) e) b
def bandOff (w : Nat) (e : List Nat) : Nat :=
  round64 (if scBlock (twScale w) = 0 then eltBytes w e else blkOff w e + blkBytes w e)

/-- The storage a type needs (R139). -/
def needBytes (w : Nat) (e : List Nat) : Nat :=
  if twLayout w = 3 then e.getD 0 1 * 512
  else if scBand (twScale w) then bandOff w e + 2 * ceilDiv (e.getD 0 1) 64
  else if scBlock (twScale w) = 0 then eltBytes w e
  else blkOff w e + blkBytes w e

/-- The bytes a binding holds for a layout: none in another space (R139). -/
def bdHolds (layout : Nat) (bd : Word) : Nat := if bdSpace bd = layoutSpace layout then bdLen bd else 0

/-- Storage fit (R139). -/
def checkFit (s : State) (opnd : Nat) (tw : BitVec 128) (e : List Nat) (bd : Word) : Except Stop Unit :=
  let need := needBytes tw.toNat e
  let have' := bdHolds (twLayout tw.toNat) bd
  if need ≤ have' ∧ bdSpace bd = layoutSpace (twLayout tw.toNat) then .ok () else stopShape s opnd 9 need have'

/-- A type word with every extent in use written as its value (R147). -/
def twConst (tw : BitVec 128) (e : List Nat) : BitVec 128 :=
  let w := tw.toNat
  twMake (twRank w) (twFmt w) (twLayout w) (twScale w) ((List.range 4).map fun k => if twRank w < k then 0 else e.getD k 1)

/-- The extents of a type word whose extents in use are constants. -/
def constExts (w : Nat) : List Nat := (List.range 4).map fun k => if twRank w < k then 1 else twExt w k

/-- Bytes two bindings share. -/
def bdOverlap (a b : Word) : Nat :=
  if bdSpace a = bdSpace b then min (bdBase a + bdLen a) (bdBase b + bdLen b) - max (bdBase a) (bdBase b) else 0

/-- A touch of a tile's bytes by an operation that issues (R51, R153, R267). -/
def touchBd (s : State) (bd : Word) (write : Bool) : Except Stop Unit :=
  if bdSpace bd = 0 ∨ bdLen bd = 0 then .ok () else touchRange s (bdOff bd) (bdLen bd) write

/-- The instructions of the bundle's lower slots, whether they stopped or not. -/
def lowerSlots (s : State) : List Instr :=
  (List.range s.issue.slot).filterMap fun k =>
    match decodeSlot (slotKindOf k) (s.issue.words.getD k 0) with | .ok i => some i | .error _ => none

/-- The tile register whose type word an engine command writes (R147, R202). -/
def tileWriter : Instr → Option Nat
  | .mma d .. => some d
  | _ => none

/-- Two slots may not write one tile register (R146). -/
def tileFree (s : State) (t : Nat) : Except Stop Unit := needLegal s (!(lowerSlots s).any fun i => tileWriter i == some t)

/-- The rest of a meaning that unifies, after a read whose notes are among `es`. -/
def afterBound (es : List Eff) (r : Except Stop (Local × Except Stop (List Eff))) : Except Stop (Local × Except Stop (List Eff)) :=
  (afterRead es r).map fun p => (p.1, afterRead es p.2)

/-- A tile register written at the boundary (R146, R150). -/
def tileEff (t : Nat) (tw : Option (BitVec 128)) (bd : Option Word) : Eff := .land 1 (some (.tile t tw bd)) none 0

/-- RANK, FMT, LAYOUT or SCALE of an operand against a value (R144). -/
def need (s : State) (opnd field exp act : Nat) (ok : Bool) : Except Stop Unit :=
  if ok then .ok () else stopShape s opnd field exp act

/-! ### Engine commands: clashes and busy ranges (R50-R53, R168) -/

/-- The storage of a tile operand. -/
def tileSpan (x : Ctxt) (t : Nat) (w : Bool) : List Range := opRange ⟨0, (tileOf x t).bd⟩ w

/-- The storage of an engine command's tile operands, before it is typed (R50, R197, R270-R279, R286). -/
def clashRanges (x : Ctxt) : Instr → List Range
  | .mlatch a _ | .mlatchX a _ _ => tileSpan x a false
  | .mma d a _ c _ _ u _ _ => tileSpan x d true ++ tileSpan x a false ++ (if u = 1 then tileSpan x c false else [])
  | .mzero d | .msave d => tileSpan x d true
  | .mtrans d a | .mcast d a _ => tileSpan x d true ++ tileSpan x a false
  | .mresume a => tileSpan x a false
  | .tload t .. | .trecv t .. | .pitAttn t .. => tileSpan x t true
  | .tloadIx t _ i _ | .gather t _ i _ _ => tileSpan x t true ++ tileSpan x i false
  | .scatter t _ i .. => tileSpan x t false ++ tileSpan x i false
  | .tstore t .. | .tsend t .. | .route t .. | .pitScaleadd t .. | .pitAtomadd t .. | .pitXload t .. => tileSpan x t false
  | _ => []

/-- The ranges that an MRESUME or KRESUME of a lower slot restores, known once it has read its image (R197, R212, R277). -/
def gatheredRanges (s : State) : List Range :=
  s.issue.effs.flatMap fun e => match e.2 with
    | .act (.mback b) => b.cmds.flatMap mRanges
    | .act (.kresume _ cs) => cs.flatMap kRanges
    | _ => []

/-- A clash of a command's ranges with those of a command in a lower slot is illegal (R52). -/
def noClash (s : State) (rs : List Range) : Except Stop Unit :=
  needLegal s (!rs.any fun r => ((lowerSlots s).flatMap (clashRanges (ctx s)) ++ gatheredRanges s).any fun q =>
    decide (0 < r.len) && decide (0 < q.len) && meets r.off r.len q && (r.write || q.write))

/-- Every range of a command is touched (R51). -/
def touchRanges (s : State) (rs : List Range) : Except Stop Unit :=
  rs.forM fun r => if r.len = 0 then .ok () else touchRange s r.off r.len r.write

/-- The banks that an accumulator binding covers. -/
def bdBanks (bd : Word) : List Nat :=
  if bdSpace bd = 2 ∧ 0 < bdLen bd then (List.range ((bdBase bd + bdLen bd - 1) / 2048 + 1)).drop (bdBase bd / 2048) else []

/-- An accumulator operand in a bank that the cue does not hold (R168, R198): FAULTINFO is the binding. -/
def banksHeld (s : State) (bd : Word) : Except Stop Unit :=
  if (bdBanks bd).all (holdsBank (ctx s)) then .ok () else stopFault 5 bd.toNat

end Sys2Proof.Machine
end

