-- ==== Sys2Proof/Machine/Windows.lean ====
section
/-! DEFINITION. Window records: reading through the die's cache (R263), the checks of R261, and the bytes a window's elements take (R260,
R262). -/

namespace Sys2Proof.Machine

/-- A record's fields (R260). -/
structure WinRec where
  base : Nat
  desc : Nat
  version : Nat
  ext : List Nat
  stride : List Nat
  sbase : Nat
  bbase : Nat
  bound : Nat
  deriving DecidableEq, Repr

/-- The fields of 128 record bytes. -/
def winRec (bs : List Byte) : WinRec :=
  let q (o n : Nat) : Nat := bytesNat ((bs.drop o).take n)
  { base := q 0 8, desc := q 8 4, version := q 12 4, ext := [q 0x10 4, q 0x14 4, q 0x18 4, q 0x1C 4],
    stride := [q 0x20 8, q 0x28 8, q 0x30 8, q 0x38 8], sbase := q 0x40 8, bbase := q 0x48 8, bound := q 0x50 8 }

def WinRec.rank (r : WinRec) : Nat := twRank r.desc
def WinRec.fmt (r : WinRec) : Nat := twFmt r.desc
def WinRec.layout (r : WinRec) : Nat := twLayout r.desc
def WinRec.scale (r : WinRec) : Nat := twScale r.desc
/-- The extent of dimension k as coded (R260). -/
def WinRec.extOf (r : WinRec) (k : Nat) : Ext :=
  let e := r.ext.getD k 0
  if e < 2 ^ 31 then .const e else .var (e % 16)
/-- The stride of dimension k as a signed number. -/
def WinRec.step (r : WinRec) (k : Nat) : Int := sextNat 64 (r.stride.getD k 0)
/-- The contiguous dimension (R260). -/
def WinRec.contig (r : WinRec) : Nat := if r.rank = 0 ∨ r.layout = 1 then 0 else 1
/-- BOUND, where 0 means 2^53. -/
def WinRec.span (r : WinRec) : Nat := if r.bound = 0 then 2 ^ 53 else r.bound

/-- A SHAPE fault of a record's own checks: FAULTINFO is the record address (R261). -/
def stopRecord {α : Type} (s : State) (va opnd field exp act : Nat) (dv : Option Nat := none) : Except Stop α :=
  .error (.fault ⟨6, BitVec.ofNat 64 va, some (shapeWord s.issue.slot opnd field exp act dv)⟩)

/-- The place of the lowest non-zero reserved byte: R261 writes 0x0E and 0x0F for DESC [31:16] (log 13). -/
def recReserved (bs : List Byte) : Option Nat :=
  if bs.getD 0x0A 0 != 0 then some 0x0E
  else if bs.getD 0x0B 0 != 0 then some 0x0F
  else (List.range 40).findSome? fun i => if bs.getD (0x58 + i) 0 != 0 then some (0x58 + i) else none

/-- Check 5 for one dimension. -/
def recExtCheck (s : State) (va opnd : Nat) (r : WinRec) (k : Nat) : Except Stop Unit := do
  let raw := r.ext.getD k 0
  let dv := (r.extOf k).dv
  if r.rank < k then
    if raw ≠ 0 then stopRecord s va opnd (4 + k) 1 raw dv
  else if raw = 0 ∨ (2 ^ 31 ≤ raw ∧ fld raw 4 27 ≠ 0) then stopRecord s va opnd (4 + k) 1 raw dv
  if k = r.contig ∧ r.stride.getD k 0 ≠ 0 then stopRecord s va opnd (4 + k) 0 (r.stride.getD k 0) dv

/-- The checks of R261, in order. -/
def recCheck (s : State) (va opnd : Nat) (bs : List Byte) : Except Stop WinRec := do
  let r := winRec bs
  if r.layout = 3 ∨ 6 ≤ r.layout then stopRecord s va opnd 2 0 r.layout
  match recReserved bs with
  | some o => stopRecord s va opnd 0 0 o
  | none => pure ()
  match layoutRank r.layout with
  | some k => if r.rank ≠ k then stopRecord s va opnd 0 k r.rank
  | none => pure ()
  if !fmtIsOp r.fmt && !fmtIsAcc r.fmt then stopRecord s va opnd 1 0 r.fmt
  if !scaleOk r.rank r.fmt r.layout r.scale then stopRecord s va opnd 3 0 r.scale
  if (r.sbase ≠ 0 ∧ scBlock r.scale = 0) ∨ (r.bbase ≠ 0 ∧ !scBand r.scale) then stopRecord s va opnd 3 0 r.scale
  recExtCheck s va opnd r 0
  recExtCheck s va opnd r 1
  recExtCheck s va opnd r 2
  recExtCheck s va opnd r 3
  pure r

/-- The line of the die's window-record cache that holds a record, with the record's physical address (R263). -/
def recLine (s : State) (va : Nat) : Option (Nat × List Byte) :=
  match xlate s s.focus (ctx s).mode (rootPa (ctx s).droot) va true false with
  | .error _ => none
  | .ok q => (dieOf s (dieOfCore s.focus)).wcache.find? fun e => e.1 == q.1

/-- What the read of a record waits for: nothing where the cache holds it, else also an atomic operation on its bytes that the die already counts as
performed (R99, R150, R263, R332). -/
def recWait (s : State) (va : Nat) : Except Stop Unit :=
  if (recLine s va).isSome then .ok ()
  else if (piecesUpTo s (pieces va 128 2)).any fun p => dieAmo s (dieOfCore s.focus) p.1 p.2 then stopStall .scalar
  else loadWait s va 128

/-- A cached record as a command sees it: each aligned 8-byte unit as it was cached, or as it stands now for the die (R263, log 30). -/
def recMixed (s : State) (pa : Nat) (cached : List Byte) : List Byte :=
  let now := if isBad s pa 128 then cached else dieRead s (dieOfCore s.focus) pa 128
  (List.range 16).flatMap fun k => ((if (freeOf s (64 + s.issue.slot)).getLsbD k then now else cached).drop (8 * k)).take 8

/-- The 128 bytes of a record read through the die's cache, which a miss fills whole with the bytes as the die sees them (R150, R263, R332). -/
def recRead (s : State) (va : Nat) : Except Stop (List Byte × List Eff) := do
  recWait s va
  needData s va 128
  match recLine s va with
  | some e => pure (recMixed s e.1 e.2, [])
  | none => do
    let _ ← loadV s va 128
    match xlate s s.focus (ctx s).mode (rootPa (ctx s).droot) va true false with
    | .error e => stopFault 5 (xlInfo va e).toNat
    | .ok q =>
      let bs := dieRead s (dieOfCore s.focus) q.1 128
      pure (bs, .fillRec q.1 bs :: readNotes s va 128)

/-- A record extent of a command: UNBOUND on an unbound variable (R270). -/
def recExtNeeded (s : State) (loc : Local) (opnd : Nat) (r : WinRec) (k : Nat) : Except Stop Nat :=
  match extVal s loc (r.extOf k) with
  | some v => .ok v
  | none => stopShape s opnd 10 0 0 (r.extOf k).dv

/-- The record bytes with every extent in use written as its value: what a command captures (R143, R277). -/
def recConst (bs : List Byte) (es : List Nat) : List Byte :=
  bs.take 0x10 ++ (List.range 4).flatMap (fun k => natBytes 4 (es.getD k 0)) ++ bs.drop 0x20

/-- The lowest and highest byte offsets from BASE that n elements from origin o touch, the highest exclusive (R262). -/
def winSpan (r : WinRec) (o n : List Nat) : Int × Int :=
  let c := r.contig
  let w := fmtWidth r.fmt
  let lo0 : Int := ((o.getD c 0 * w / 8 : Nat) : Int)
  let hi0 : Int := ((ceilDiv ((o.getD c 0 + n.getD c 1) * w) 8 : Nat) : Int)
  (List.range (r.rank + 1)).foldl (fun acc k =>
    if k = c then acc
    else
      let a : Int := (o.getD k 0 : Int) * r.step k
      let d : Int := ((n.getD k 1 : Int) - 1) * r.step k
      (acc.1 + a + min 0 d, acc.2 + a + max 0 d)) (lo0, hi0)

/-- The span checks of R262: within BOUND, whole bytes of a narrow format, and origins on scale boundaries; for these SHAPEINFO holds the record's
SCALE, which the tile's equals, as reference and as found (R149, log 89). BOUND is held against the bytes of the elements alone: R262 does not say
whether the scale bytes at SBASE and BBASE count among those a transfer would touch (log 115). -/
def winCheck (s : State) (va : Nat) (r : WinRec) (o n : List Nat) : Except Stop Unit := do
  let c := r.contig
  let w := fmtWidth r.fmt
  let sp := winSpan r o n
  if w < 8 ∧ (o.getD c 0 * w % 8 ≠ 0 ∨ n.getD c 1 * w % 8 ≠ 0) then stopSlot s 3
  if scBlock r.scale ≠ 0 ∧ o.getD c 0 % scBlock r.scale ≠ 0 then stopShape s 1 3 r.scale r.scale
  if scBand r.scale ∧ o.getD 0 0 % 64 ≠ 0 then stopShape s 1 3 r.scale r.scale
  if sp.1 < 0 ∨ (r.span : Int) < sp.2 then stopFault 5 va

/-- The virtual address and bit place of a window's element (R262). -/
def winElt (r : WinRec) (i : List Nat) : Nat × Nat :=
  let c := r.contig
  let bit := i.getD c 0 * fmtWidth r.fmt
  let off := (List.range (r.rank + 1)).foldl (fun acc k => if k = c then acc else acc + (i.getD k 0 : Int) * r.step k) (0 : Int)
  (((r.base : Int) + off + ((bit / 8 : Nat) : Int)).toNat, bit % 8)

end Sys2Proof.Machine
end

