-- ==== Sys2Proof/Machine/Accum.lean ====
section
/-! DEFINITION. Accumulator banks, the vector window, stream ports and WFENCE (R164-R170, R174-R176, R264). -/

namespace Sys2Proof.Machine

/-- Whether banks f..f+n-1 are all free (R164). -/
def banksFree (c : Core) (f n : Nat) : Bool := decide (f + n ≤ 256) && (List.range n).all fun i => !bankTaken c (f + i)

/-- Whether the running cue holds banks f..f+n-1. -/
def banksMine (x : Ctxt) (f n : Nat) : Bool := decide (f + n ≤ 256) && (List.range n).all fun i => holdsBank x (f + i)

/-- ACC.ALLOC (R165): the lowest run of free banks, or one of three statuses. -/
def execAccAlloc (d a : Nat) (s : State) : Host.Outcome State Fault Refusal :=
  perform s (do
    let n ← rdS s 1 a
    let x := ctx s
    let status (k : Int) := outS s 1 d (BitVec.ofInt 64 k) 0
    if n.toNat = 0 ∨ 256 < n.toNat then status (-3)
    else if declBanks x.decl < heldCount x + n.toNat then status (-2)
    else match (List.range 256).find? fun f => banksFree (cur s) f n.toNat with
      | none => status (-1)
      | some f => do
        let es ← outS s 1 d (BitVec.ofNat 64 f) 0
        pure (.land 1 (some (.accAlloc f n.toNat)) none 0 :: es))

/-- ACC.FREE (R166). -/
def execAccFree (a b : Nat) (s : State) : Host.Outcome State Fault Refusal :=
  perform s (do
    let f ← rdS s 1 a
    let n ← rdS s 2 b
    if f.toNat + n.toNat ≤ 256 ∧ n.toNat ≠ 0 then touchRange s (0x200000 + 2048 * f.toNat) (2048 * n.toNat) true
    if n.toNat = 0 ∨ !banksMine (ctx s) f.toNat n.toNat then
      stopFault 5 (min f.toNat (2 ^ 32 - 1) * 2 ^ 32 + min n.toNat (2 ^ 32 - 1))
    pure [.land 1 (some (.accFree f.toNat n.toNat)) none 0])

/-- ACC.WIN (R169). -/
def execAccWin (a f : Nat) (s : State) : Host.Outcome State Fault Refusal :=
  perform s (do
    let w ← rdS s 1 a
    needAligned s w.toNat 4
    if 1024 < w.toNat + 48 ∨ !banksMine (ctx s) (w.toNat / 4) 12 then stopFault 5 w.toNat
    pure [.land 1 (some (.accWin w.toNat f)) none 0])

/-! ### Ports -/

/-- The field of a port record that is bad, by byte offset, the lowest first (R174, R175). -/
def portBad (q : Nat → Nat → Nat) : Option Nat :=
  if q 0 8 % 64 ≠ 0 then some 0
  else if q 8 4 / 64 ≠ 0 ∨ !tagAny (fld (q 8 4) 1 5) then some 8
  else if q 0x0C 4 ≠ 0 then some 0x0C
  else match (List.range 4).findSome? fun l =>
      if q (0x10 + 8 * l) 4 = 0 ∨ 65536 < q (0x10 + 8 * l) 4 then some (0x10 + 8 * l)
      else if q (0x14 + 8 * l) 4 % 64 ≠ 0 then some (0x14 + 8 * l) else none with
    | some o => some o
    | none => if q 0x30 16 ≠ 0 then some 0x30 else none

/-- A port as its record sets it, its indices zero. -/
def portOfRecord (q : Nat → Nat → Nat) : Port :=
  { set := true, base := q 0 8, write := q 8 4 % 2 == 1, fmt := fld (q 8 4) 1 5,
    counts := (List.range 4).map fun l => q (0x10 + 8 * l) 4,
    strides := (List.range 4).map fun l => sextNat 32 (q (0x14 + 8 * l) 4), idx := [0, 0, 0, 0] }

/-- The lowest and highest row offsets of a walk. -/
def portReach (p : Port) : Int × Int :=
  (List.range 4).foldl (fun acc l =>
    let d : Int := ((p.counts.getD l 1 : Int) - 1) * p.strides.getD l 0
    (acc.1 + min 0 d, acc.2 + max 0 d)) ((p.base : Int), (p.base : Int))

/-- PORT.SET (R175). The manual gives no FAULTINFO for a walk that leaves the scratchpad: it is a free value (log 3). -/
def execPortSet (a p : Nat) (s : State) : Host.Outcome State Fault Refusal :=
  perform s (do
    let va ← rdS s 1 a
    loadWait s va.toNat 64
    needData s va.toNat 64
    let bs ← loadV s va.toNat 64
    let notes := readNotes s va.toNat 64
    let q (o n : Nat) : Nat := bytesNat ((bs.drop o).take n)
    afterRead notes (match portBad q with
      | some o => stopFault 5 o
      | none =>
        let port := portOfRecord q
        let r := portReach port
        if r.1 < 0 ∨ (Config.spadBytes : Int) < r.2 + 512 then stopFault 5 (freeOf s (2 + s.issue.slot)).toNat
        else pure (notes ++ [.land 1 (some (.port p port)) none 0])))

/-- PORT.RESET (R175). -/
def execPortReset (p : Nat) (s : State) : Host.Outcome State Fault Refusal :=
  perform s (.ok [.land 1 (some (.port p Port.unset)) none 0])

/-- WFENCE: it waits for every earlier store, the writes of earlier K commands among them, and for earlier acquires, and empties the die's cache
(R264, R268, R338). -/
def execWfence (s : State) : Host.Outcome State Fault Refusal :=
  perform s (
    if storesDone s s.focus 1 && !acquirePending (cur s) && !((ctx s).kq0 ++ (ctx s).kq1).any kWrites then .ok [.act .windowFence]
    else stopStall .wait)

end Sys2Proof.Machine
end

