-- ==== Sys2Proof/Machine/Branch.lean ====
section
/-! DEFINITION. The C slot's branch preparation, branches, loops and votes (R102-R107). -/

namespace Sys2Proof.Machine

/-- The sign-extended n-bit bundle offset in bytes (R26, R102). -/
def bundleOff (n i : Nat) : Word := BitVec.ofInt 64 (32 * sextNat n i)

/-- PBR: the address of this bundle plus 32 times the offset (R102). -/
def execPbr (t i : Nat) (s : State) : Host.Outcome State Fault Refusal :=
  perform s (.ok [.land 1 (some (.breg t ((ctx s).pc + bundleOff 23 i))) none 0])

/-- PBRR (R102). -/
def execPbrr (t a i : Nat) (s : State) : Host.Outcome State Fault Refusal :=
  perform s (do
    let x ← rdS s 0 a
    pure [.land 1 (some (.breg t (x + bundleOff 13 i))) none 0])

/-- NOP (R24). -/
def execNop (s : State) : Host.Outcome State Fault Refusal := perform s (.ok [])

/-- A taken branch: ALIGN on a target with a non-zero bit in [4:0], else the target after two delay bundles (R46, R104). -/
def takeBranch (s : State) (t : Word) : Except Stop (List Eff) := do
  needAligned s t.toNat 32
  pure [.ctl (.branch t)]

/-- The condition of a branch: the predicate, inverted when neg is set (R103). -/
def branchTaken (s : State) (p n : Nat) : Except Stop Bool := do
  let b ← rdP s 0 p
  pure (b != (n == 1))

/-- BR (R103, R104). -/
def execBr (t : Nat) (s : State) : Host.Outcome State Fault Refusal := perform s (takeBranch s (bregOf (ctx s) t))

/-- BRP (R103, R104). -/
def execBrp (t p n : Nat) (s : State) : Host.Outcome State Fault Refusal :=
  perform s (do if ← branchTaken s p n then takeBranch s (bregOf (ctx s) t) else pure [])

/-- CALL: the link, this bundle's address plus 96, lands in b7 after one bundle (R46, R104). -/
def execCall (t p n : Nat) (s : State) : Host.Outcome State Fault Refusal :=
  perform s (do
    if ← branchTaken s p n then
      let es ← takeBranch s (bregOf (ctx s) t)
      pure (es ++ [.land 1 (some (.breg 7 ((ctx s).pc + 96#64))) none 0])
    else pure [])

/-- RET: through b7 (R103, R104). -/
def execRet (p n : Nat) (s : State) : Host.Outcome State Fault Refusal :=
  perform s (do if ← branchTaken s p n then takeBranch s (bregOf (ctx s) 7) else pure [])

/-- A loop's back-edge: the next bundle issues at the target, without delay bundles (R105). -/
def backEdge (s : State) (taken : Bool) (t : Nat) : Except Stop (List Eff) :=
  if taken then do
    needAligned s (bregOf (ctx s) t).toNat 32
    pure [.ctl (.jump (bregOf (ctx s) t))]
  else .ok []

/-- LOOP (R105). -/
def execLoop (t a st : Nat) (s : State) : Host.Outcome State Fault Refusal :=
  perform s (do
    let x ← rdS s 0 a
    let c := x - BitVec.ofNat 64 st
    let es ← backEdge s (decide (0 < c.toInt) && a != 0) t
    pure (es ++ [.land 1 (some (.sreg a c)) none 0]))

/-- Whether each of p(8+0)..p(8+n-1) is set, read at issue. -/
def stagePreds (s : State) : Nat → Except Stop (List Bool)
  | 0 => .ok []
  | n + 1 => do
    let l ← stagePreds s n
    let b ← rdP s 1 (8 + n)
    pure (l ++ [b])

/-- The stage predicates p8, p9, ... written (R106). -/
def stageEffs : Nat → List Bool → List Eff
  | _, [] => []
  | k, b :: bs => .land 1 (some (.pred (8 + k) b)) none 0 :: stageEffs (k + 1) bs

/-- LOOPS: the predicates shift up, the rotating base moves back by one, the loop is taken while a stage is active (R106). -/
def execLoops (t a st : Nat) (s : State) : Host.Outcome State Fault Refusal :=
  perform s (do
    let c ← rdS s 0 a
    let old ← stagePreds s (st - 1)
    let go := decide (0 < c.toInt)
    let new := go :: old
    let es ← backEdge s (new.any id) t
    let count := if go then [.land 1 (some (.sreg a (c - 1#64))) none 0] else []
    pure (es ++ count ++ stageEffs 0 new ++ [.land 1 (some (.rot (((ctx s).rot + 15) % 16))) none 0]))

/-- VOTE.ANY (R107). -/
def execVoteAny (p k : Nat) (s : State) : Host.Outcome State Fault Refusal :=
  perform s (do
    let m ← rdK s 0 k
    pure (outP p ((List.range m.2).any (maskBit m))))

/-- VOTE.ALL (R107). -/
def execVoteAll (p k : Nat) (s : State) : Host.Outcome State Fault Refusal :=
  perform s (do
    let m ← rdK s 0 k
    pure (outP p ((List.range m.2).all (maskBit m))))

end Sys2Proof.Machine
end

