-- ==== Sys2Proof/Machine/Control.lean ====
section
/-! DEFINITION. Wings and their rings (R303-R305, R376), and the registers of the control range and BAR0 (R365, R375, R384, R386). -/

namespace Sys2Proof.Machine

/-! ### Wings -/

def wingOf (s : State) (d w : Nat) : Wing := mget Wing.reset w (dieOf s d).wings

def setWing (s : State) (d w : Nat) (x : Wing) : State :=
  let v := dieOf s d
  setDie s d { v with wings := mput w x v.wings }

/-- Physical base of a wing's ring; 0 disables the wing (R303). -/
def wingBase (w : Wing) : Nat := fld w.qbase.toNat 16 32 * 2 ^ 16
/-- Entries of a wing's ring; sizes 11 to 15 act as 10 (R303). -/
def wingEntries (w : Wing) : Nat := 2 ^ (10 + min (fld w.qbase.toNat 0 4) 10)
/-- A stage-manager wing (R304). -/
def wingSm (w : Wing) : Bool := w.qbase.getLsbD 4
/-- Entries the ring holds; `head` and `tail` run on without wrapping and QPTR shows them modulo the entries. -/
def wingOcc (w : Wing) : Nat := w.tail - w.head

/-- Where the oldest record of a wing stands. -/
def wingHeadPa (s : State) (d w : Nat) : Nat := let x := wingOf s d w; wingBase x + x.head % wingEntries x * 64

/-- The oldest record of a wing. -/
def wingHead (s : State) (d w : Nat) : List Byte := physRead s (wingHeadPa s d w) 64

/-- A record appended to a ring with room; an entry that becomes head starts its age and takes its place among heads (R306, R310). -/
def wingAppend (s : State) (d w : Nat) (entry : List Byte) : State :=
  let x := wingOf s d w
  let s' := physWrite s (wingBase x + x.tail % wingEntries x * 64) entry
  let v := dieOf s' d
  let x' : Wing := if wingOcc x = 0 then { x with tail := x.tail + 1, age := 0, since := v.picks } else { x with tail := x.tail + 1 }
  setDie s' d { v with wings := mput w x' v.wings, picks := v.picks + 1 }

/-- The oldest entry leaves a ring (R305); the next one becomes head. Lines staged for the old head and given to no core are gone (R313). -/
def wingPop (s : State) (d w : Nat) : State :=
  let x := wingOf s d w
  let v := dieOf s d
  setDie s d { v with
    wings := mput w { x with head := x.head + 1, age := 0, since := v.picks } v.wings
    picks := v.picks + 1
    prestage := v.prestage.filter fun l => !(l.wing == w && l.owner.isNone) }

/-- A program enqueue of n entries fits when the ring then holds at most three quarters of its entries (R305). -/
def programRoom (w : Wing) (n : Nat) : Bool := decide (4 * (wingOcc w + n) ≤ 3 * wingEntries w)

/-- DECL of a record, and the record with a class written into it (R300, R318). -/
def recWord (r : List Byte) (i : Nat) : Nat := bytesNat ((r.drop (8 * i)).take 8)
def recWith (r : List Byte) (i v : Nat) : List Byte := r.take (8 * i) ++ natBytes 8 v ++ r.drop (8 * i + 8)
def recClass (r : List Byte) : Nat := fld (recWord r 6) 43 3
def recSetClass (r : List Byte) (c : Nat) : List Byte :=
  let d := recWord r 6
  recWith r 6 (d - fld d 43 3 * 2 ^ 43 + c % 8 * 2 ^ 43)

/-- Whether a hardware enqueue for a wing finds the ring, or the die's buffer, with room (R305). A disabled or refused wing takes it by
discarding it. -/
def hwRoom (s : State) (d w : Nat) (smOk : Bool) : Bool :=
  let x := wingOf s d w
  let v := dieOf s d
  wingBase x == 0 || (wingSm x && !smOk) ||
  (decide (wingOcc x < wingEntries x) && !v.buffer.any (·.wing == w)) || decide (v.buffer.length < 64)

/-- A hardware enqueue (R304, R305): discarded and counted for a disabled wing, or for a stage-manager wing the cause may not use; else into
the ring, or behind earlier ones in the die's buffer. -/
def hwEnqueue (s : State) (d : Nat) (smOk : Bool) (entry : List Byte) : State :=
  let w := recClass entry
  let x := wingOf s d w
  let v := dieOf s d
  if wingBase x = 0 then logErr s .disabledWing d w 0
  else if wingSm x && !smOk then logErr s .smEnqueue d w 0
  else if wingOcc x < wingEntries x && !v.buffer.any (·.wing == w) then wingAppend s d w entry
  else if v.buffer.length < 64 then setDie s d { v with buffer := v.buffer ++ [⟨w, entry⟩] }
  else s

/-- The first waiting enqueue whose ring has room enters it; one whose wing has been disabled is discarded and counted (R303, R305). -/
def bufferDrain (s : State) (d : Nat) : State :=
  let v := dieOf s d
  match v.buffer.find? (fun b => wingBase (wingOf s d b.wing) == 0 || decide (wingOcc (wingOf s d b.wing) < wingEntries (wingOf s d b.wing))) with
  | none => s
  | some b =>
    let s' := setDie s d { v with buffer := v.buffer.erase b }
    if wingBase (wingOf s' d b.wing) = 0 then logErr s' .disabledWing d b.wing 0 else wingAppend s' d b.wing b.entry

/-- A write to QBASE, of any value, empties the wing (R303). -/
def qbaseSet (s : State) (d w : Nat) (val : Nat) : State :=
  let x := wingOf s d w
  let v := dieOf s d
  let s' := (List.range (wingOcc x)).foldl (fun st k => logErr st .qbaseEntry d w k) s
  let masked := fld val 16 32 * 2 ^ 16 + fld val 4 1 * 2 ^ 4 + fld val 0 4
  let keep := if masked / 2 ^ 16 = 0 then v.buffer.filter (fun b => b.wing != w) else v.buffer
  let s'' := (v.buffer.filter fun b => masked / 2 ^ 16 == 0 && b.wing == w).foldl (fun st _ => logErr st .disabledWing d w 0) s'
  setDie s'' d { v with
    wings := mput w { x with qbase := BitVec.ofNat 64 masked, head := 0, tail := 0, age := 0 } v.wings
    buffer := keep
    prestage := v.prestage.filter fun l => !(l.wing == w && l.owner.isNone) }

/-! ### Registers by BAR0 offset -/

/-- The fields a record image holds (R384). -/
def imageNat (img : List Byte) (off n : Nat) : Nat := bytesNat ((img.drop off).take n)

/-- A telemetry register (R386); what the sensors show is free from the first use of free values on (log 3). -/
def telemetry (s : State) (off : Nat) : Nat :=
  match off with
  | 0x00 => s.house.pstate
  | 0x08 => s.sensors.power
  | 0x10 => s.sensors.current
  | 0x18 => s.sensors.temp
  | 0x20 => s.house.throttle
  | 0x28 => s.house.clock
  | _ => 0

/-- The configuration block (R384). -/
def configWord (s : State) (off : Nat) : Nat :=
  let h := s.house
  if off = 0 then h.bootstat.toNat
  else if off = 8 then imageNat h.record 0 8
  else if off = 0x10 then h.stagestat.toNat
  else if off = 0x18 then h.pcounter
  else if off = 0x20 then h.proposal.length
  else if 0x40 ≤ off ∧ off < 0x80 then fld h.digest (8 * (off - 0x40)) 64
  else if 0x800 ≤ off ∧ off < 0x1000 then imageNat h.proposal (off - 0x800) 8
  else 0

/-- One word of a die's control block (R303, R365, R375, R376). -/
def dieWord (s : State) (d off : Nat) : Nat :=
  if off < 0x200 then
    let w := wingOf s d (off / 0x40)
    match off % 0x40 with
    | 0x00 => w.qbase.toNat
    | 0x08 => w.head % wingEntries w * 2 ^ 32 + w.tail % wingEntries w
    | 0x10 => w.qroot.toNat
    | 0x18 => w.dropped
    | _ => 0
  else if off = 0x400 then (dieOf s d).ctab.toNat
  else if off = 0x408 then (dieOf s d).savebase.toNat
  else 0

/-- A host's attestation block (R385). -/
def attestWord (b : HostBlock) (off : Nat) : Nat :=
  if off < 0x20 then fld b.nonce (8 * off) 64
  else if off = 0x20 then (if b.request then 1 else 0) + (if b.ready then 2 else 0)
  else if 0x40 ≤ off ∧ off < 0x200 then imageNat b.report (off - 0x40) 8
  else 0

/-- Whether a BAR0 offset holds a register at all. -/
def bar0Occupied (off : Nat) : Bool :=
  off == 0 || (decide (0x1000 ≤ off) && decide (off < 0x1030)) ||
  (decide (0x2000 ≤ off) && decide (off < 0x2028)) || (decide (0x2040 ≤ off) && decide (off < 0x20C0)) ||
  (decide (0x2800 ≤ off) && decide (off < 0x3000)) || off == 0x4000 || off == 0x4008 ||
  (decide (0x100000 ≤ off) && decide (off < 0x180000) &&
    (let o := off % 0x10000
     (decide (o < 0x200) && decide (o % 0x40 < 0x20)) || o == 0x400 || o == 0x408 || (decide (0x1000 ≤ o) && decide (o < 0x1200)))) ||
  (decide (0x1000000 ≤ off) && decide (off < 0x1200000) && decide (off % 0x1000 < 0x10))

/-- A core's debug block, of which R371 and R375 give no layout: word 0 says whether the debug port holds the core stopped, word 8 what the last
access reported (log 20). -/
def debugWord (s : State) (core off : Nat) : Nat :=
  let c := coreOf s core
  if off = 0 then (if c.debugStop then 1 else 0) else if off = 8 then c.debugNote else 0

/-- An 8-byte read of a BAR0 offset, the attestation block apart (R375). -/
def bar0Read (s : State) (off : Nat) : Nat :=
  if off = 0 then s.house.modid.toNat
  else if 0x1000 ≤ off ∧ off < 0x2000 then telemetry s (off - 0x1000)
  else if 0x2000 ≤ off ∧ off < 0x3000 then configWord s (off - 0x2000)
  else if off = 0x4000 then s.house.dommask.toNat
  else if off = 0x4008 then s.house.redbase.toNat
  else if 0x100000 ≤ off ∧ off < 0x180000 then dieWord s ((off - 0x100000) / 0x10000) (off % 0x10000)
  else if 0x1000000 ≤ off ∧ off < 0x1200000 then debugWord s ((off - 0x1000000) / 0x1000) (off % 0x1000)
  else 0

/-- THROTTLE (R386): writing any value sets it to that value. -/
def throttleSet (s : State) (v : Nat) : State := { s with house := { s.house with throttle := v % 2 ^ 32 } }

/-- PSTATE (R386): 2 and 3 act as 1, and the field keeps what was written. -/
def pstateSet (s : State) (v : Nat) : State := { s with house := { s.house with pstate := v % 4 } }

/-- PUSHSTAT (R376). -/
def pushstatSet (s : State) (d w v : Nat) : State := setWing s d w { wingOf s d w with dropped := v % 2 ^ 32 }

/-- An 8-byte write of a register of a die's control block (R303, R365, R376); a write to PUSH by eight bytes is no push (R376). -/
def dieWrite (s : State) (d off v : Nat) : State :=
  if off < 0x200 then
    let w := off / 0x40
    match off % 0x40 with
    | 0x00 => qbaseSet s d w v
    | 0x08 => s
    | 0x10 => setWing s d w { wingOf s d w with qroot := BitVec.ofNat 64 (fld v 32 28 * 2 ^ 32 + fld v 0 28) }
    | 0x18 => pushstatSet s d w v
    | _ => logErr s .unmapped (controlBase + 0x100000 + d * 0x10000 + off) 0 0
  else if off = 0x400 then setDie s d { dieOf s d with ctab := BitVec.ofNat 64 (v % 2 ^ 53) }
  else if off = 0x408 then setDie s d { dieOf s d with savebase := BitVec.ofNat 64 (fld v 27 14 * 2 ^ 27) }
  else if 0x1000 ≤ off ∧ off < 0x1200 then
    pushstatSet s d ((off - 0x1000) / 0x40) ((wingOf s d ((off - 0x1000) / 0x40)).dropped + 1)
  else logErr s .unmapped (controlBase + 0x100000 + d * 0x10000 + off) 0 0

/-- An 8-byte write of a BAR0 offset, the attestation block and APPROVE apart (R375, R379, R384, R386). -/
def bar0Write (s : State) (off v : Nat) : State :=
  if off = 0x1000 then pstateSet s v
  else if off = 0x1020 then throttleSet s v
  else if 0x1000 ≤ off ∧ off < 0x1030 then s
  else if off = 0 then { s with house := { s.house with modid := BitVec.ofNat 64 (fld v 0 5 + fld v 8 8 * 2 ^ 8) } }
  else if off = 0x4000 then { s with house := { s.house with dommask := BitVec.ofNat 64 (v % 2 ^ 32) } }
  else if off = 0x4008 then { s with house := { s.house with redbase := BitVec.ofNat 64 (fld v 20 21 * 2 ^ 20 + v % 2) } }
  else if 0x100000 ≤ off ∧ off < 0x180000 then dieWrite s ((off - 0x100000) / 0x10000) (off % 0x10000) v
  else logErr s .unmapped (controlBase + off) 0 0

end Sys2Proof.Machine
end

