-- ==== Sys2Proof/Machine/Land.lean ====
section
/-! DEFINITION. The exposed pipelines (R35, R43-R45, R48), the landing of every kind of result, and the scalar accesses that perform on
their own (R54, R98, R99, R335-R338). -/

namespace Sys2Proof.Machine

/-! ### System registers written (R109) -/

/-- TLB entries of a space dropped on a SYSWR to its root: all of the core's, and the die's made under the old or new root (R358). -/
def dropTlb (s : State) (core : Nat) (inst : Bool) (old new : Nat) : State :=
  let c := coreOf s core
  let s' := setCoreOf s core (if inst then { c with itlb := [] } else { c with dtlb := [] })
  let d := dieOf s' (dieOfCore core)
  let keep (l : List TlbEnt) := l.filter fun t => t.root != old && t.root != new
  setDie s' (dieOfCore core) (if inst then { d with itlb := keep d.itlb } else { d with dtlb := keep d.dtlb })

/-- Bits of a root value that exist (R356). -/
def rootBits (v : Word) : Word := BitVec.ofNat 64 (fld v.toNat 13 28 * 2 ^ 13)

/-- A system register written at the boundary; read-only fields and reserved bits ignore the write (R4, R108, R109). -/
def sysWrite (s : State) (core n : Nat) (v : Word) : State :=
  let c := coreOf s core
  let x := c.ctx
  let put (x' : Ctxt) : State := setCoreOf s core { c with ctx := x' }
  if n = 3 then put { x with rot := v.toNat % 16 }
  else if n = 4 then put { x with sticky := stickyClear x.sticky v }
  else if n = 5 then put { x with nopre := if v = 0#64 then none else some (x.nopre.getD 0) }
  else if 8 ≤ n ∧ n ≤ 15 then put { x with bregs := mput (n - 8) v x.bregs }
  else if n = 0x10 then
    put { x with cause := (x.cause &&& BitVec.ofNat 64 (2 ^ 62)) ||| (v &&& BitVec.ofNat 64 (2 ^ 63 + 255)) }
  else if n = 0x11 then put { x with faultpc := v, faultpcSet := true }
  else if n = 0x12 then put { x with faultinfo := v }
  else if n = 0x13 then put { x with shapeinfo := v }
  else if n = 0x14 then setCoreOf s core { c with tvec := v }
  else if n = 0x15 then put { x with esave := v }
  else if n = 0x16 then put { x with rehearse := v.getLsbD 0 }
  else if n = 0x20 then dropTlb (put { x with iroot := rootBits v }) core true (rootPa x.iroot) (rootPa v)
  else if n = 0x21 then dropTlb (put { x with droot := rootBits v }) core false (rootPa x.droot) (rootPa v)
  else if n = 0x30 then setCoreOf s core { c with migctl := v &&& 0xFE9#64 }
  else if n = 0x31 then setCoreOf s core { c with duetctl := v &&& 0xF#64 }
  else if n = 0x32 then setCoreOf s core { c with capf := v &&& 0xFFFF#64 }
  else if 0x40 ≤ n ∧ n ≤ 0x43 then
    setCoreOf s core { c with
      evsel := mput (n - 0x40) (v &&& 0x1FF#64) c.evsel
      evcnt := if v.getLsbD 9 then mput (n - 0x40) 0 c.evcnt else c.evcnt }
  else s

/-- One event counted by every counter that selects it (R112). -/
def countEvent (c : Core) (code : Nat) : Core :=
  let hit (n : Nat) : Bool := let e := mget 0 n c.evsel; e.getLsbD 8 && e.toNat % 256 == code
  { c with evcnt := (List.range 4).foldl (fun m n => if hit n then mput n (mget 0 n m + 1) m else m) c.evcnt }

/-! ### Landing -/

/-- Bank bits f..f+n-1. -/
def bankBits (f n : Nat) : BitVec 256 := BitVec.ofNat 256 ((2 ^ n - 1) * 2 ^ f)

/-- A result that lands in a row of banks f..f+n-1 loses its write (R166). -/
def dropRows (f n : Nat) (fl : Flight) : Flight :=
  match fl.upd with
  | some (.row r _ _) => if f ≤ r / 4 ∧ r / 4 < f + n then { fl with upd := none } else fl
  | _ => fl

/-- A row or tag range given one value. -/
def fillRows {α : Type} (v : α) (m : List (Nat × α)) (r n : Nat) : List (Nat × α) :=
  (List.range n).foldl (fun acc k => mput (r + k) v acc) m

/-- One update performed on a core. -/
def applyUpd (s : State) (core : Nat) (u : Upd) : State :=
  let c := coreOf s core
  let x := c.ctx
  let put (x' : Ctxt) : State := setCoreOf s core { c with ctx := x' }
  match u with
  | .sreg n v => put (setSreg x n v)
  | .pred n v => put (setPred x n v)
  | .breg n v => put { x with bregs := mput n v x.bregs }
  | .kmask n b k => put { x with kmasks := mput n (b, k) x.kmasks }
  | .row r v tag =>
    if holdsBank x (r / 4) then
      written (setCoreOf s core { c with rows := mput r v c.rows, tags := mput r tag c.tags }) (windowPa core (0x200000 + 512 * r)) 512
    else s
  | .spad off n v => coreStore s core off (natBytes n v)
  | .tile t tw bd => let o := tileOf x t; put { x with tiles := mput t ⟨tw.getD o.tw, bd.getD o.bd⟩ x.tiles }
  | .dim n v => put { x with dims := mput n { dimOf x n with val := v } x.dims }
  | .dimLimit n b => put { x with dims := mput n { dimOf x n with limit := b } x.dims }
  | .sys n v => sysWrite s core n v
  | .port z p => put { x with ports := mput z p x.ports }
  | .accAlloc f n =>
    written (setCoreOf s core { c with
      ctx := { x with held := x.held ||| bankBits f n }
      rows := fillRows 0 c.rows (4 * f) (4 * n)
      tags := fillRows none c.tags (4 * f) (4 * n) }) (windowPa core (0x200000 + 2048 * f)) (2048 * n)
  | .accFree f n =>
    put { x with
      held := x.held &&& ~~~(bankBits f n)
      inflight := x.inflight.map (dropRows f n)
      trapCap := x.trapCap.map (dropRows f n)
      window := match x.window with
        | some w => if w / 4 < f + n ∧ f < w / 4 + 12 then none else some w
        | none => none }
  | .accWin w fmt =>
    setCoreOf s core { c with ctx := { x with window := some w, wfmt := fmt, rot := 0 }, tags := fillRows (some fmt) c.tags w 48 }
  | .rot v => put { x with rot := v }
  | .tree t => put { x with tree := t }
  | .pgMem dest ws =>
    put { x with pgMem := (List.range ws.length).foldl (fun m k => mput (dest + k) (ws.getD k 0) m) x.pgMem }
  | .pgCtx g p => put { x with pgCtxs := mput g p x.pgCtxs }
  | .latchType l tw col g =>
    let o := latchOf x l
    put { x with latches := mput l { o with tw := tw, col := col, grp := g.getD o.grp } x.latches }

/-- The register that a result was written to (R371). -/
def updSrc : Option Upd → Option LatchSrc
  | some (.row r _ _) => some (.row r)
  | some (.sreg n _) => some (.sreg n)
  | some (.kmask n _ _) => some (.kmask n)
  | _ => none

/-- One flight lands: its flags, its bypass entry as q0 (R35), its write. The payload of VSORT and the differences of VDELTA are written to no
register (R193), so no debug write marks their latch. -/
def landOne (core : Nat) (s : State) (fl : Flight) : State :=
  let c := coreOf s core
  let x := c.ctx
  let x' : Ctxt := { x with
    sticky := stickySet x.sticky fl.flags
    bypass := match fl.byp with
      | some (v, tag) => (⟨true, v, tag, if fl.apart then none else updSrc fl.upd⟩ :: x.bypass).take 8
      | none => x.bypass }
  let s' := setCoreOf s core { c with ctx := x' }
  match fl.upd with
  | some u => applyUpd s' core u
  | none => s'

/-- One step of the exposed pipelines: what is due lands, in issue order and then slot order (R43-R45); `fresh` counts the bypass entries of
this boundary (R41). -/
def pipeStep (s : State) (core : Nat) : State :=
  let c := coreOf s core
  let due := c.ctx.inflight.filter fun fl => decide (fl.left ≤ 1)
  let rest := (c.ctx.inflight.filter fun fl => decide (1 < fl.left)).map fun fl => { fl with left := fl.left - 1 }
  let fresh := (due.filter fun fl => fl.byp.isSome).length
  due.foldl (landOne core) (setCoreOf s core { c with ctx := { c.ctx with inflight := rest, fresh := fresh } })

/-- A sequencer write in flight to a range that a command reads (R334). -/
def landsFirst (x : Ctxt) (rs : List Range) : Bool :=
  (x.inflight ++ x.trapCap).any fun fl => match fl.upd with
    | some (.row r _ _) => rs.any fun q => !q.write && meets (0x200000 + 512 * r) 512 q
    | some (.spad o n _) => rs.any fun q => !q.write && meets o n q
    | _ => false

/-! ### Scalar accesses that perform on their own -/

/-- The bundle, by its number on the core, that a place in the order of accesses or of results belongs to: each bundle starts a new block of 256
places (R334). -/
def bundleOf (n : Nat) : Nat := n / 256

/-- The scope level at which access b, which stands before a in the core's pipe, performs before a may: 0 none, 3 for every agent. Scalar
accesses to the same bytes keep their order, and so do the writes of one copy engine; an acquire holds back what later bundles issue, and a
release waits for what earlier bundles issued, a copy engine's writes not among it (R335-R338, R340). -/
def orderLevel (b a : Access) : Nat :=
  let same := b.clash a
  let older := decide (bundleOf b.seq < bundleOf a.seq)
  match b.kind, a.kind with
  | .reply, _ | .audition _, _ => 0
  | .posted e, .posted f => if e == f && same then 3 else 0
  | .posted _, _ => 0
  | _, .posted _ => if older && same then 3 else if older && b.acq then scopeLevel b.scope else 0
  | _, _ =>
    if same then 3
    else max (if older && b.acq then scopeLevel b.scope else 0) (if older && a.rel then scopeLevel a.scope else 0)

/-- Whether an access may perform at a scope level with `before` still in flight ahead of it (R335-R340). The verdict of an ADMIT that names s0
stays for its bundle (R83). -/
def mayPerform (level : Nat) (before : List Access) (a : Access) : Bool :=
  match a.kind with
  | .reply => a.dst != 0 && level == 3
  | .audition _ => false
  | _ => before.all fun b => decide (min (orderLevel b a) level ≤ b.upto)

/-- A release waits for the writes of earlier bundles to the core's own storage that have not landed (R334, R337); what a trap captured lands
after the handler and does not hold it back (log 88). -/
def landsBefore (x : Ctxt) (a : Access) : Bool := a.rel && !postedAccess a && x.inflight.any fun fl =>
  decide (bundleOf fl.ord < bundleOf a.seq) && (match fl.upd with | some (.row ..) | some (.spad ..) => true | _ => false)

/-- Whether a write waits at the window it goes to: in a write-busy range of its owner, or behind an outside agent's write that waits there
(R258). -/
def gateShut (s : State) (a : Access) : Bool :=
  writesMemory a && isWindow a.pa && enabled s (windowCore a.pa) && decide (windowOff a.pa < 0x200000) &&
    a.parts.any fun p => scratchHeld s (windowCore a.pa) (windowOff p.1) p.2

/-- Whether two accesses of a core come from different units: its sequencer, or one of its copy engines. -/
def apartFrom (a b : Access) : Bool :=
  match a.kind, b.kind with
  | .posted e, .posted f => e != f
  | _, _ => postedAccess a != postedAccess b

/-- Whether what a core is ordered after keeps an access from its first performance at any scope: to the same bytes, or as a release that is
cumulative (R332, R338, R340). -/
def orderHeld (s : State) (core : Nat) (a : Access) : Bool :=
  decide (a.upto = 0) &&
    (a.parts.any (fun p => scopeHeld s core p.1 p.2 (writesMemory a) (apartFrom a)) || (a.rel && !postedAccess a && owes s core (scopeLevel a.scope)))

/-- Whether the access at a place of a core's pipe may perform at a scope level. -/
def mayGo (s : State) (core level idx : Nat) : Bool :=
  let c := coreOf s core
  match c.pend[idx]? with
  | some a =>
    mayPerform level (c.pend.take idx) a && decide (a.upto < level) &&
      (!memoryAccess a || (!landsBefore c.ctx a && !gateShut s a && !orderHeld s core a))
  | none => false

/-- The access at a place leaves the pipe, its register value delivered: to the running context, or to the saved context of its class and its
image (R54, R363). -/
def deliver (s : State) (core idx : Nat) (a : Access) (v : Word) : State :=
  let c := coreOf s core
  let pend := c.pend.eraseIdx idx
  match a.home with
  | none => setCoreOf s core { c with pend := pend, ctx := setSreg c.ctx a.dst v }
  | some k =>
    let y := mget Ctxt.start k c.saved
    let s' := setCoreOf s core { c with pend := pend, saved := mput k (setSreg y a.dst v) c.saved }
    match y.saveBase with
    | some b => if a.dst = 0 then s' else physWrite s' (b + 0x100 + 8 * a.dst) (natBytes 8 v.toNat)
    | none => s'

/-- A pit trap record or a boundary DATAERR given to the cue that issued it, if it still exists; else the error log takes the cause (R297). -/
def deliverTrap (s : State) (core serial : Nat) (t : PitTrap) : State :=
  let c := coreOf s core
  let add (x : Ctxt) : Option Ctxt := if x.pitTraps.length < 16 then some { x with pitTraps := x.pitTraps ++ [t] } else none
  let lost (x : Ctxt) : Ctxt := { x with sticky := stickySet x.sticky flagPitLost }
  if c.status = .running && c.ctx.serial == serial then
    match add c.ctx with
    | some x => setCoreOf s core { c with ctx := x }
    | none => logErr4 (setCoreOf s core { c with ctx := lost c.ctx }) .pitDropped core serial t.tag t.code
  else match c.saved.find? fun e => e.2.serial == serial with
    | some e => match add e.2 with
      | some x =>
        let s' := setCoreOf s core { c with saved := mput e.1 x c.saved }
        match x.saveBase with
        | some b =>
          let s'' := physWrite s' (b + 0xA00 + 16 * e.2.pitTraps.length) (natBytes 8 t.code ++ natBytes 8 t.info.toNat)
          physWrite s'' (b + 0xB8) (natBytes 8 x.pitTraps.length)
        | none => s'
      | none => logErr4 (setCoreOf s core { c with saved := mput e.1 (lost e.2) c.saved }) .pitDropped core serial t.tag t.code
    | none => logErr4 s .pitGone core serial t.tag t.code

/-- An access fails with an uncorrectable error: its register keeps its value and is free, and DATAERR waits for the register's next use,
or for a boundary when there is none (R98, R99, R297). -/
def accessError (s : State) (core idx : Nat) (a : Access) : State :=
  let c := coreOf s core
  let c' : Core := { c with pend := c.pend.eraseIdx idx }
  let note (x : Ctxt) : Ctxt := { x with regErrs := x.regErrs ++ [⟨a.dst, a.va⟩] }
  if a.dst = 0 then deliverTrap (setCoreOf s core c') core a.serial ⟨14, BitVec.ofNat 64 a.va, true, 0⟩
  else match a.home with
    | none => setCoreOf s core { c' with ctx := note c.ctx }
    | some k => setCoreOf s core { c' with saved := mput k (note (mget Ctxt.start k c.saved)) c.saved }

/-- Whether an aligned 8-byte LDG or STG meets a register of the control range, which answers no other access (R375). -/
def controlHit (pa n : Nat) : Bool := isControl pa && n == 8 && bar0Occupied (pa - controlBase)

/-- The value read by a load of n bytes: memory, a window, or a control register (R360, R375). -/
def accessRead (s : State) (pa n : Nat) : Nat := if controlHit pa n then bar0Read s (pa - controlBase) else physNat s pa n

/-- The write of a store; elsewhere in the control range it is discarded and logged (R375). -/
def accessWrite (s : State) (pa n v : Nat) : State :=
  if controlHit pa n then bar0Write s (pa - controlBase) v else physWrite s pa (natBytes n v)

/-- A copy engine's write performs, its parts together; where it is discarded, as one (R9, R168, R333). -/
def postedWrite (s : State) (a : Access) : State :=
  let bs := natBytes a.size a.data
  if a.hole = 0 || inDisabled s a.pa then physWrite s a.pa bs
  else a.parts.foldl (fun st p => physWrite st p.1 ((bs.drop (p.1 - a.pa)).take p.2)) s

/-- What a release has written is noted as its word (R337); an AMO that met an error has written nothing (R99). -/
def releasedBy (s : State) (core : Nat) (a : Access) : State :=
  let failed : Bool := match a.kind with | .amo _ => isBad s a.pa a.size | _ => false
  if a.rel && writesMemory a && !failed then released s a.pa a.size core (scopeLevel a.scope) else s

/-- The access at a place of a core's pipe acts, and leaves it. -/
def performOne (s : State) (core idx : Nat) (a : Access) : State :=
  let met : State := piecesMet s [(a.pa, a.size)]
  match a.kind with
  | .load =>
    if isBad s a.pa a.size then accessError met core idx a
    else deliver (if controlHit a.pa a.size then s else noteRead s a.pa) core idx a (BitVec.ofNat 64 (accessRead s a.pa a.size))
  | .store => deliver (accessWrite s a.pa a.size a.data) core idx a 0
  | .amo fn =>
    if isBad s a.pa a.size then accessError met core idx a
    else
      let old := physNat s a.pa a.size
      deliver (physWrite s a.pa (natBytes a.size (amoNew fn a.size old a.data a.swap))) core idx a (BitVec.ofNat 64 old)
  | .block | .posted _ => deliver (postedWrite s a) core idx a 0
  | .reply => deliver s core idx a (BitVec.ofNat 64 a.data)
  | .audition _ => s

/-- The access at a place of a core's pipe performs; a release leaves its word, and an acquire orders what the core does next after all it finds
performed (R337, R338). -/
def performAccess (s : State) (core idx : Nat) (a : Access) : State :=
  let t := releasedBy (performOne s core idx a) core a
  if a.acq then observe t core (scopeLevel a.scope) else t

/-- The access at a place of a core's pipe performs if it may. -/
def performAt (s : State) (core idx : Nat) : State :=
  match (coreOf s core).pend[idx]? with
  | some a => if mayGo s core 3 idx then performAccess s core idx a else s
  | none => s

/-- Whether the storage that a write goes to belongs to a core for which a scope of this core counts: its own accesses would have to see the write
at once, so such a write performs for every agent together (R332). -/
def insider (core level pa : Nat) : Bool :=
  isWindow pa && (if level = 1 then windowCore pa == core else dieOfCore (windowCore pa) == dieOfCore core)

/-- An access performs at a narrow scope, if it may: it counts as performed for the accesses that the core orders after it there, and the
register of a store at that scope receives its 0 (R98, R332, R340). -/
def scopedAt (s : State) (core idx level : Nat) : State :=
  let c := coreOf s core
  match c.pend[idx]? with
  | none => s
  | some a =>
    if memoryAccess a && decide (level ≤ 2) && !insider core level a.pa && mayGo s core level idx then
      let done := a.kind == .store && a.home.isNone && decide (scopeLevel a.scope ≤ level)
      let a' : Access := { a with upto := level, dst := if done then 0 else a.dst }
      let s' := setCoreOf s core { c with pend := c.pend.set idx a', ctx := if done then setSreg c.ctx a.dst 0 else c.ctx }
      if a.acq && decide (scopeLevel a.scope ≤ level) then observe s' core (scopeLevel a.scope) else s'
    else s

/-- The place of the first access of a core that may perform. -/
def firstReady (s : State) (core : Nat) : Option Nat := (List.range (coreOf s core).pend.length).find? (mayGo s core 3)

/-- The first outside agent's write that its range no longer holds, nor an earlier one to the same bytes (R258). -/
def heldReady (s : State) (core : Nat) : Option (Nat × HeldWrite) :=
  let c := coreOf s core
  let rs := busyRanges s core
  let shut (i : Nat) (h : HeldWrite) : Bool := rs.any (fun r => r.write && meets h.off h.data.length r) ||
    (c.remote.take i).any fun g => overlaps g.off g.data.length h.off h.data.length
  (List.range c.remote.length).findSome? fun i =>
    (c.remote[i]?).bind fun h => if shut i h then none else some (i, h)

/-- The first such write performs. -/
def heldPerform (s : State) (core : Nat) : State :=
  match heldReady s core with
  | some (i, h) =>
    let c := coreOf s core
    outsideStore (setCoreOf s core { c with remote := c.remote.eraseIdx i }) core h.off h.data
  | none => s

end Sys2Proof.Machine
end

