-- ==== Sys2Proof/Machine/Admit.lean ====
section
/-! DEFINITION. ADMIT: the descriptor, the audition's passes over header and text, the report (R81-R85), and the admission table (R359). -/

namespace Sys2Proof.Machine

/-! ### Declarations (R76) -/

/-- A declaration that exceeds what the part takes. -/
def declExceeds (d : Word) : Bool :=
  decide (3 < declProfile d) || decide (2048 < declMarks d) || decide (32 < declTiles d) || decide (256 < declBanks d)

/-- A malformed declaration; FLAGS count in a code-object header alone. -/
def declMalformed (header : Bool) (d : Word) : Bool := declProfile d == 0 || (header && d.toNat / 2 ^ 46 != 0)

/-! ### The segment -/

/-- Bytes of an 8 MiB unit. -/
def unitBytes : Nat := 2 ^ 23

/-- The segment ends here. -/
def auditEndVa (a : Audit) : Nat := a.ibase + a.pages * unitBytes

/-- The leaf that maps a unit of a segment, walked under its IROOT. -/
def auditLeaf (s : State) (a : Audit) (u : Nat) : Option TlbEnt :=
  let va := a.ibase + u * unitBytes
  if 2 ^ 53 ≤ va then none
  else match walk s (dieOfCore a.core) true va 4 0 a.iroot with
    | .error _ => none
    | .ok w => some ⟨a.iroot, va / levelSize w.2.1 * levelSize w.2.1, levelSize w.2.1, w.1, w.2.2, false⟩

/-- The leaves of a segment, each once. -/
def auditLeaves (s : State) (a : Audit) : List TlbEnt :=
  (List.range a.pages).foldl (fun acc u => match auditLeaf s a u with
    | some t => if acc.any fun o => o.leafAddr == t.leafAddr then acc else acc ++ [t]
    | none => acc) []

/-- The walks of a segment's leaves leave their notes (R9, R372). -/
def auditWalked (s : State) (a : Audit) : State := (List.range a.pages).foldl (fun st u =>
  let va := a.ibase + u * unitBytes
  let die := dieOfCore a.core
  if 2 ^ 53 ≤ va then st else noteMet st (notable st (walkReads st die true va 4 0 a.iroot))) s

/-- Step 2: the range is staged: the leaves that map it now, and those that were admitted for it under its IROOT (R83, R359); no instruction TLB or
cache keeps it. -/
def auditWithdraw (s0 : State) (a : Audit) : State :=
  if a.bad then s0
  else
    let s := auditWalked s0 a
    let meets (t : TlbEnt) : Bool := decide (t.vbase < auditEndVa a) && decide (a.ibase < t.vbase + t.size)
    let as := (auditLeaves s a ++ s.house.admission.filter fun t => t.root == a.iroot && meets t).map (·.leafAddr)
    let keep (l : List TlbEnt) : List TlbEnt := l.filter fun t => !meets t
    let cold (l : List (Nat × Nat)) : List (Nat × Nat) := l.filter fun b => !(decide (a.ibase ≤ b.2) && decide (b.2 < auditEndVa a))
    let h := s.house
    { s with
      house := { h with
        admission := h.admission.filter fun e => !as.contains e.leafAddr
        waived := h.waived.filter fun e => !as.contains e.1 }
      cores := s.cores.map fun c => (c.1, { c.2 with itlb := keep c.2.itlb, icache := cold c.2.icache })
      dies := s.dies.map fun d => (d.1, { d.2 with itlb := keep d.2.itlb }) }

/-- The bytes of a frame as they stand now, kept as admitted (R80). -/
def keepText (old now : Memory) (lo n : Nat) : Memory :=
  old.filter (fun e => decide (e.1 < lo)) ++ (now.filter (fun e => decide (lo ≤ e.1) && decide (e.1 < lo + n)) ++
    old.filter (fun e => decide (lo + n ≤ e.1)))

/-- The bytes of a frame other than zero: of memory as it lists them, of core windows as other agents read them. -/
def frameCells (s : State) (lo n : Nat) : Memory :=
  if isWindow lo then (List.range n).filterMap fun k => let b := physByte s (lo + k); if b = 0 then none else some (lo + k, b)
  else s.mem

/-- No instruction TLB keeps a leaf. -/
def dropLeaf (s : State) (leafAddr : Nat) : State :=
  let keep (l : List TlbEnt) : List TlbEnt := l.filter fun t => t.leafAddr != leafAddr
  { s with
    cores := s.cores.map fun c => (c.1, { c.2 with itlb := keep c.2.itlb })
    dies := s.dies.map fun d => (d.1, { d.2 with itlb := keep d.2.itlb }) }

/-- One leaf admitted, waived only if this audition waived its text (R84); a full table loses its earliest entry, whose page is staged (R359, log 87).
-/
def admitLeaf (w : Bool) (s : State) (t : TlbEnt) : State :=
  let h := s.house
  let full := h.admission.filter (fun e => e.leafAddr != t.leafAddr) ++ [t]
  let s1 : State := { s with house := { h with
    admission := full
    waived := h.waived.filter (fun e => e.1 != t.leafAddr) ++ (if w then [(t.leafAddr, t.leaf)] else [])
    text := keepText h.text (frameCells s (entryPa t.leaf) t.size) (entryPa t.leaf) t.size } }
  if Config.admissionEntries < full.length then
    match full with
    | e :: rest => dropLeaf (logErr { s1 with house := { s1.house with admission := rest } } .admissionEvicted e.leafAddr e.leaf 0) e.leafAddr
    | [] => s1
  else s1

/-! ### Check 1: the header (R75, R84) -/

/-- Data bytes that the pass reads under the issuing cue's DROOT; none where they do not translate. -/
def auditData (s : State) (a : Audit) (va n : Nat) : Option (List Byte) :=
  match xlateSpan s a.core .stageManager a.droot va n true false with
  | .ok ps => some (readPieces s ps)
  | .error _ => none

/-- A field of the header's bytes. -/
def hdr (h : List Byte) (o n : Nat) : Nat := bytesNat ((h.drop o).take n)

/-- The bytes of a code object, as far as the header tells (log 15). -/
def objectEnd (h : List Byte) : Nat := max 128 (hdr h 0x50 8 + hdr h 0x10 8) + Config.objectTail (bytesNat h)

/-- The first bad record of a table, by an offset within the object; a record that does not translate fails at the table's offset field (log 94).
Arguments: offset of the field that names the table, record size, and the reserved part as (offset, size, shift). -/
def auditRecords (s : State) (a : Audit) (h : List Byte) (tab count size : Nat) (bad : Nat → Bool) (resv : Nat) : Option Nat :=
  (List.range count).findSome? fun i =>
    match auditData s a (a.header + hdr h tab 8 + size * i) size with
    | none => some tab
    | some bs => if bad (bytesNat bs) then some (hdr h tab 8 + size * i + resv) else none

/-- The first failing field of the header itself, by offset: the tests run in ascending offset; a declaration fails at DECL, and a table outside the
object at its offset field. R84 gives neither the order nor these offsets (log 94). A table of no records counts as outside where its offset does: R84
does not except it (log 109). -/
def headerFieldBad (a : Audit) (h : List Byte) : Option Nat :=
  let d := BitVec.ofNat 64 (hdr h 8 8)
  let within (tab count size : Nat) : Bool := decide (hdr h tab 8 + size * hdr h count 4 ≤ objectEnd h)
  if hdr h 0 4 ≠ 0x314B5A55 then some 0
  else if hdr h 4 2 ≠ 1 then some 4
  else if hdr h 6 2 ≠ 0 then some 6
  else if declMalformed true d || declExceeds d then some 8
  else if a.pages * unitBytes < hdr h 0x10 8 then some 0x10
  else if !within 0x30 0x20 16 then some 0x30
  else if !within 0x38 0x24 4 then some 0x38
  else if hdr h 0x18 8 < hdr h 0x40 8 + 8 * hdr h 0x28 4 then some 0x40
  else if !within 0x48 0x2C 16 then some 0x48
  else if hdr h 0x58 40 ≠ 0 then some 0x58 else none

/-- The first failing field of the header or of its tables' records, which are tested last, table by table (log 94). -/
def headerBad (s : State) (a : Audit) (h : List Byte) : Option Nat :=
  (headerFieldBad a h).or <| (auditRecords s a h 0x30 (hdr h 0x20 4) 16 (fun e => fld e 40 24 != 0) 5).or <|
  (auditRecords s a h 0x38 (hdr h 0x24 4) 4 (fun e => fld e 12 20 != 0) 0).or (auditRecords s a h 0x48 (hdr h 0x2C 4) 16 (fun _ => false) 0)

/-! ### The text (R84, R85) -/

/-- What the pass remembers between words: delay bundles still to come, the open region's bundle, the marks initialised, the waits met. -/
structure Scan where
  shadow : Nat
  region : Option Nat
  inits : List Nat
  waits : List (Nat × Nat)
  deriving DecidableEq, Repr

/-- A verdict: check code, offset, slot. -/
abbrev Verdict := Nat × Nat × Nat

/-- The vector sources of an operation, which may hold code 61 (R33). -/
def vecCodes : Instr → List Nat
  | .vadd _ a b _ _ => [a, b]
  | .vsub _ a b _ _ => [a, b]
  | .vmin _ a b _ _ => [a, b]
  | .vmax _ a b _ _ => [a, b]
  | .vabs _ a _ _ => [a]
  | .vneg _ a _ _ => [a]
  | .vmul _ a b _ _ => [a, b]
  | .vfma _ a b _ _ => [a, b]
  | .vfms _ a b _ _ => [a, b]
  | .vrcp _ a _ _ => [a]
  | .vrsq _ a _ _ => [a]
  | .vsqrt _ a _ _ => [a]
  | .vexp2 _ a _ _ => [a]
  | .vlog2 _ a _ _ => [a]
  | .vtanh _ a _ _ => [a]
  | .viadd _ a b _ _ => [a, b]
  | .visub _ a b _ _ => [a, b]
  | .vimul _ a b _ _ => [a, b]
  | .vimin _ a b _ _ => [a, b]
  | .vimax _ a b _ _ => [a, b]
  | .vand _ a b _ _ => [a, b]
  | .vor _ a b _ _ => [a, b]
  | .vxor _ a b _ _ => [a, b]
  | .vshl _ a _ _ _ => [a]
  | .vshr _ a _ _ _ => [a]
  | .vsra _ a _ _ _ => [a]
  | .vcmp _ a b _ _ _ => [a, b]
  | .vsel _ a b _ _ _ => [a, b]
  | .vcvt _ a _ _ _ _ => [a]
  | .vbcast _ a _ _ => [a]
  | .vmov _ a _ _ => [a]
  | .vshuf _ a b _ _ => [a, b]
  | .vslideUp _ a _ _ _ => [a]
  | .vslideDn _ a _ _ _ => [a]
  | .vred _ a _ _ _ => [a]
  | .vscan _ a _ _ _ => [a]
  | .vsegred _ a b _ _ _ => [a, b]
  | .vsortAsc _ a b _ _ => [a, b]
  | .vsortDesc _ a b _ _ => [a, b]
  | .vcompact _ a _ _ _ => [a]
  | .vexpand _ a _ _ _ => [a]
  | .vdelta _ a b _ _ => [a, b]
  | .vrope _ a b _ _ => [a, b]
  | .vsmax _ a b _ _ => [a, b]
  | .vst s _ _ _ _ => [s]
  | .vmovs _ a _ _ _ => [a]
  | _ => []

/-- The marks, waits and region of a C-slot operation, by bundle (R84 code 6, R85). Of the 65,536 bundles of a region the one that opens it is not
counted and the one that closes it is: the manual does not say which are (log 94). A region still open after the last delay bundle of a transfer is
not closed in straight-line order. -/
def scanC (b off : Nat) (i : Instr) (sc : Scan) : Except Verdict Scan :=
  let waits : Option Nat := match i with | .markWait _ m => some m | .markAwait _ m => some m | _ => none
  let inits : Option Nat := match i with | .markInit _ m => some m | .markInitEns _ m => some m | _ => none
  let wait : Bool := waits.isSome || (match i with | .waita _ _ _ => true | _ => false)
  let nopre : Option Nat := match i with | .nopreWrite a _ => some a | _ => none
  let long : Bool := match sc.region with | some o => decide (65536 < b - o) | none => false
  if i.info.transfer && decide (0 < sc.shadow) then .error (8, off, 0)
  else if (sc.region.isSome && (i.info.transfer || wait)) || long then .error (9, off, 0xFF)
  else
    let region := match nopre with | some 0 => none | some _ => some (sc.region.getD b) | none => sc.region
    if sc.shadow = 1 ∧ region.isSome then .error (9, off, 0xFF)
    else .ok
    { shadow := if i.info.delays then 2 else sc.shadow - 1
      region := region
      inits := inits.toList ++ sc.inits
      waits := sc.waits ++ (waits.map fun m => (off, m)).toList }

/-- One word of the text: its bytes those of the image (an image word that does not translate fails as one that differs, log 94), an instruction of
the profile, its target, its resources, its place. -/
def auditWord (s : State) (a : Audit) (h : List Byte) (stubs : List Nat) (b slot w sw : Nat) (sc : Scan) : Except Verdict Scan :=
  let off := 32 * b + 4 * slot
  let d := BitVec.ofNat 64 (hdr h 8 8)
  if (auditData s a (a.header + hdr h 0x50 8 + off) 4).map bytesNat ≠ some w then .error (2, off, 0xFF)
  else match decodeSlot (slotKindOf slot) w with
    | .error _ => .error (3, off, slot)
    | .ok i =>
      let target : Nat := match i with
        | .pbr _ n => ((BitVec.ofNat 64 (a.ibase + 32 * b)) + bundleOff 23 n).toNat
        | _ => a.ibase
      if declProfile d < i.info.profile || ((vecCodes i).contains 61 && !qualifies sw) then .error (3, off, slot)
      else if !(decide (a.ibase ≤ target) && decide (target < auditEndVa a)) && !stubs.contains target then .error (4, off, slot)
      else if i.info.tiles.any (fun t => decide (declTiles d ≤ t)) || (i.info.mark.map fun m => decide (declMarks d ≤ m)).getD false then
        .error (5, off, slot)
      else if slot = 0 then scanC b off i sc else .ok sc

/-- A unit is mapped, and by a page that the range covers whole (R84 code 2). -/
def auditUnit (s : State) (a : Audit) (u : Nat) : Except Verdict TlbEnt :=
  match auditLeaf s a u with
  | none => .error (2, u * unitBytes, 0xFF)
  | some t => if a.ibase ≤ t.vbase && decide (t.vbase + t.size ≤ auditEndVa a) then .ok t else .error (2, u * unitBytes, 0xFF)

/-- The physical address of an offset of the segment, under the leaf that maps it. -/
def auditPa (a : Audit) (t : TlbEnt) (off : Nat) : Nat := entryPa t.leaf + (a.ibase + off - t.vbase)

/-- Bundles from b on: n of them, word by word. -/
def auditBundles (s : State) (a : Audit) (h : List Byte) (stubs : List Nat) : Nat → Nat → Scan → Except Verdict Scan
  | 0, _, sc => .ok sc
  | n + 1, b, sc => do
    let t ← auditUnit s a (32 * b / unitBytes)
    let w (k : Nat) : Nat := physNat s (auditPa a t (32 * b + 4 * k)) 4
    let r ← (List.range 8).foldlM (fun acc k => auditWord s a h stubs b k (w k) (w 1) acc) sc
    auditBundles s a h stubs n (b + 1) r

/-- The first byte of a unit at or past the text that is not zero. -/
def auditTail (s : State) (a : Audit) (t : TlbEnt) (u size : Nat) : Option Nat :=
  let lo := max size (u * unitBytes)
  let p := auditPa a t (u * unitBytes)
  let hit (pa : Nat) : Bool := decide (auditPa a t lo ≤ pa) && decide (pa < p + unitBytes)
  if (u + 1) * unitBytes ≤ size then none
  else if isStore p then ((s.mem.find? fun e => hit e.1).map fun e => u * unitBytes + (e.1 - p))
  else (List.range unitBytes).findSome? fun k => if hit (p + k) && physByte s (p + k) != 0 then some (u * unitBytes + k) else none

/-- Every unit mapped, and nothing behind the text; a byte there is reported at its word, with the slot that word would be, which R84 does not say
(log 94). -/
def auditRest (s : State) (a : Audit) (size : Nat) : Except Verdict Unit :=
  (List.range a.pages).forM fun u => do
    let t ← auditUnit s a u
    match auditTail s a t u size with
    | some o => .error (3, o / 4 * 4, o / 4 % 8)
    | none => .ok ()

/-- Whether an offset lies in a delay bundle of a control transfer (R46). -/
def inDelay (s : State) (a : Audit) (off : Nat) : Bool :=
  let hasDelays (b : Nat) : Bool := match auditLeaf s a (32 * b / unitBytes) with
    | some t => (match decodeSlot .c (physNat s (auditPa a t (32 * b)) 4) with | .ok i => i.info.delays | .error _ => false)
    | none => false
  let b := off / 32
  (decide (1 ≤ b) && hasDelays (b - 1)) || (decide (2 ≤ b) && hasDelays (b - 2))

/-- The offsets that a table of 16-byte records names in the text; that every record translates is tested with the header (log 94). -/
def auditOffsets (s : State) (a : Audit) (h : List Byte) (tab count : Nat) : List Nat :=
  (List.range (hdr h count 4)).map fun i =>
    match auditData s a (a.header + hdr h tab 8 + 16 * i) 4 with | some bs => bytesNat bs | none => 0

/-- The marks that the object declares external. -/
def auditExternal (s : State) (a : Audit) (h : List Byte) : List Nat :=
  (List.range (hdr h 0x24 4)).filterMap fun i =>
    match auditData s a (a.header + hdr h 0x38 8 + 4 * i) 4 with
    | some bs => if fld (bytesNat bs) 11 1 = 1 then some (fld (bytesNat bs) 0 11) else none
    | none => none

/-- Of a waived segment: each unit mapped, and its text that of the image, unit after unit (R84); text that differs is reported at its first
differing byte, where the full pass names the word: R84 gives neither (log 94). -/
def auditWaived (s : State) (a : Audit) (h : List Byte) (size : Nat) : Except Verdict Unit :=
  (List.range a.pages).forM fun u => do
    let t ← auditUnit s a u
    let same (o : Nat) : Bool := auditData s a (a.header + hdr h 0x50 8 + o) 1 == some [physByte s (auditPa a t o)]
    match ((List.range (min unitBytes (size - u * unitBytes))).map (u * unitBytes + ·)).find? fun o => !same o with
    | some o => .error (2, o, 0xFF)
    | none => .ok ()

/-- The pass (R83, R84): a verdict on the first failing check, or none. A header that does not translate fails with code 1 at offset 0; a HEADER off
its alignment is read where it points, and a TEXTSIZE that is no multiple of 32 counts whole bundles (R75); a region still open at the end of the text
fails with code 9 at its first bundle, and after the text check 6 comes before check 7, which goes through the whole entry table before the import
table: the manual gives none of these (log 94). -/
def auditPass (s : State) (a : Audit) : Except Verdict Unit :=
  if a.bad then .error (15, 0, 0xFF)
  else match auditData s a a.header 128 with
    | none => .error (1, 0, 0xFF)
    | some h =>
      match headerBad s a h with
      | some o => .error (1, o, 0xFF)
      | none =>
        let size := hdr h 0x10 8
        if a.ctl % 2 = 1 then auditWaived s a h size
        else do
          let stubs := auditOffsets s a h 0x48 0x2C
          let sc ← auditBundles s a h (stubs.map (a.ibase + ·)) ((size + 31) / 32) 0 ⟨0, none, [], []⟩
          match sc.region with
          | some o => .error (9, 32 * o, 0xFF)
          | none => .ok ()
          auditRest s a size
          let ext := auditExternal s a h
          match sc.waits.find? fun w => !sc.inits.contains w.2 && !ext.contains w.2 with
          | some w => .error (6, w.1, 0)
          | none => .ok ()
          match (auditOffsets s a h 0x30 0x20 ++ stubs).find? fun o => o % 32 != 0 || decide (size ≤ o) || inDelay s a o with
          | some o => .error (7, o, 0xFF)
          | none => .ok ()

/-- The virtual spans that a pass reads as data: the header, then its tables, then the image, each as far as the checks before it hold; and whether it
reads the text. A span is noted whole where the pass stops inside it (log 94). -/
def auditSpans (s : State) (a : Audit) : List (Nat × Nat) × Bool :=
  if a.bad then ([], false)
  else match auditData s a a.header 128 with
    | none => ([(a.header, 128)], false)
    | some h =>
      let table (t c k : Nat) : Nat × Nat := (a.header + hdr h t 8, k * hdr h c 4)
      if (headerFieldBad a h).isSome then ([(a.header, 128)], false)
      else
        let ts := [(a.header, 128), table 0x30 0x20 16, table 0x38 0x24 4, table 0x48 0x2C 16]
        if (headerBad s a h).isSome then (ts, false) else (ts ++ [(a.header + hdr h 0x50 8, hdr h 0x10 8)], true)

/-- The physical spans that a pass reads, the text as mapped. -/
def auditReads (s : State) (a : Audit) : List (Nat × Nat) :=
  let span (p : Nat × Nat) : List (Nat × Nat) := match xlateSpan s a.core .stageManager a.droot p.1 p.2 true false with
    | .ok ps => ps
    | .error _ => []
  let v := auditSpans s a
  v.1.flatMap span ++ if !v.2 then [] else (List.range a.pages).flatMap fun u => match auditLeaf s a u with
    | some t => [(auditPa a t (u * unitBytes), unitBytes / 2), (auditPa a t (u * unitBytes) + unitBytes / 2, unitBytes / 2)]
    | none => []

/-- The walks of data spans under an audition's DROOT leave their notes (R9, R372). -/
def auditSpansWalked (s : State) (a : Audit) (ps : List (Nat × Nat)) : State :=
  (ps.flatMap fun p => pieces p.1 p.2 (p.2 / 8192 + 2)).foldl (fun st p => walkMet st a.core false a.droot p.1) s

/-- What a pass has read is noted, the entries of its walks with it: a disabled core's window by the house die (R9), an error by a self-test (R372).
-/
def auditNotes (s : State) (a : Audit) : State :=
  noteMet (auditSpansWalked (if (auditSpans s a).2 then auditWalked s a else s) a (auditSpans s a).1) (auditReads s a)

/-! ### The course of an audition (R83) -/

/-- An earlier audition on the module whose range overlaps is still under way. -/
def auditBlocked (s : State) (job : Nat) (a : Audit) : Bool :=
  s.house.audits.any fun e => decide (e.1 < job) && !e.2.bad && !a.bad && decide (e.2.ibase < auditEndVa a) && decide (a.ibase < auditEndVa e.2)

/-- An audition begins: it takes its number, its status register waits, and the range is withdrawn unless an earlier one still holds it. -/
def auditStart (s : State) (core : Nat) (a : Audit) : State :=
  let job := s.house.nextAudit
  let c := coreOf s core
  let acc : Access :=
    { seq := c.nextSeq, kind := .audition job, va := 0, pa := 0, size := 0, dst := a.dst, data := 0, swap := 0, scope := 0, acq := false,
      rel := false, serial := a.serial, home := none, upto := 0, seen := [] }
  let s1 := setCoreOf s core { c with pend := c.pend ++ [acc], nextSeq := c.nextSeq + 1 }
  let blocked := auditBlocked s1 job a
  let s2 : State := { s1 with house := { s1.house with audits := s1.house.audits ++ [(job, a)], nextAudit := job + 1 } }
  if blocked then s2 else auditWithdraw s2 a

/-- The verdict on its way to the status register. -/
def auditReply (s : State) (core job code : Nat) : State :=
  let c := coreOf s core
  setCoreOf s core { c with pend := c.pend.map fun x => if x.kind = .audition job then { x with kind := .reply, data := code } else x }

/-- REPORT (R82). -/
def reportWord (v : Verdict) : Nat := v.2.1 % 2 ^ 40 * 2 ^ 24 + 2 ^ 16 + v.2.2 * 2 ^ 8 + v.1

/-- REPORT written, a release at mod scope (R83 step 4, R337); one that no longer translates is not written (log 94). -/
def auditReport (s0 : State) (a : Audit) (v : Verdict) : State :=
  let s := auditSpansWalked s0 a [(a.desc + 0x18, 8)]
  match xlateSpan s a.core .stageManager a.droot (a.desc + 0x18) 8 false true with
  | .ok ps => ps.foldl (fun st p => released st p.1 p.2 a.core 3) (writePieces s ps (natBytes 8 (reportWord v)))
  | .error _ => s

/-- An audition ends: pages executable on success, REPORT and the status register written, and what waited for it begins (R83). -/
def auditEnd (s : State) (job : Nat) (a : Audit) : State :=
  let p := auditPass s a
  let v : Verdict := match p with | .ok _ => (0, 0, 0xFF) | .error v => v
  let s1 := match p with
    | .ok _ => (auditLeaves s a).foldl (admitLeaf (a.ctl % 2 == 1)) (auditNotes s a)
    | .error _ => auditNotes s a
  let s2 := auditReport s1 a v
  let s3 : State := { s2 with house := { s2.house with audits := s2.house.audits.filter fun e => e.1 != job } }
  let s4 := s3.house.audits.foldl (fun st e =>
    if auditBlocked s e.1 e.2 && !auditBlocked st e.1 e.2 then auditWithdraw st e.2 else st) s3
  auditReply s4 a.core job v.1

/-- ADMIT_REPORT (R83). -/
def execAdmitReport (job : Nat) (s : State) : Host.Outcome State Fault Refusal :=
  match s.house.audits.find? fun e => e.1 == job with
  | some e => .next (if auditBlocked s job e.2 then s else auditEnd s job e.2)
  | none => .next s

/-! ### The instruction -/

/-- The audition that a descriptor asks for; code 15 is found at once (R82, R84), for an IBASE off its alignment too, which R84 does not name
(log 94). -/
def auditOf (s : State) (va dst : Nat) (bs : List Byte) : Audit :=
  let x := ctx s
  let q (o n : Nat) : Nat := bytesNat ((bs.drop o).take n)
  { core := s.focus, serial := x.serial, dst := dst, desc := va, ibase := q 0 8, pages := q 8 4, ctl := q 0x0C 4, header := q 0x10 8
    iroot := rootPa x.iroot, droot := rootPa x.droot
    bad := va % 32 != 0 || q 0x0C 4 / 2 != 0 || q 8 4 == 0 || decide (1024 < q 8 4) || q 0 8 % unitBytes != 0 }

/-- The descriptor, read when ADMIT issues, and the effects of its audition; a REPORT that is not writable then is a fault of ADMIT (R150, log 94). -/
def admitDesc (s : State) (a b : Nat) : Except Stop (List Eff) := do
  let va ← rdS s 0 a
  touchReg s b
  let x := ctx s
  let bs ← loadV s va.toNat 32
  match xlateSpan s s.focus x.mode (rootPa x.droot) (va.toNat + 0x18) 8 false true with
  | .error e => afterRead (readNotes s va.toNat 32) (stopXl s (va.toNat + 0x18) 8 false true e)
  | .ok _ => pure (readNotes s va.toNat 32 ++ [.act (.auditStart (auditOf s va.toNat b bs))])

/-- The audition that the stalled bundle of this core has started with s0 as its status register. -/
def admitPending (s : State) : Option Access :=
  (cur s).pend.find? fun x => x.dst == 0 && x.home.isNone && (match x.kind with | .reply | .audition _ => true | _ => false)

/-- ADMIT: with s0 its bundle stalls until the verdict, and a failure is its fault (R81, R83). -/
def execAdmitSeg (a b : Nat) (s : State) : Host.Outcome State Fault Refusal :=
  match needStageManager s with
  | .error e => perform s (.error e)
  | .ok _ =>
    if b = 0 then
      match admitPending s with
      | some x => if x.kind = .reply then perform s (if x.data = 0 then .ok [] else stopFault 16 x.data) else perform s (stopStall .wait)
      | none => match admitDesc s a b with
        | .error e => perform s (.error e)
        | .ok es => perform (settle s (.ok es)) (stopStall .wait)
    else perform s (admitDesc s a b)

end Sys2Proof.Machine
end

