-- ==== Sys2Proof/Machine/Elements.lean ====
section
/-! DEFINITION. The elements and scales of a captured tile in a core's storage: where each stands (R114, R120, R136, R196), reading, writing,
values, and conversion line by line (R122-R125, R208). -/

namespace Sys2Proof.Machine

/-- A list with its first two entries exchanged. -/
def swap01 (l : List Nat) : List Nat := [l.getD 1 0, l.getD 0 0] ++ l.drop 2

/-- A captured tile as bytes of a core's storage: the core, the window offset of the first byte, the type word, its extents. -/
structure TileView where
  core : Nat
  off : Nat
  w : Nat
  e : List Nat

/-- The view of a captured operand. -/
def viewOf (core : Nat) (o : Opnd) : TileView := ⟨core, bdOff o.bd, o.tw.toNat, constExts o.tw.toNat⟩

def TileView.fmt (v : TileView) : Nat := twFmt v.w
def TileView.layout (v : TileView) : Nat := twLayout v.w
def TileView.ext (v : TileView) (k : Nat) : Nat := v.e.getD k 1
/-- The width of an element. -/
def TileView.ew (v : TileView) : Nat := fmtWidth v.fmt
/-- The dimension along which a line runs (R120, R136). -/
def TileView.contig (v : TileView) : Nat := if v.layout = 1 ∨ twRank v.w = 0 then 0 else 1
/-- Elements of a line, and the number of lines. -/
def TileView.run (v : TileView) : Nat := v.ext v.contig
def TileView.lines (v : TileView) : Nat := v.ext (1 - v.contig) * v.ext 2 * v.ext 3

/-- Element p of line l as indices: lines follow the outer dimensions, the inner one fastest. -/
def TileView.at (v : TileView) (l p : Nat) : List Nat :=
  let o := v.ext (1 - v.contig)
  let q := l % o
  let i2 := l / o % v.ext 2
  let i3 := l / o / v.ext 2
  if v.contig = 0 then [p, q, i2, i3] else [q, p, i2, i3]

/-- The dimension along which consecutive elements of the linear order lie (R136). -/
def TileView.inner (v : TileView) : Nat := if v.layout = 1 ∨ twRank v.w = 0 then 0 else 1

/-- The indices of element p in the tile's linear order (R136). -/
def TileView.lin (v : TileView) (p : Nat) : List Nat :=
  let a := max (v.ext v.inner) 1
  let b := max (v.ext (1 - v.inner)) 1
  if v.layout = 4 then
    let k := p / 64
    let w := max (v.ext 1 / 8) 1
    [k / w * 8 + p % 64 / 8, k % w * 8 + p % 8, 0, 0]
  else
    let q := p / a
    let i2 := q / b % max (v.ext 2) 1
    let i3 := q / b / max (v.ext 2) 1
    if v.inner = 0 then [p % a, q % b, i2, i3] else [q % b, p % a, i2, i3]

/-- Bit b of the element at given indices, as a bit of the tile's bytes (R114, R136, R196). -/
def TileView.bit (v : TileView) (i : List Nat) (b : Nat) : Nat :=
  let x (k : Nat) : Nat := i.getD k 0
  match v.layout with
  | 0 => (((x 3 * v.ext 2 + x 2) * v.ext 0 + x 0) * v.ext 1 + x 1) * v.ew + b
  | 1 => (((x 3 * v.ext 2 + x 2) * v.ext 1 + x 1) * v.ext 0 + x 0) * v.ew + b
  | 2 => (x 0 * v.ew + b) * v.ext 1 + x 1
  | 3 => x 0 * 4096 + x 1 * v.ew + b
  | 4 => ((x 0 / 8 * (v.ext 1 / 8) + x 1 / 8) * 64 + x 0 % 8 * 8 + x 1 % 8) * v.ew + b
  | _ => x 0 * v.ew + b

/-- Bits of the tile's bytes from a bit place on. -/
def TileView.bits (v : TileView) (s : State) (bit n : Nat) : Nat :=
  bytesNat (coreLoad s v.core (v.off + bit / 8) ((bit % 8 + n + 7) / 8)) / 2 ^ (bit % 8) % 2 ^ n

/-- The code of an element. -/
def TileView.code (v : TileView) (s : State) (i : List Nat) : Nat :=
  if v.layout = 2 then packElts 1 ((List.range v.ew).map fun b => v.bits s (v.bit i b) 1) else v.bits s (v.bit i 0) v.ew

/-- The block scale of an element, as a byte offset of the tile (R120). -/
def TileView.blkAt (v : TileView) (i : List Nat) : Nat :=
  let line := if v.layout = 1 then i.getD 1 0 else i.getD 0 0
  let pos := if v.layout = 1 then i.getD 0 0 else i.getD 1 0
  let b := scBlock (twScale v.w)
  blkOff v.w v.e + line * ceilDiv (scRun v.layout v.e) b + pos / b

/-- The band scale of an element, as a byte offset of the tile (R120). -/
def TileView.bandAt (v : TileView) (i0 : Nat) : Nat := bandOff v.w v.e + 2 * (i0 / 64)

/-- The block-scale format of a SCALE field (R137). -/
def scaleFmt (sc : Nat) : Nat := if scBfmt sc = 0 then 0x1C else 0x1D

/-- A scale's code; absent scales have none. -/
def TileView.blk (v : TileView) (s : State) (i : List Nat) : Option Nat :=
  if scBlock (twScale v.w) = 0 then none else some (bytesNat (coreLoad s v.core (v.off + v.blkAt i) 1))
def TileView.band (v : TileView) (s : State) (i0 : Nat) : Option Nat :=
  if scBand (twScale v.w) then some (bytesNat (coreLoad s v.core (v.off + v.bandAt i0) 2)) else none

/-- A code times its scales, exactly (R120); a signalling NaN in any part stays signalling, and the product of an infinity and a zero, which no
rule names, is a quiet NaN that sets no flag of its own (log 44). -/
def scaledVal (fmt sc code : Nat) (blk band : Option Nat) : FV :=
  let parts := [decodeElt fmt code] ++ (blk.map (decodeElt (scaleFmt sc))).toList ++ (band.map (decodeElt 0x0F)).toList
  if parts.any fvIsSig then .nan true
  else match parts with
    | x :: rest => rest.foldl (fun a b => (fvMul a b).1) x
    | [] => fvZero

/-- The value of an element (R120). -/
def TileView.val (v : TileView) (s : State) (i : List Nat) : FV :=
  scaledVal v.fmt (twScale v.w) (v.code s i) (v.blk s i) (v.band s (i.getD 0 0))

/-! ### Writing -/

/-- One field of a bit string replaced. -/
def patchBits (x bit n code : Nat) : Nat := x - x / 2 ^ bit % 2 ^ n * 2 ^ bit + code % 2 ^ n * 2 ^ bit

/-- The bit fields that codes at given indices take. -/
def TileView.fields (v : TileView) (cs : List (List Nat × Nat)) : List (Nat × Nat × Nat) :=
  if v.layout = 2 then cs.flatMap fun c => (List.range v.ew).map fun b => (v.bit c.1 b, 1, c.2 / 2 ^ b)
  else cs.map fun c => (v.bit c.1 0, v.ew, c.2)

/-- Codes written at given indices: the bytes they lie in are written, other bits of those bytes unchanged (R402). -/
def TileView.put (v : TileView) (s : State) (cs : List (List Nat × Nat)) : State :=
  let fs := v.fields cs
  match fs with
  | [] => s
  | f :: rest =>
    let lo := rest.foldl (fun a g => min a (g.1 / 8)) (f.1 / 8)
    let hi := rest.foldl (fun a g => max a ((g.1 + g.2.1 + 7) / 8)) ((f.1 + f.2.1 + 7) / 8)
    let old := bytesNat (coreLoad s v.core (v.off + lo) (hi - lo))
    let hit (k : Nat) : Bool := fs.any fun g => decide (g.1 < 8 * (lo + k) + 8) && decide (8 * (lo + k) < g.1 + g.2.1)
    coreStoreAt s v.core (v.off + lo) (natBytes (hi - lo) (fs.foldl (fun x g => patchBits x (g.1 - 8 * lo) g.2.1 g.2.2) old)) hit

/-- Bytes of the tile written at a byte offset. -/
def TileView.putBytes (v : TileView) (s : State) (o : Nat) (bs : List Byte) : State := coreStore s v.core (v.off + o) bs

/-- The physical address of the first uncorrectable error in bytes of the tile. -/
def TileView.bad (v : TileView) (s : State) (o n : Nat) : Option Nat := badAddr s (windowPa v.core (v.off + o)) n

/-- Lists in runs of n. -/
def chunks {α : Type} (n : Nat) : Nat → List α → List (List α)
  | 0, _ => []
  | fuel + 1, l => if l.isEmpty then [] else l.take n :: chunks n fuel (l.drop n)

/-- The code of the BF16 value 1.0. -/
def bf16One : Nat := 0x3F80

/-- What a line of values becomes in a target (R123-R125): codes, chosen block scales in order, flags. `fmt` and `sc` are the target's,
`band` its band scale, by which a target without blocks divides every element, a line of zeros too (log 103). -/
def convertLine (fmt sc mode : Nat) (band : FV) (xs : List FV) : List Nat × List Nat × Word :=
  if scBlock sc ≠ 0 then
    (chunks (scBlock sc) xs.length xs).foldl (fun acc ch =>
      let r := encodeScaledBlock (scBfmt sc) fmt mode band ch
      (acc.1 ++ r.2.1, acc.2.1 ++ [r.1], acc.2.2 ||| r.2.2)) ([], [], 0)
  else
    (chunks 8 xs.length xs).foldl (fun acc ch =>
      let r := encodeQuots fmt mode (if scBand sc then band else fvInt 1) ch
      (acc.1 ++ r.1, [], acc.2.2 ||| r.2)) ([], [], 0)

/-- Whether a conversion keeps the bits (R208): equal formats and scales, and no blocks or blocks along one dimension. -/
def bitForBit (fmt sc layout fmt' sc' layout' : Nat) : Bool :=
  fmt == fmt' && sc == sc' && (scBlock sc == 0 || (layout == 1) == (layout' == 1))

/-- Whether the place of an element in its line lies in a range. -/
def TileView.within (v : TileView) (lo hi : Nat) (i : List Nat) : Bool := decide (lo ≤ i.getD v.contig 0) && decide (i.getD v.contig 0 < hi)

/-- One line written into a tile from values: the codes of its elements from `lo` to `hi`, its block scales, and its band scale where it begins a band
(R125, R208). -/
def TileView.putLine (v : TileView) (s : State) (l mode : Nat) (bandOf : Nat → Option Nat) (xs : List FV) (lo hi : Nat) : State × Word :=
  let own (cs : List (List Nat × Nat)) : List (List Nat × Nat) := cs.filter fun c => v.within lo hi c.1
  let sc := twScale v.w
  let idx := (List.range v.run).map (v.at l)
  let i0 := (v.at l 0).getD 0 0
  if v.contig = 0 ∧ scBand sc then
    -- a COL line crosses bands: each run of 64 rows converts under its own band scale
    (chunks 64 xs.length (idx.zip xs)).foldl (fun acc ch =>
      let j0 := (ch.headD ([], fvZero)).1.getD 0 0
      let b := (bandOf j0).getD bf16One
      let r := convertLine v.fmt sc mode (decodeElt 0x0F b) (ch.map Prod.snd)
      let s1 := v.putBytes (v.put acc.1 (own ((ch.map Prod.fst).zip r.1))) (v.bandAt j0) (natBytes 2 b)
      let s2 := if r.2.1.isEmpty then s1 else v.putBytes s1 (v.blkAt (ch.headD ([], fvZero)).1) (r.2.1.map (BitVec.ofNat 8))
      (s2, acc.2 ||| r.2.2)) (s, 0)
  else
    let b := (bandOf i0).getD bf16One
    let r := convertLine v.fmt sc mode (if scBand sc then decodeElt 0x0F b else fvInt 1) xs
    let s1 := v.put s (own (idx.zip r.1))
    let s2 := if r.2.1.isEmpty then s1 else v.putBytes s1 (v.blkAt (v.at l 0)) (r.2.1.map (BitVec.ofNat 8))
    (if scBand sc then v.putBytes s2 (v.bandAt i0) (natBytes 2 b) else s2, r.2.2)

/-- One line copied bit for bit: the codes of its elements from `lo` to `hi`, block scales and band scale; `code`, `blk` and `band` read the source by
indices. -/
def TileView.putBits (v : TileView) (s : State) (l : Nat) (code : List Nat → Nat) (blk : List Nat → Option Nat)
    (band : Nat → Option Nat) (lo hi : Nat) : State :=
  let sc := twScale v.w
  let idx := ((List.range v.run).map (v.at l)).filter (v.within lo hi)
  let s1 := v.put s (idx.map fun i => (i, code i))
  let s2 := if scBlock sc = 0 then s1 else
    let heads := (List.range (ceilDiv v.run (scBlock sc))).map fun j => v.at l (j * scBlock sc)
    v.putBytes s1 (v.blkAt (v.at l 0)) (heads.map fun i => BitVec.ofNat 8 ((blk i).getD 0))
  if scBand sc then
    (if v.contig = 0 then (List.range (ceilDiv v.run 64)).map (64 * ·) else [(v.at l 0).getD 0 0]).foldl
      (fun st i0 => v.putBytes st (v.bandAt i0) (natBytes 2 ((band i0).getD bf16One))) s2
  else s2

/-- A free value below a bound: how far a stopped command has come (log 4). -/
def freeBelow (s : State) (k n : Nat) : Nat := Config.freeRows (s.uses + k) % max n 1

end Sys2Proof.Machine
end

