-- ==== Sys2Proof/Machine/Tile.lean ====
section
/-! DEFINITION. The X slot's type and dimension-variable instructions (R150-R163). -/

namespace Sys2Proof.Machine

/-- A type word read at issue; its wait comes before any fault of its address (R58, R150). -/
def readType (s : State) (va : Nat) : Except Stop (BitVec 128) := do
  loadWait s va 16
  needData s va 16
  let bs ← loadV s va 16
  pure (BitVec.ofNat 128 (bytesNat bs))

/-- The type word's read counted where it reaches a disabled core's window (R9). -/
def typeNotes (s : State) (va : Nat) : List Eff := readNotes s va 16

/-- TDEF (R151); the banks of the tile's binding, its operand 0, must be held (R168, log 22). -/
def execTdef (t a : Nat) (s : State) : Host.Outcome State Fault Refusal :=
  perform s (do
    tileFree s t
    let bd := (tileOf (ctx s) t).bd
    touchBd s bd false
    let va ← rdS s 1 a
    let tw ← readType s va.toNat
    afterRead (typeNotes s va.toNat) (do
      checkType s [] 2 tw
      match extsKnown s [] tw.toNat with
      | some e => if bdSpace bd ≠ 0 then checkFit s 0 tw e bd
      | none => pure ()
      banksHeld s bd
      pure (typeNotes s va.toNat ++ [tileEff t (some tw) none])))

/-- The validity of a binding value (R133); FAULTINFO is the value. -/
def checkBinding (bd : Word) : Except Stop Unit :=
  let size := if bdSpace bd = 1 then 0x200000 else 0x80000
  let unit := if bdSpace bd = 1 then 64 else 512
  if bd.toNat / 2 ^ 44 ≠ 0 ∨ bdSpace bd = 3 then stopFault 5 bd.toNat
  else if bdSpace bd = 0 then (if bdBase bd = 0 ∧ bdLen bd = 0 then .ok () else stopFault 5 bd.toNat)
  else if bdBase bd % unit ≠ 0 then stopFault 3 bd.toNat
  else if size < bdBase bd + bdLen bd then stopFault 5 bd.toNat
  else .ok ()

/-- TBIND (R152). -/
def execTbind (t a : Nat) (s : State) : Host.Outcome State Fault Refusal :=
  perform s (do
    tileFree s t
    let r := tileOf (ctx s) t
    touchBd s r.bd false
    let v ← rdS s 1 a
    checkBinding v
    if r.tw ≠ 0#128 then
      match extsKnown s [] r.tw.toNat with
      | some e => checkFit s 0 r.tw e v
      | none => pure ()
    pure [tileEff t none (some v)])

/-- The one unbound variable of a new type, bound to what the source's element count leaves (R154). -/
def reshapeBind (s : State) (n : Nat) (nw : Nat) : Except Stop Local :=
  let exts := ((List.range 4).filter (· ≤ twRank nw)).map fun k => (k, extOf (twExt nw k))
  let free := exts.filter fun e => (extVal s [] e.2).isNone
  match free with
  | [] => .ok []
  | [(k, e)] =>
    let p := (exts.filterMap fun x => extVal s [] x.2).foldl (· * ·) 1
    if n % p ≠ 0 ∨ 32767 < n / p then stopShape s 2 (4 + k) n p e.dv
    else match e with
      | .var d => bindVar s [] 2 d (n / p)
      | .const _ => .ok []
  | (_, e) :: _ => stopShape s 2 10 0 0 e.dv

/-- TRESHAPE (R154); the result's storage must fit as every operand's must (R139, R145, R147), and its banks be held (R168). -/
def execTreshape (t a b : Nat) (s : State) : Host.Outcome State Fault Refusal :=
  perform s (do
    tileFree s t
    let r := tileOf (ctx s) a
    let src := r.tw.toNat
    touchBd s r.bd false
    let va ← rdS s 2 b
    let tw ← readType s va.toNat
    afterRead (typeNotes s va.toNat) (do
      checkType s [] 1 r.tw
      let se ← extsNeeded s [] 1 r.tw
      let nw := tw.toNat
      checkType s [] 2 tw
      need s 1 2 0 (twLayout src) (decide (twLayout src ≤ 1))
      need s 2 2 (twLayout src) (twLayout nw) (twLayout nw == twLayout src)
      need s 2 1 (twFmt src) (twFmt nw) (twFmt nw == twFmt src)
      need s 2 3 (twScale src) (twScale nw) (twScale nw == twScale src)
      let n := se.foldl (· * ·) 1
      let loc ← reshapeBind s n nw
      let ne ← extsNeeded s loc 2 tw
      if ne.foldl (· * ·) 1 ≠ n then stopShape s 2 4 n (ne.foldl (· * ·) 1) (extOf (twExt nw 0)).dv
      let b := scBlock (twScale src)
      let run (e : List Nat) : Nat := scRun (twLayout src) e
      need s 1 3 b (run se) (b == 0 || run se % b == 0)
      need s 2 3 b (run ne) (b == 0 || run ne % b == 0)
      if scBand (twScale src) then
        match (List.range 4).find? fun k => se.getD k 1 != ne.getD k 1 with
        | some k => stopShape s 2 3 (se.getD k 1) (ne.getD k 1)
        | none => pure ()
      checkFit s 0 tw ne r.bd
      banksHeld s r.bd
      pure (typeNotes s va.toNat ++ bindEffs loc ++ [tileEff t (some (twConst tw ne)) (some r.bd)])))

/-- A type written over a binding fits its storage once every extent in use has a value (R139, R145, R147), and the banks must be held (R168). -/
def retyped (s : State) (nw : BitVec 128) (bd : Word) : Except Stop Unit := do
  match extsKnown s [] nw.toNat with
  | some e => checkFit s 0 nw e bd
  | none => pure ()
  banksHeld s bd

/-- TTRANSPOSE (R155). -/
def execTtranspose (t a : Nat) (s : State) : Host.Outcome State Fault Refusal :=
  perform s (do
    let r := tileOf (ctx s) a
    let w := r.tw.toNat
    tileFree s t
    touchBd s r.bd false
    checkType s [] 1 r.tw
    need s 1 0 1 (twRank w) (twRank w == 1)
    need s 1 2 0 (twLayout w) (decide (twLayout w ≤ 1))
    need s 1 3 0 (twScale w) (!scBand (twScale w))
    let nw := twMake (twRank w) (twFmt w) (1 - twLayout w) (twScale w) [twExt w 1, twExt w 0, twExt w 2, twExt w 3]
    retyped s nw r.bd
    pure [tileEff t (some nw) (some r.bd)])

/-- TCAST (R156): the bits are read unchanged under another format of the same width; its storage must fit and its banks be held
(R139, R168). -/
def execTcast (t a f : Nat) (s : State) : Host.Outcome State Fault Refusal :=
  perform s (do
    needLegal s (fmtKnown f)
    let r := tileOf (ctx s) a
    let w := r.tw.toNat
    tileFree s t
    touchBd s r.bd false
    checkType s [] 1 r.tw
    need s 0 1 (twFmt w) f (fmtWidth f == fmtWidth (twFmt w))
    let nw := twMake (twRank w) f (twLayout w) (twScale w) [twExt w 0, twExt w 1, twExt w 2, twExt w 3]
    checkType s [] 0 nw
    retyped s nw r.bd
    pure [tileEff t (some nw) (some r.bd)])

/-- TTYPE: 32 bytes of the register as it stands, an unordered store (R158); the banks of its binding must be held (R168, log 22). -/
def execTtype (t a : Nat) (s : State) : Host.Outcome State Fault Refusal :=
  perform s (do
    let va ← rdS s 1 a
    let r := tileOf (ctx s) t
    needData s va.toNat 32
    banksHeld s r.bd
    storeV s va.toNat (natBytes 32 (r.tw.toNat + r.bd.toNat * 2 ^ 128)))

/-- Each tile extent in use unified with the reference's (R159, R274). -/
def unifyExts (s : State) (opnd : Nat) (w : Nat) (ref : Nat → Ext) : Nat → Local → Except Stop Local
  | 0, loc => .ok loc
  | n + 1, loc => do
    let l ← unifyExts s opnd w ref n loc
    if twRank w < n then pure l else unify s l opnd (4 + n) (extOf (twExt w n)) (ref n)

/-- RANK, FMT, LAYOUT and SCALE of a tile equal to a reference's (R159, R274). -/
def sameType (s : State) (w rank fmt layout scale : Nat) : Except Stop Unit := do
  need s 0 0 rank (twRank w) (twRank w == rank)
  need s 0 1 fmt (twFmt w) (twFmt w == fmt)
  need s 0 2 layout (twLayout w) (twLayout w == layout)
  need s 0 3 scale (twScale w) (twScale w == scale)

/-- Each tile extent in use unified with a record's: a record extent above 32,767 that meets a variable raises BOUND (R159). -/
def unifyRec (s : State) (w : Nat) (r : WinRec) : Nat → Local → Except Stop Local
  | 0, loc => .ok loc
  | n + 1, loc => do
    let l ← unifyRec s w r n loc
    if twRank w < n then pure l
    else match extOf (twExt w n), r.extOf n with
      | .var d, .const v =>
        if 32767 < v then stopShape s 0 8 (dimOf (ctx s) d).limit v (some d) else unify s l 0 (4 + n) (.var d) (.const v)
      | a, b => unify s l 0 (4 + n) a b

/-- TCHECK (R159): storage is judged once every extent in use has a value (R139, R145). -/
def execTcheck (t a : Nat) (s : State) : Host.Outcome State Fault Refusal :=
  perform s (do
    let va ← rdS s 1 a
    let r := tileOf (ctx s) t
    recWait s va.toNat
    if va.toNat < 2 ^ 53 then needAligned s va.toNat 128
    checkType s [] 0 r.tw
    let bs ← recRead s va.toNat
    afterRead bs.2 (do
      let k ← recCheck s va.toNat 2 bs.1
      sameType s r.tw.toNat k.rank k.fmt k.layout k.scale
      let loc ← unifyRec s r.tw.toNat k 4 []
      match extsKnown s loc r.tw.toNat with
      | some e => checkFit s 0 r.tw e r.bd
      | none => pure ()
      banksHeld s r.bd
      pure (bs.2 ++ bindEffs loc)))

/-- DV.SET (R160). R144 lists no operand for it: the fault of a value out of bounds names operand 0 (log 26). -/
def execDvSet (n b : Nat) (s : State) : Host.Outcome State Fault Refusal :=
  perform s (do
    let v ← rdS s 2 b
    let lim := (dimOf (ctx s) n).limit
    if v.toNat = 0 ∨ lim < v.toNat then stopShape s 0 8 lim v.toNat (some n)
    else pure [.land 1 (some (.dim n (some v.toNat))) none 0])

/-- DV.GET (R161). -/
def execDvGet (d n : Nat) (s : State) : Host.Outcome State Fault Refusal :=
  perform s (outS s 1 d (BitVec.ofNat 64 ((dimOf (ctx s) n).val.getD 0)) 0)

/-- DV.CLEAR (R162). -/
def execDvClear (n : Nat) (s : State) : Host.Outcome State Fault Refusal :=
  perform s (.ok [.land 1 (some (.dim n none)) none 0])

/-- DV.BOUND (R163): a value that a lower slot of the bundle binds must be within it too (R142). R144 lists no operand for it: its faults name
operand 0 (log 26). -/
def execDvBound (n b : Nat) (s : State) : Host.Outcome State Fault Refusal :=
  perform s (do
    let v ← rdS s 2 b
    if v.toNat = 0 ∨ 32767 < v.toNat then stopShape s 0 8 32767 v.toNat (some n)
    else match (dimOf (ctx s) n).val.or (tentOf s n) with
      | some x => if v.toNat < x then stopShape s 0 8 v.toNat x (some n) else pure [.land 1 (some (.dimLimit n v.toNat)) none 0]
      | none => pure [.land 1 (some (.dimLimit n v.toNat)) none 0])

end Sys2Proof.Machine
end

