-- ==== Sys2Proof/Machine/Copy.lean ====
section
/-! DEFINITION. The K slots: typing, capture and queueing of copy commands (R265-R279), DRAIN, and the engine image of KSAVE and KRESUME
(R277). -/

namespace Sys2Proof.Machine

/-! ### Issue -/

/-- The engine of the slot: K0 is slot 5 (R23, R265). -/
def kEngine (s : State) : Nat := s.issue.slot - 5

/-- An engine's queue. -/
def kQueue (x : Ctxt) (eng : Nat) : List KCmd := if eng = 0 then x.kq0 else x.kq1

/-- A K command waits for a free entry (R53). -/
def kRoom (s : State) : Except Stop Unit := if 16 ≤ (kQueue (ctx s) (kEngine s)).length then stopStall .queue else .ok ()

/-- The encoding check and the stalls, in the counting order of R55 (R51-R54); `wait` is that of the reads which the command makes at issue (R150). -/
def kBefore (s : State) (rs : List Range) (regs : List Nat) (wait : Except Stop Unit := .ok ()) : Except Stop Unit := do
  noClash s rs
  touchRanges s rs
  regs.forM (touchReg s)
  wait
  kRoom s

/-- The completion word's address (R266). -/
def kSig (s : State) (g : Nat) : Except Stop (Option Nat) := do
  if g = 0 then pure none
  else do
    let a ← rdS s 3 g
    needAligned s a.toNat 8
    pure (some a.toNat)

/-- A command as it enters its queue. -/
def kCmd (s : State) (i : Instr) (sig : Option Nat) : KCmd :=
  { word := encode i, value := 0, sig := sig, tile := ⟨0, 0⟩, orig := [0, 0, 0, 0], dst := 0, idx := ⟨0, 0⟩, src := 0, wrec := [],
    capf := (cur s).capf.toNat, sm := (ctx s).mode == .stageManager, tag := 0, serial := (ctx s).serial, seq := 0, started := false,
    progress := 0, parked := none, failed := none, ahead := [], skipped := false, flags := 0, done := false }

/-- A captured tile operand. -/
def kOpnd (t : Tile) (e : List Nat) : Opnd := ⟨twConst t.tw e, t.bd⟩

/-- A tile's binding as a range. -/
def kRange (t : Tile) (w : Bool) : List Range := opRange ⟨t.tw, t.bd⟩ w

/-! ### TLOAD and TSTORE (R270) -/

/-- The origins of a coordinate block; none for s0. -/
def kOrigins (s : State) (c : Nat) : Except Stop (List Nat × List Eff) := do
  let a ← rdS s 2 c
  if c = 0 then pure ([0, 0, 0, 0], [])
  else do
    needData s a.toNat 16
    let bs ← loadV s a.toNat 16
    pure ((List.range 4).map fun k => bytesNat ((bs.drop (4 * k)).take 4), readNotes s a.toNat 16)

/-- Constraint 5 of R270 for the extents in use: the record's resolved extents, and the bindings. Against a record's variable that a lower slot
bound, a mismatch is DVCONFLICT, be it of the origin or of the extent (R145, R149). -/
def kExtents (s : State) (r : WinRec) (w : Nat) (tr : Bool) (o : List Nat) : Nat → Except Stop (List Nat × Local)
  | 0 => .ok ([], [])
  | n + 1 => do
    let p ← kExtents s r w tr o n
    if r.rank < n then pure (p.1 ++ [1], p.2)
    else do
      let k := if tr && n < 2 then 1 - n else n
      let e ← recExtNeeded s p.2 1 r k
      let ok := o.getD k 0
      match resolve s p.2 (r.extOf k) with
      | some (_, tent) => if e ≤ ok then stopShape s 1 (if tent then 11 else 4 + n) e ok (r.extOf k).dv
      | none => pure ()
      match resolve s p.2 (r.extOf k), resolve s p.2 (extOf (twExt w n)) with
      | some (_, true), some (v, false) => if e - ok < v then stopShape s 0 11 e (v + ok) (r.extOf k).dv
      | _, _ => pure ()
      let loc ← unify s p.2 0 (4 + n) (extOf (twExt w n)) (.const (e - ok)) true
      pure (p.1 ++ [e], loc)

/-- The formats that reduce (R270). -/
def kReduces (f sc : Nat) : Bool := (f == 8 || f == 0x10 || f == 0x0F || f == 0x12 || f == 0x13) && sc == 0

/-- The common course of TLOAD and TSTORE: the bindings, then what follows the unification. -/
def kTyped (s : State) (i : Instr) (t w c g : Nat) (tr : Bool) (red : Nat) (load : Bool) : Except Stop (Local × Except Stop (List Eff)) := do
  let reg := tileOf (ctx s) t
  let tw := reg.tw.toNat
  kBefore s (kRange reg load) [w, c, g] (do
    recWait s (sregOf (ctx s) w).toNat
    if c ≠ 0 then loadWait s (sregOf (ctx s) c).toNat 16)
  let va ← rdS s 1 w
  let sig ← kSig s g
  let _ ← rdS s 2 c
  checkType s [] 0 reg.tw
  let rec' ← recRead s va.toNat
  let r ← afterRead rec'.2 (recCheck s va.toNat 1 rec'.1)
  let oe ← afterRead rec'.2 (kOrigins s c)
  afterBound (rec'.2 ++ oe.2) (do
    let o := oe.1
    need s 0 0 r.rank (twRank tw) (twRank tw == r.rank && (!tr || r.rank == 1))
    need s 0 1 r.fmt (twFmt tw) (twFmt tw == r.fmt)
    let tl := twLayout tw
    need s 0 2 r.layout tl
      (if tr then decide (r.layout ≤ 1) && (decide (tl ≤ 1) || tl == 3) else tl == r.layout || (tl == 3 && r.layout == 0))
    need s 0 3 r.scale (twScale tw) (twScale tw == r.scale && (!tr || r.scale == 0))
    let x ← kExtents s r tw tr o 4
    if red ≠ 0 then need s 0 1 0x12 (twFmt tw) (kReduces (twFmt tw) (twScale tw))
    let e ← extsNeeded s x.2 0 reg.tw
    checkFit s 0 reg.tw e reg.bd
    let exts := if tr then swap01 x.1 else x.1
    let wrec := recConst rec'.1 ((List.range 4).map fun k => if r.rank < k then 0 else exts.getD k 1)
    let cmd := { kCmd s i sig with tile := kOpnd reg e, orig := o, wrec := wrec, src := if load then va.toNat else 0 }
    pure (x.2, do
      winCheck s va.toNat r o (if tr then swap01 e else e)
      banksHeld s reg.bd
      pure (rec'.2 ++ oe.2 ++ [.kcmd (kEngine s) cmd])))

/-- TLOAD (R270, R271). -/
def execTload (t w c g x : Nat) (s : State) : Host.Outcome State Fault Refusal :=
  performBound s (kTyped s (.tload t w c g x) t w c g (x == 1) 0 true)

/-- TSTORE (R270, R271). -/
def execTstore (t w c g r x sc : Nat) (s : State) : Host.Outcome State Fault Refusal :=
  performBound s (kTyped s (.tstore t w c g r x sc) t w c g (x == 1) r false)

/-! ### TLOAD.IX, GATHER, SCATTER (R272) -/

/-- The common course of the indexed transfers: the bindings, then what follows the unification. A SCATTER that reduces in a format that does not is
SHAPE FMT of operand 0 as R270 has it, after the extents: R272 lists no such check (log 116). -/
def kIndexed (s : State) (i : Instr) (t w ix g red : Nat) (load : Bool) : Except Stop (Local × Except Stop (List Eff)) := do
  let reg := tileOf (ctx s) t
  let ireg := tileOf (ctx s) ix
  let tw := reg.tw.toNat
  let iw := ireg.tw.toNat
  kBefore s (kRange reg load ++ kRange ireg false) [w, g] (recWait s (sregOf (ctx s) w).toNat)
  let va ← rdS s 1 w
  let sig ← kSig s g
  checkType s [] 0 reg.tw
  let rec' ← recRead s va.toNat
  afterBound rec'.2 (do
    let r ← recCheck s va.toNat 1 rec'.1
    checkType s [] 2 ireg.tw
    need s 1 0 1 r.rank (r.rank == 1)
    need s 1 2 0 r.layout (r.layout == 0)
    need s 1 3 0 r.scale (r.scale == 0)
    need s 0 0 1 (twRank tw) (twRank tw == 1)
    need s 0 2 0 (twLayout tw) (twLayout tw == 0 || twLayout tw == 3)
    need s 2 0 0 (twRank iw) (twRank iw == 0)
    need s 2 2 0 (twLayout iw) (twLayout iw == 0)
    need s 2 1 8 (twFmt iw) (twFmt iw == 8 || twFmt iw == 7)
    need s 0 1 r.fmt (twFmt tw) (twFmt tw == r.fmt)
    let loc ← unify s [] 0 4 (extOf (twExt tw 0)) (extOf (twExt iw 0))
    let loc ← unify s loc 0 5 (extOf (twExt tw 1)) (r.extOf 1)
    if red ≠ 0 then need s 0 1 0x12 (twFmt tw) (kReduces (twFmt tw) (twScale tw))
    let e ← extsNeeded s loc 0 reg.tw
    let e0 ← recExtNeeded s loc 1 r 0
    let e1 ← recExtNeeded s loc 1 r 1
    let ie ← extsNeeded s loc 2 ireg.tw
    checkFit s 0 reg.tw e reg.bd
    checkFit s 2 ireg.tw ie ireg.bd
    let cmd := { kCmd s i sig with tile := kOpnd reg e, idx := kOpnd ireg ie, wrec := recConst rec'.1 [e0, e1, 0, 0] }
    pure (loc, do
      winCheck s va.toNat r [0, 0, 0, 0] [e0, e1, 1, 1]
      banksHeld s reg.bd
      pure (rec'.2 ++ [.kcmd (kEngine s) cmd])))

/-- TLOAD.IX (R272). -/
def execTloadIx (t w i g : Nat) (s : State) : Host.Outcome State Fault Refusal :=
  performBound s (kIndexed s (.tloadIx t w i g) t w i g 0 true)

/-- GATHER (R272). -/
def execGather (t w i g sc : Nat) (s : State) : Host.Outcome State Fault Refusal :=
  performBound s (kIndexed s (.gather t w i g sc) t w i g 0 true)

/-- SCATTER (R272). -/
def execScatter (t w i g r sc : Nat) (s : State) : Host.Outcome State Fault Refusal :=
  performBound s (kIndexed s (.scatter t w i g r sc) t w i g r false)

/-! ### COPY, TSEND, TRECV, SIGNAL, DRAIN, PREFETCH -/

/-- COPY (R273). -/
def execCopy (l w c g sc : Nat) (s : State) : Host.Outcome State Fault Refusal :=
  perform s (do
    kBefore s [] [l, w, c, g]
    let n ← rdS s 0 l
    let d ← rdS s 1 w
    let a ← rdS s 2 c
    let sig ← kSig s g
    if 2 ^ 40 ≤ n.toNat then stopFault 5 n.toNat
    pure [.kcmd (kEngine s) { kCmd s (.copy l w c g sc) sig with value := n.toNat, dst := d.toNat, src := a.toNat }])

/-- TSEND (R274). -/
def execTsend (t w g sc : Nat) (s : State) : Host.Outcome State Fault Refusal :=
  perform s (do
    let reg := tileOf (ctx s) t
    kBefore s (kRange reg false) [w, g]
    let a ← rdS s 1 w
    let sig ← kSig s g
    needAligned s a.toNat 64
    checkType s [] 0 reg.tw
    let e ← extsNeeded s [] 0 reg.tw
    checkFit s 0 reg.tw e reg.bd
    banksHeld s reg.bd
    pure [.kcmd (kEngine s) { kCmd s (.tsend t w g sc) sig with tile := kOpnd reg e, dst := a.toNat }])

/-- The field of a mailbox header that TRECV refuses, by offset: R274 gives no order between two that fail (log 102). -/
def mailboxBad (bs : List Byte) : Option Nat :=
  let q (o n : Nat) : Nat := bytesNat ((bs.drop o).take n)
  let ty := q 0x10 16
  if q 0 4 ≠ 0x444E5354 then some 0
  else if q 4 4 ≠ 0 then some 4
  else if q 8 8 ≠ needBytes ty (constExts ty) then some 8
  else if q 0x20 32 ≠ 0 then some 0x20
  else none

/-- TRECV: the header is read at issue, and the tile unified with its type (R274). -/
def execTrecv (t w g : Nat) (s : State) : Host.Outcome State Fault Refusal :=
  performBound s (do
    let reg := tileOf (ctx s) t
    kBefore s (kRange reg true) [w, g] (loadWait s (sregOf (ctx s) w).toNat 64)
    let a ← rdS s 1 w
    let sig ← kSig s g
    needData s a.toNat 64
    let bs ← loadV s a.toNat 64
    let notes := readNotes s a.toNat 64
    afterBound notes (do
      match mailboxBad bs with
      | some o => stopFault 5 o
      | none => pure ()
      let ty := BitVec.ofNat 128 (bytesNat ((bs.drop 0x10).take 16))
      checkType s [] 0 reg.tw
      checkType s [] 1 ty
      sameType s reg.tw.toNat (twRank ty.toNat) (twFmt ty.toNat) (twLayout ty.toNat) (twScale ty.toNat)
      let loc ← unifyExts s 0 reg.tw.toNat (fun k => extOf (twExt ty.toNat k)) 4 []
      let e ← extsNeeded s loc 0 reg.tw
      checkFit s 0 reg.tw e reg.bd
      pure (loc, do
        banksHeld s reg.bd
        pure (notes ++ [.kcmd (kEngine s) { kCmd s (.trecv t w g) sig with tile := kOpnd reg e, dst := a.toNat }]))))

/-- SIGNAL (R275). -/
def execSignal (v g sc : Nat) (s : State) : Host.Outcome State Fault Refusal :=
  perform s (do
    kBefore s [] [v, g]
    let x ← rdS s 1 v
    let sig ← kSig s g
    pure [.kcmd (kEngine s) { kCmd s (.signal v g sc) sig with value := x.toNat }])

/-- DRAIN: a parked or failed command raises its fault; else it waits for every earlier K command, and for every earlier store at its scope
(R276, R340); what the core does next is ordered after those (R338). -/
def execDrain (sc : Nat) (s : State) : Host.Outcome State Fault Refusal :=
  perform s (
    let x := ctx s
    match engineFault x 0, engineFault x 1 with
    | some e, _ => .error e.2
    | none, some e => .error e.2
    | none, none => if x.kq0.isEmpty && x.kq1.isEmpty && storesDone s s.focus sc then .ok [.act (.observe (scopeLevel sc))] else stopStall .wait)

/-- The common course of the two directions of PREFETCH (R278). -/
def kPrefetch (s : State) (i : Instr) (w c g : Nat) : Except Stop (List Eff) := do
  kBefore s [] [w, c, g]
  let d ← rdS s 1 w
  let a ← rdS s 2 c
  let sig ← kSig s g
  needAligned s d.toNat 8192
  pure [.kcmd (kEngine s) { kCmd s i sig with value := a.toNat % 8192 + 1, dst := d.toNat, src := a.toNat }]

/-- PREFETCH.UP (R278). -/
def execPrefetchUp (w c g : Nat) (s : State) : Host.Outcome State Fault Refusal :=
  perform s (kPrefetch s (.prefetchUp w c g) w c g)

/-- PREFETCH.DN (R278). -/
def execPrefetchDn (w c g : Nat) (s : State) : Host.Outcome State Fault Refusal :=
  perform s (kPrefetch s (.prefetchDn w c g) w c g)

/-! ### Routing (R279) -/

/-- E, B, TOKBASE, TABLE and CUE of a routing record. -/
def routeE (bs : List Byte) : Nat := bytesNat (bs.take 4)
def routeB (bs : List Byte) : Nat := bytesNat ((bs.drop 4).take 4)
def routeTok (bs : List Byte) : Nat := bytesNat ((bs.drop 8).take 4)
def routeTable (bs : List Byte) : Nat := bytesNat ((bs.drop 0x10).take 8)
def routeCue (bs : List Byte) : Nat := bytesNat ((bs.drop 0x18).take 8)

/-- A routing record read and checked at issue. -/
def routeRecord (s : State) (w : Nat) : Except Stop (Nat × List Byte × List Eff) := do
  let a ← rdS s 1 w
  needData s a.toNat 64
  let bs ← loadV s a.toNat 64
  let notes := readNotes s a.toNat 64
  afterRead notes (do
    if routeE bs = 0 ∨ 4096 < routeE bs then stopFault 5 0
    if 1048575 < routeB bs then stopFault 5 4
    if bytesNat ((bs.drop 0x0C).take 4) ≠ 0 then stopFault 5 0x0C
    if bytesNat ((bs.drop 0x20).take 32) ≠ 0 then stopFault 5 0x20
    pure (a.toNat, bs ++ natBytes 64 0, notes))

/-- ROUTE (R279). -/
def execRoute (t w g : Nat) (s : State) : Host.Outcome State Fault Refusal :=
  perform s (do
    let reg := tileOf (ctx s) t
    let tw := reg.tw.toNat
    kBefore s (kRange reg false) [w, g] (loadWait s (sregOf (ctx s) w).toNat 64)
    let sig ← kSig s g
    let r ← routeRecord s w
    afterRead r.2.2 (do
      checkType s [] 0 reg.tw
      need s 0 0 1 (twRank tw) (twRank tw == 1)
      need s 0 1 0x12 (twFmt tw) (twFmt tw == 0x12 || twFmt tw == 0x0F)
      need s 0 2 0 (twLayout tw) (twLayout tw == 0)
      need s 0 3 0 (twScale tw) (twScale tw == 0)
      let loc ← unify s [] 0 5 (extOf (twExt tw 1)) (.const (routeE r.2.1))
      let e ← extsNeeded s loc 0 reg.tw
      checkFit s 0 reg.tw e reg.bd
      pure (r.2.2 ++ bindEffs loc ++ [.kcmd (kEngine s) { kCmd s (.route t w g) sig with tile := kOpnd reg e, dst := r.1, wrec := r.2.1 }])))

/-- ROUTE.CLOSE (R281). -/
def execRouteClose (w g : Nat) (s : State) : Host.Outcome State Fault Refusal :=
  perform s (do
    kBefore s [] [w, g] (loadWait s (sregOf (ctx s) w).toNat 64)
    let sig ← kSig s g
    let r ← routeRecord s w
    pure (r.2.2 ++ [.kcmd (kEngine s) { kCmd s (.routeClose w g) sig with dst := r.1, wrec := r.2.1 }]))

/-! ### How much a command has to do -/

/-- The capacity C of a routing round (R279). -/
def routeCap (c : KCmd) : Nat :=
  let e := routeE c.wrec
  min 8192 ((c.capf * routeB c.wrec + 256 * e - 1) / (256 * e))

/-- Bytes of one line's block scales, and a tile's band scales (R120). -/
def lineScales (v : TileView) : Nat := if scBlock (twScale v.w) = 0 then 0 else ceilDiv v.run (scBlock (twScale v.w))
def bandScales (v : TileView) : Nat := if scBand (twScale v.w) then ceilDiv (v.ext 0) 64 else 0

/-- The items that a command moves one after the other: elements, then bytes of block scales, then band scales; else elements row by row, bytes, pairs
or experts. -/
def kTotal (c : KCmd) : Nat :=
  let v := viewOf 0 c.tile
  let need := needBytes v.w v.e
  match fld c.word 26 6 with
  | 0x01 | 0x02 => v.e.foldl (· * ·) 1 + v.lines * lineScales v + bandScales v
  | 0x03 | 0x04 | 0x05 => v.ext 0 * v.ext 1
  | 0x06 => c.value
  | 0x07 => need + 64
  | 0x08 => need
  | 0x0D => c.value * 8192
  | 0x0E => v.ext 0 * routeE c.wrec
  | 0x0F => 2 * routeE c.wrec + 1
  | _ => 1

/-- The progress of an image (R277) for a number of items done: a typed transfer counts elements and whole lines of scales, the band scales as one
more; the others count their items (log 91). -/
def kCount (c : KCmd) (p : Nat) : Nat :=
  let v := viewOf 0 c.tile
  let n := v.e.foldl (· * ·) 1
  let blk := v.lines * lineScales v
  match fld c.word 26 6 with
  | 0x01 | 0x02 =>
    if p ≤ n then p
    else if p < n + blk then n + (p - n) / lineScales v
    else n + (if blk = 0 then 0 else v.lines) + (if 0 < bandScales v ∧ n + blk + bandScales v ≤ p then 1 else 0)
  | _ => p

/-- The items done for a progress of an image. -/
def kItems (c : KCmd) (k : Nat) : Nat :=
  let v := viewOf 0 c.tile
  let n := v.e.foldl (· * ·) 1
  let lines := if lineScales v = 0 then 0 else v.lines
  match fld c.word 26 6 with
  | 0x01 | 0x02 => if k ≤ n then k else if k ≤ n + lines then n + (k - n) * lineScales v else kTotal c
  | _ => k

/-! ### KSAVE and KRESUME (R277) -/

/-- A command record. -/
def kRecord (c : KCmd) : List Byte :=
  natBytes 4 c.word ++
  natBytes 4 ((if c.started || decide (0 < c.progress) then 1 else 0) + (if c.parked.isSome || c.failed.isSome then 2 else 0)) ++
  natBytes 8 (kCount c c.progress) ++ natBytes 8 c.value ++ natBytes 8 (c.sig.getD 0) ++ natBytes 16 c.tile.tw.toNat ++ natBytes 8 c.tile.bd.toNat ++
  (List.range 4).flatMap (fun k => natBytes 4 (c.orig.getD k 0)) ++ natBytes 8 c.dst ++ natBytes 16 c.idx.tw.toNat ++
  natBytes 8 c.idx.bd.toNat ++ natBytes 8 (if fld c.word 26 6 = 1 then 0 else c.src) ++ natBytes 16 0 ++ (c.wrec ++ natBytes 128 0).take 128

/-- The image of an engine's commands. -/
def kImage (cs : List KCmd) : List Byte :=
  natBytes 4 0x4B534156 ++ natBytes 4 1 ++ natBytes 4 cs.length ++ natBytes 52 0 ++ cs.flatMap kRecord ++
  natBytes (256 * (16 - cs.length)) 0

/-- Size of the image. -/
def kImageBytes : Nat := 0x40 + 256 * 16

/-- Whether a write that an engine sent for a command is still short of a scope level (R266, R333). -/
def postedLeft (c : Core) (eng level : Nat) (f : Access → Bool) : Bool :=
  c.pend.any fun a => a.kind == .posted eng && decide (a.upto < level) && f a

/-- What an engine image at a virtual address waits for, beside the engine's own work: the core's acquires, its accesses to those bytes, the engine's
own writes to them, and writes that the core is ordered after (R335, R338, R340). -/
def imageWaits (s : State) (va : Nat) (write : Bool) : Bool :=
  acquirePending (cur s) || (piecesUpTo s (pieces va kImageBytes (kImageBytes / 8192 + 2))).any fun p =>
    pendMeets (cur s) p.1 p.2 || scopeHeld s s.focus p.1 p.2 write (fun _ => true) ||
      (cur s).pend.any fun a => a.kind == .posted (kEngine s) && a.meets p.1 p.2

/-- KSAVE (R277): the image is written, and the queue emptied, when the bundle issues; what the engine has sent towards memory is there first. -/
def execKsave (w : Nat) (s : State) : Host.Outcome State Fault Refusal :=
  perform s (do
    let x := ctx s
    freeRegs s [w]
    waitFor (!(postedLeft (cur s) (kEngine s) 3 (fun _ => true) || imageWaits s (sregOf x w).toNat true))
    let a ← rdS s 1 w
    needData s a.toNat 64
    match xlateSpan s s.focus x.mode (rootPa x.droot) a.toNat kImageBytes false true with
    | .error e => stopXl s a.toNat kImageBytes false true e
    | .ok ps =>
      let ns := issueNotes s a.toNat kImageBytes false true
      pure ((if ns.isEmpty then [] else [.act (.met ns)]) ++ [.act (.ksave (kEngine s) ps)]))

/-- A command as its record describes it; it has a completion word where its word names a register for one (R266). The tag of a pit command and the
mode are not in the record. A ROUTE's or ROUTE.CLOSE's routing record stands in the field of the window record, and its CAPF is that of the resuming
core: R277 places neither (log 117). -/
def kOfRecord (s : State) (bs : List Byte) (o : Nat) : KCmd :=
  let q (a n : Nat) : Nat := bytesNat ((bs.drop (o + a)).take n)
  let c : KCmd :=
    { word := q 0 4, value := q 0x10 8, sig := if fld (q 0 4) 6 5 = 0 then none else some (q 0x18 8)
      tile := ⟨BitVec.ofNat 128 (q 0x20 16), BitVec.ofNat 64 (q 0x30 8)⟩, orig := (List.range 4).map fun k => q (0x38 + 4 * k) 4
      dst := q 0x48 8, idx := ⟨BitVec.ofNat 128 (q 0x50 16), BitVec.ofNat 64 (q 0x60 8)⟩, src := q 0x68 8
      wrec := (bs.drop (o + 0x80)).take 128, capf := (cur s).capf.toNat, sm := (ctx s).mode == .stageManager
      tag := (freeOf s (16 + o)).toNat % 256, serial := (ctx s).serial, seq := 0, started := false, progress := 0, parked := none, failed := none
      ahead := [], skipped := false, flags := 0, done := false }
  { c with progress := kItems c (q 8 8) }

/-- Whether an OPWORD is a K command other than DRAIN, KSAVE and KRESUME. -/
def kOpLegal (w : Nat) : Bool :=
  let op := fld w 26 6
  w != 0 && op != 0x0A && op != 0x0B && op != 0x0C && (match decodeSlot .k w with | .ok _ => true | .error _ => false)

/-- The type words that a command captures, with their places in its record (R270-R279, R288). -/
def kTypes (c : KCmd) : List (Nat × BitVec 128) :=
  match fld c.word 26 6 with
  | 0x03 | 0x04 | 0x05 => [(0x20, c.tile.tw), (0x50, c.idx.tw)]
  | 0x01 | 0x02 | 0x07 | 0x08 | 0x0E | 0x20 | 0x21 | 0x22 | 0x24 => [(0x20, c.tile.tw)]
  | _ => []

/-- The reserved fields of a command record, by offset: STATE's, a binding's (R132), the record's own, and a captured window record's (R260, R277; the
start of the field that holds them is the model's choice, log 102). -/
def kReserved (q : Nat → Nat → Nat) (o : Nat) : Option Nat :=
  let op := q o 4 / 2 ^ 26
  let win : Bool := decide (1 ≤ op) && decide (op ≤ 5)
  if 4 ≤ q (o + 4) 4 then some (o + 4)
  else if q (o + 0x30) 8 / 2 ^ 44 ≠ 0 then some (o + 0x20)
  else if q (o + 0x60) 8 / 2 ^ 44 ≠ 0 then some (o + 0x50)
  else if q (o + 0x70) 16 ≠ 0 then some (o + 0x70)
  else if win ∧ q (o + 0x8A) 2 ≠ 0 then some (o + 0x88)
  else if win ∧ q (o + 0xD8) 40 ≠ 0 then some (o + 0xD8)
  else none

/-- The first field of an engine image that fails, by byte offset: each check over the whole image, in the order of R277. -/
def kImageBad (s : State) (bs : List Byte) : Option Nat :=
  let q (a n : Nat) : Nat := bytesNat ((bs.drop a).take n)
  let at' (i : Nat) : Nat := 0x40 + 256 * i
  let each (f : Nat → Option Nat) : Option Nat := (List.range (q 8 4)).findSome? f
  let cmd (i : Nat) : KCmd := kOfRecord s bs (at' i)
  if q 0 4 ≠ 0x4B534156 then some 0
  else if q 4 4 ≠ 1 then some 4
  else if 16 < q 8 4 then some 8
  else if q 0x0C 52 ≠ 0 then some 0x0C
  else
    (each fun i => kReserved q (at' i)).or <|
    (each fun i => if kOpLegal (cmd i).word then none else some (at' i)).or <|
    (each fun i => (kTypes (cmd i)).findSome? fun t =>
      match checkType s [] 0 t.2 with | .ok _ => none | .error _ => some (at' i + t.1)).or <|
    each fun i => if kCount (cmd i) (kTotal (cmd i)) < q (at' i + 8) 8 then some (at' i + 8) else none

/-- KRESUME (R277). -/
def execKresume (w : Nat) (s : State) : Host.Outcome State Fault Refusal :=
  perform s (do
    freeRegs s [w]
    waitFor ((kQueue (ctx s) (kEngine s)).isEmpty && !imageWaits s (sregOf (ctx s) w).toNat false)
    let a ← rdS s 1 w
    needData s a.toNat 64
    let bs ← loadV s a.toNat kImageBytes
    let notes := readNotes s a.toNat kImageBytes
    afterRead notes (do
      match kImageBad s bs with
      | some o => stopFault 5 o
      | none => pure ()
      let cs := (List.range (bytesNat ((bs.drop 8).take 4))).map fun i => kOfRecord s bs (0x40 + 256 * i)
      noClash s (cs.flatMap kRanges)
      touchRanges s (cs.flatMap kRanges)
      cs.forM fun c => banksHeld s c.tile.bd
      pure (notes ++ [.act (.kresume (kEngine s) cs)])))

end Sys2Proof.Machine
end

