-- ==== Sys2Proof/Machine/Reduce.lean ====
section
/-! DEFINITION. The reducing unit of the module whose MODID is 0 (R379): contributions gathered exactly, rounded once by the last. -/

namespace Sys2Proof.Machine

/-- The reducing unit serves the region of REDBASE. -/
def redOn (s : State) : Bool := s.house.redbase.getLsbD 0 && s.house.modid.toNat % 32 == 0

/-- The physical base of a slot. -/
def redSlotPa (s : State) (slot : Nat) : Nat := fld s.house.redbase.toNat 20 21 * 2 ^ 20 + slot * 0x4000

/-- The slot and first lane that n bytes at an address lie in, if they are whole lanes of an IN. -/
def redIn (s : State) (pa n : Nat) : Option (Nat × Nat) :=
  let o := pa - redSlotPa s 0
  if redOn s && decide (redSlotPa s 0 ≤ pa) && decide (o < 0x100000) && decide (o % 0x4000 + n ≤ 0x400) && o % 4 == 0 && n % 4 == 0 then
    some (o / 0x4000, o % 0x4000 / 4)
  else none

/-- FP32 codes added to the lanes of a slot, from a lane on. -/
def redAdd (s : State) (slot lane : Nat) (codes : List Nat) : State :=
  let r := mget ⟨0, []⟩ slot s.house.red
  let ls := (codes.mapIdx fun i c => (lane + i, c)).foldl (fun m p => mput p.1 (mget [] p.1 m ++ [p.2]) m) r.lanes
  { s with house := { s.house with red := mput slot { r with lanes := ls } s.house.red } }

/-- The lanes of a slot rounded once by RNE, with their flags. -/
def redRound (r : RedSlot) : List (Nat × Word) := (List.range 256).map fun l =>
  let x := fvSum false ((mget [] l r.lanes).map (decodeElt 0x12))
  let e := encodeElt 0x12 0 x.1
  (e.1, x.2 ||| e.2)

/-- A contribution is complete: the EXPECT-th writes OUT, zeroes IN and adds 1 to GEN, which is a release at dom scope; the flags of its rounding come
back. Errors under EXPECT and GEN start self-tests (R372). -/
def redArrive (s : State) (slot : Nat) : State × Word :=
  let r := mget ⟨0, []⟩ slot s.house.red
  let pa := redSlotPa s slot
  let n := r.count + 1
  let s := piecesMet s [(pa + 0x800, 8)]
  if n = physNat s (pa + 0x800) 8 then
    let es := redRound r
    let s1 := physWrite s (pa + 0x400) (es.flatMap fun e => natBytes 4 e.1)
    let s2 := physWrite s1 pa (natBytes 0x400 0)
    let s3 := released (physWrite (piecesMet s2 [(pa + 0x808, 8)]) (pa + 0x808) (natBytes 8 (physNat s (pa + 0x808) 8 + 1))) (pa + 0x808) 8 0 3
    ({ s3 with house := { s3.house with red := mput slot ⟨0, []⟩ s3.house.red } }, es.foldl (fun f e => f ||| e.2) 0)
  else ({ s with house := { s.house with red := mput slot { r with count := n } s.house.red } }, 0)

end Sys2Proof.Machine
end

