-- ==== Sys2Proof/Machine/CopyRun.lean ====
section
/-! DEFINITION. The copy engines at work: each command unit by unit, parking and errors (R267, R268), routing at the homes (R280, R281), start
and completion (R265, R266, R275), KSAVE and KRESUME performed (R277). -/

namespace Sys2Proof.Machine

/-- Why a unit of a command does not perform: it parks (R267), meets an error in data or in its engine's own array (R268, R402), or waits for a range,
an access or room. -/
inductive KStop where
  | park (w : Word)
  | bad (pa : Nat)
  | sram (info : Nat)
  | wait
  deriving DecidableEq, Repr

/-- The FAULTINFO of a deferred translation fault, engine and place left 0 (R267). -/
def parkWord (va reason : Nat) : Word := BitVec.ofNat 64 (va / 8192 * 8192 + 2 ^ 12 + reason)

/-- Whether an address lies in a tier that a command may use: 0 any, 1 HBM or the loft, 2 the loft, 3 HBM, 4 any but the loft and
another module's memory, 5 any but the latter. -/
def tierOk (tier pa : Nat) : Bool :=
  match tier with
  | 0 => true
  | 1 => isHbm pa || isLoft pa
  | 2 => isLoft pa
  | 3 => isHbm pa
  | 4 => !isLoft pa && !isPeer pa
  | _ => !isPeer pa

/-- A scalar access of the core to the same bytes, issued before a command, is still in flight (R335). -/
def earlierMeets (s : State) (core seq pa n : Nat) : Bool := (coreOf s core).pend.any fun a =>
  memoryAccess a && !postedAccess a && decide (bundleOf a.seq < bundleOf seq) && a.meets pa n

/-- What a read of an engine waits for: an earlier scalar access to the same bytes, a write that the engine itself has sent there, or a write that
has performed at a narrow scope only (R335, R340). -/
def engineWaits (s : State) (core eng seq pa n : Nat) (write : Bool) : Bool :=
  earlierMeets s core seq pa n || (coreOf s core).pend.any (fun a => a.kind == .posted eng && a.meets pa n) ||
    scopeHeld s core pa n write fun _ => true

/-- A write into a core's scratchpad window that would wait there (R258). -/
def windowBusy (s : State) (pa n : Nat) : Bool :=
  isWindow pa && decide (windowOff pa < 0x200000) && scratchHeld s (windowCore pa) (windowOff pa) n

/-- The mode under whose rights a command's addresses are translated. -/
def kMode (c : KCmd) : Mode := if c.sm then .stageManager else .cue

/-- The translation of a command's address under the running cue's DROOT. -/
def kXlate (s : State) (core : Nat) (c : KCmd) (va : Nat) (rd wr : Bool) : Except Nat (Nat × List TlbEnt) :=
  xlate s core (kMode c) (rootPa (coreOf s core).ctx.droot) va rd wr

/-- Physical pieces of a span that a command reads, writes, or reads and writes at once: translated with the rights that `rd` and `wr` ask for, in
tier, in order; `wait` for an access made now, as a write that is only sent waits later (R267, R333, R335). -/
def kPieces (s : State) (core eng : Nat) (c : KCmd) (rd wr chk wait : Bool) (tier : Nat) : List (Nat × Nat) → Except KStop (List (Nat × Nat))
  | [] => .ok []
  | p :: ps =>
    match kXlate s core c p.1 rd wr with
    | .error r => .error (.park (parkWord p.1 r))
    | .ok q =>
      if !tierOk tier q.1 then .error (.park (parkWord p.1 3))
      else if wait && (engineWaits s core eng c.seq q.1 p.2 wr || (wr && windowBusy s q.1 p.2)) then .error .wait
      else if chk && isBad s q.1 p.2 then .error (.bad ((badAddr s q.1 p.2).getD q.1))
      else (kPieces s core eng c rd wr chk wait tier ps).map fun rest => (q.1, p.2) :: rest

/-- How many bytes of a span lie before its first page that does not translate into the tier (R267). -/
def kReach (s : State) (core : Nat) (c : KCmd) (rd wr : Bool) (tier : Nat) : List (Nat × Nat) → Nat
  | [] => 0
  | p :: ps =>
    match kXlate s core c p.1 rd wr with
    | .error _ => 0
    | .ok q => if tierOk tier q.1 then p.2 + kReach s core c rd wr tier ps else 0

/-- The pages of a span. -/
def kPages (va n : Nat) : List (Nat × Nat) := pieces va n (n / 8192 + 2)

/-- The walks of a command's span leave their notes (R9, R372). -/
def kWalked (s : State) (core va n : Nat) : State :=
  (kPages va n).foldl (fun st p => walkMet st core false (rootPa (coreOf s core).ctx.droot) p.1) s

/-- Bytes read at a virtual address; the house die counts a read of a disabled core's window, and an error in the tables that map it starts a
self-test (R9, R372). -/
def kRead (s : State) (core eng : Nat) (c : KCmd) (va n tier : Nat) : Except KStop (List Byte × State) :=
  (kPieces s core eng c true false true true tier (kPages va n)).map fun ps => (readPieces s ps, kWalked (notePieces s ps) core va n)

/-! ### Units of a window read in parts (R244, R258, R333) -/

/-- The name of a byte in the buffer of an engine. -/
def kbufKey (eng pa : Nat) : Nat := 2 * pa + eng

/-- A core's buffer replaced. -/
def setKbuf (s : State) (core : Nat) (b : List (Nat × Byte)) : State := setCoreOf s core { coreOf s core with kbuf := b }

/-- An engine keeps nothing. -/
def kbufClear (s : State) (core eng : Nat) : State := setKbuf s core ((coreOf s core).kbuf.filter fun e => e.1 % 2 != eng)

/-- What an engine keeps of bytes that its own command writes follows the write (R273, R335). -/
def kbufPatch (s : State) (core eng pa : Nat) (bs : List Byte) : State :=
  let b := (coreOf s core).kbuf
  if b.isEmpty then s
  else setKbuf s core (b.map fun e =>
    if e.1 % 2 = eng ∧ pa ≤ e.1 / 2 ∧ e.1 / 2 < pa + bs.length then (e.1, bs.getD (e.1 / 2 - pa) 0) else e)

/-- Whether a byte of a core's own window may be kept: no access of the core to it is on its way, nor a result of its sequencer. -/
def kbufMay (c : Core) (core pa : Nat) : Bool :=
  !(isWindow pa && windowCore pa == core) || !(c.pend.any (fun a => memoryAccess a && a.meets pa 1) || (c.ctx.inflight ++ c.ctx.trapCap).any fun fl =>
    match fl.upd with
    | some (.spad o n _) => overlaps o n (windowOff pa) 1
    | some (.row r _ _) => overlaps (0x200000 + 512 * r) 512 (windowOff pa) 1
    | _ => false)

/-- The physical pieces of a read, of a core's window by aligned units of 64 bytes. -/
def fetchUnits (ps : List (Nat × Nat)) : List (Nat × Nat) := ps.flatMap fun p => if isWindow p.1 then units64 p.1 p.2 (p.2 / 64 + 2) else [p]

/-- One piece read: of a unit of a window all is read at once, and what is not asked for is kept for the same command; what it asked for before is
taken from there. -/
def fetchUnit (s : State) (core eng : Nat) (u : Nat × Nat) : List Byte × State :=
  if !isWindow u.1 then (physRead s u.1 u.2, s)
  else
    let c := coreOf s core
    let own (e : Nat × Byte) : Bool := e.1 % 2 == eng && decide (u.1 ≤ e.1 / 2) && decide (e.1 / 2 < u.1 + u.2)
    let bs := (List.range u.2).map fun i => mget (physByte s (u.1 + i)) (kbufKey eng (u.1 + i)) c.kbuf
    let left := c.kbuf.filter fun e => !own e
    let base := u.1 / 64 * 64
    let rest := ((List.range 64).map (base + ·)).filter fun pa => !(decide (u.1 ≤ pa) && decide (pa < u.1 + u.2)) && kbufMay c core pa
    (bs, if c.kbuf.any own then setKbuf s core left
      else if rest.isEmpty then s else setKbuf s core (rest.foldl (fun m pa => mput (kbufKey eng pa) (physByte s pa) m) c.kbuf))

/-- Bytes read at a virtual address by a command that moves data: each aligned 64-byte unit of a core's window is read whole, however the command cuts
what it moves (R244, R258, R333); for a unit of another core's window it waits as a whole. -/
def kFetch (s : State) (core eng : Nat) (c : KCmd) (va n tier : Nat) : Except KStop (List Byte × State) :=
  match kPieces s core eng c true false true true tier (kPages va n) with
  | .error e => .error e
  | .ok ps =>
    let us := fetchUnits ps
    if us.any fun u => isWindow u.1 && windowCore u.1 != core && engineWaits s core eng c.seq (u.1 / 64 * 64) 64 false then .error .wait
    else .ok (us.foldl (fun acc u => let r := fetchUnit acc.2 core eng u; (acc.1 ++ r.1, r.2)) ([], kWalked (notePieces s ps) core va n))

/-! ### Writes -/

/-- The units in which a write of n bytes performs: 64 bytes where the storage takes them whole, else 8 (R258, R333). -/
def writeUnits (pa n : Nat) : Nat → List (Nat × Nat)
  | 0 => []
  | fuel + 1 =>
    if n = 0 then []
    else
      let wide := if isWindow pa then decide (windowOff pa < 0x200000) else pa % 64 == 0 && decide (64 ≤ n)
      let k := if wide then min n (64 - pa % 64) else min n (8 - pa % 8)
      (pa, k) :: writeUnits (pa + k) (n - k) fuel

/-- The scope at which a command's writes count: that of its word, or mod (R266, R269). -/
def kScope (c : KCmd) : Nat :=
  match fld c.word 26 6 with
  | 0x02 | 0x04 | 0x05 | 0x06 | 0x07 | 0x09 => fld c.word 0 2
  | _ => 2

/-- The accesses of a write that an engine sends, unit by unit. -/
def kSent (eng : Nat) (c : KCmd) : List (Nat × Nat) → List Byte → List Access
  | [], _ => []
  | u :: us, bs =>
    { seq := c.seq, kind := .posted eng, va := 0, pa := u.1, size := u.2, dst := 0, data := bytesNat (bs.take u.2), swap := 0,
      scope := kScope c, acq := false, rel := false, serial := c.serial, home := none, upto := 0, seen := [] } :: kSent eng c us (bs.drop u.2)

/-- Bytes sent to a virtual address: the units perform on their own, in any order that R335 leaves (R333, R336); `rel` marks a release's word. -/
def kWrite (s : State) (core eng : Nat) (c : KCmd) (va : Nat) (bs : List Byte) (tier : Nat) (rel : Bool := false) : Except KStop State :=
  (kPieces s core eng c false true false false tier (kPages va bs.length)).map fun ps =>
    let sent := (kSent eng c (ps.flatMap fun p => writeUnits p.1 p.2 (p.2 + 1)) bs).map fun a => { a with rel := rel }
    let s1 := sent.foldl (fun st a => kbufPatch st core eng a.pa (natBytes a.size a.data)) (kWalked s core va bs.length)
    let x := coreOf s1 core
    setCoreOf s1 core { x with pend := x.pend ++ sent }

/-- Two writes of an engine as one, which leaves alone what neither of them writes (R333). -/
def joinSent (a b : Access) : Access :=
  let lo := min a.pa b.pa
  let of (x : Access) (p : Nat) : Option Byte := if x.meets p 1 then some (BitVec.ofNat 8 (x.data / 2 ^ (8 * (p - x.pa)))) else none
  let bs := (List.range (max (a.pa + a.size) (b.pa + b.size) - lo)).map fun i => (of b (lo + i)).or (of a (lo + i))
  { a with pa := lo, size := bs.length, data := bytesNat (bs.map (·.getD 0)), hole := packElts 1 (bs.map fun b => if b.isNone then 1 else 0) }

/-- Writes joined where they lie in one naturally aligned unit of u bytes. -/
def joinUnits (u : Nat) (l : List Access) : List Access := l.foldl (fun acc a =>
  if acc.any fun b => b.pa / u == a.pa / u then acc.map fun b => if b.pa / u = a.pa / u then joinSent b a else b else acc ++ [a]) []

/-- The writes that an engine sends together: those into one atomic unit are one, 64 bytes of a scratchpad window or 64 bytes written whole, else 8
bytes (R333). -/
def joinAll (l : List Access) : List Access :=
  (joinUnits 64 l).flatMap fun m =>
    if (isWindow m.pa && decide (windowOff m.pa < 0x200000)) || (m.size == 64 && m.hole == 0) then [m]
    else joinUnits 8 (l.filter fun a => a.pa / 64 == m.pa / 64)

/-- The writes that a core has sent since a state, joined. -/
def sentSince (s t : State) (core : Nat) : State :=
  let n := (coreOf s core).pend.length
  let c := coreOf t core
  setCoreOf t core { c with pend := c.pend.take n ++ joinAll (c.pend.drop n) }

/-- Bytes replaced at a virtual address by a read and a write in one (R271, R279, R281). -/
def kReplace (s : State) (core eng : Nat) (c : KCmd) (va n : Nat) (chk : Bool) (f : List Byte → List Byte) : Except KStop State :=
  (kPieces s core eng c true true chk true 0 (kPages va n)).map fun ps => writePieces (kWalked s core va n) ps (f (readPieces s ps))

/-- Bytes of the core's own storage, with an error in them found (R268). -/
def kLocal (s : State) (v : TileView) (o n : Nat) : Except KStop (List Byte) :=
  match v.bad s o n with
  | some pa => .error (.bad pa)
  | none => .ok (coreLoad s v.core (v.off + o) n)

/-- One element reduced into memory's (R271). -/
def redElement (fmt red old new : Nat) : Nat × Word :=
  let a := decodeElt fmt old
  let b := decodeElt fmt new
  let r := if red = 1 then fvSum false [a, b] else fvPick (red == 2) a b
  let e := encodeElt fmt 0 r.1
  (e.1, r.2 ||| e.2)

/-- Codes at a bit place of bytes, reduced or replaced: the bytes after, and the flags. -/
def mergeCodes (fmt red w bit : Nat) (old : List Byte) (new : List Nat) : List Byte × Word :=
  let x := bytesNat old
  let rs := new.mapIdx fun i c =>
    if red = 0 then (c, 0#64) else redElement fmt red (x / 2 ^ (bit + w * i) % 2 ^ w) c
  let y := (rs.mapIdx fun i r => (i, r.1)).foldl (fun acc p => patchBits acc (bit + w * p.1) w p.2) x
  (natBytes old.length y, rs.foldl (fun f r => f ||| r.2) 0)

/-- Flags gathered in the STICKY of a core's running cue. -/
def kSticky (s : State) (core : Nat) (f : Word) : State :=
  let c := coreOf s core
  setCoreOf s core { c with ctx := { c.ctx with sticky := stickySet c.ctx.sticky f } }

/-- A TSTORE.add at dom scope of at most 1 KiB of FP32, which may be a contribution to an all-reduce (R379). -/
def kGives (c : KCmd) : Bool :=
  fld c.word 26 6 == 2 && fld c.word 4 2 == 1 && fld c.word 0 2 == 3 && twFmt c.tile.tw.toNat == 0x12 &&
    decide (4 * (constExts c.tile.tw.toNat).foldl (· * ·) 1 ≤ 1024)

/-- The state and the command after a unit. -/
abbrev KUnit := Except KStop (State × KCmd)

/-- Codes stored over memory at a bit place: whole bytes are sent; bits of a byte, what shares a unit with such bits, and reductions (R271) replace
what stands there at once; a contribution goes to the reducing unit (R379). Flags wait in the command for its completion. -/
def kStoreCodes (s : State) (core eng : Nat) (c : KCmd) (whole : Bool) (va bit w fmt red : Nat) (codes : List Nat) : KUnit :=
  let n := (bit + w * codes.length + 7) / 8
  if red = 0 ∧ whole then
    (kWrite s core eng c va (mergeCodes fmt 0 w 0 (natBytes n 0) codes).1 0).map fun st => (st, c)
  else
    (kPieces s core eng c (decide (red ≠ 0)) true (decide (red ≠ 0)) true 0 (kPages va n)).map fun ps =>
      let m := mergeCodes fmt red w bit (readPieces s ps) codes
      let s := kWalked s core va n
      let plain := (writePieces s ps m.1, { c with flags := c.flags ||| m.2 })
      match ps with
      | [p] => match (if kGives c then redIn s p.1 p.2 else none) with
        | some q => (redAdd s q.1 q.2 codes, c)
        | none => plain
      | _ => plain

/-- The slot that a whole contribution goes to: that of its first element. -/
def kGiven (s : State) (core : Nat) (c : KCmd) : Option Nat :=
  if kGives c then
    match kXlate s core c (winElt (winRec c.wrec) (winIndex0 c)).1 true true with
    | .ok q => (redIn s q.1 4).map Prod.fst
    | .error _ => none
  else none
where
  /-- The window index of the first element. -/
  winIndex0 (c : KCmd) : List Nat := (List.range 4).map fun k => c.orig.getD k 0

/-! ### Typed transfers -/

/-- The window index of a tile index (R270, R271). -/
def winIndex (c : KCmd) (tr : Bool) (i : List Nat) : List Nat :=
  (List.range 4).map fun k => c.orig.getD k 0 + (if tr then swap01 i else i).getD k 0

/-- Pre-staged lines that a TLOAD at origin 0 takes: those staged for its cue and its record, under the same DROOT and VERSION (R313). -/
def stagedLines (s : State) (core : Nat) (c : KCmd) : List PreLine :=
  let x := (coreOf s core).ctx
  if c.src = 0 ∨ c.orig.any (· != 0) then []
  else (dieOf s (dieOfCore core)).prestage.filter fun l =>
    l.owner == some (core, c.serial) && l.recAddr == c.src && l.version == (winRec c.wrec).version && l.root == rootPa x.droot

/-- A byte that the lines hold. -/
def stagedByte (ls : List PreLine) (va : Nat) : Option Byte :=
  (ls.find? fun l => l.line == va / 64 * 64).map fun l => l.data.getD (va % 64) 0

/-- The lines that hold bytes of a span have been used, each counted once (R112, R313). -/
def stagedUse (s : State) (core va n : Nat) (ls : List PreLine) : State :=
  let hit (l : PreLine) : Bool := ls.contains l && decide (l.line < va + n) && decide (va < l.line + 64)
  let d := dieOf s (dieOfCore core)
  let k := (d.prestage.filter fun l => hit l && !l.used).length
  let s1 := setDie s (dieOfCore core) { d with prestage := d.prestage.map fun l => if hit l then { l with used := true } else l }
  setCoreOf s1 core ((List.range k).foldl (fun c _ => countEvent c 8) (coreOf s1 core))

/-- Bytes a TLOAD reads, line by line: from a staged line where it is present, else from memory (R313). -/
def kReadStaged (s : State) (core eng : Nat) (c : KCmd) (va n : Nat) : Except KStop (List Byte × State) :=
  let ls := stagedLines s core c
  if ls.isEmpty then kFetch s core eng c va n 0
  else (units64 va n (n / 64 + 2)).foldlM (fun acc u => do
    let st := (List.range u.2).map fun i => stagedByte ls (u.1 + i)
    if st.all (·.isSome) then pure (acc.1 ++ st.map (·.getD 0), stagedUse acc.2 core u.1 u.2 ls)
    else do
      let bs ← kFetch acc.2 core eng c u.1 u.2 0
      pure (acc.1 ++ bs.1, bs.2)) ([], s)

/-- What a command moves at one place of its order: bits of memory, and the tile bytes that it takes; an element has its indices, a scale none. -/
structure KItem where
  mem : Nat
  bits : Nat
  lo : Nat
  hi : Nat
  elt : Option (List Nat)

/-- The bytes of the tile that an element lies in; of a PLANE tile, those of its whole row of planes (R136, R196). -/
def eltSpan (v : TileView) (i : List Nat) : Nat × Nat :=
  let row := v.ew * v.ext 1
  if v.layout = 2 then (i.getD 0 0 * row / 8, ceilDiv ((i.getD 0 0 + 1) * row) 8) else (v.bit i 0 / 8, ceilDiv (v.bit i 0 + v.ew) 8)

/-- An element against a window's element. -/
def eltItem (v : TileView) (i : List Nat) (a : Nat × Nat) : KItem := ⟨8 * a.1 + a.2, v.ew, (eltSpan v i).1, (eltSpan v i).2, some i⟩

/-- Item q of TLOAD or TSTORE: an element in the tile's linear order, then a byte of block scales, then a band scale (R120, R271). -/
def typedItem (c : KCmd) (v : TileView) (q : Nat) : KItem :=
  let r := winRec c.wrec
  let n := v.e.foldl (· * ·) 1
  let k := q - n
  let con := r.contig
  if q < n then eltItem v (v.lin q) (winElt r (winIndex c (fld c.word 3 1 == 1) (v.lin q)))
  else if k < v.lines * lineScales v then
    let l := k / lineScales v
    let j := k % lineScales v
    let b := scBlock (twScale v.w)
    let o := v.blkAt (v.at l 0) + j
    ⟨8 * (r.sbase + (c.orig.getD (1 - con) 0 + l) * ceilDiv (r.ext.getD con 1) b + c.orig.getD con 0 / b + j), 8, o, o + 1, none⟩
  else
    let j := k - v.lines * lineScales v
    let o := v.bandAt 0 + 2 * j
    ⟨8 * (r.bbase + 2 * (c.orig.getD 0 0 / 64) + 2 * j), 16, o, o + 2, none⟩

/-- The bytes that an item writes. -/
def KItem.span (it : KItem) (v : TileView) (load : Bool) : Nat × Nat :=
  if load then (v.off + it.lo, v.off + it.hi) else (it.mem / 8, ceilDiv (it.mem + it.bits) 8)

/-- Whole 64-byte units around bytes, widened until no span of the list crosses their ends. -/
def unitHull (spans : List (Nat × Nat)) : Nat → Nat × Nat → Nat × Nat
  | 0, r => r
  | k + 1, r =>
    let r' := spans.foldl (fun (a : Nat × Nat) e =>
      if e.1 < a.2 ∧ a.1 < e.2 then (min a.1 (e.1 / 64 * 64), max a.2 (round64 e.2)) else a) r
    if r' = r then r else unitHull spans k r'

/-- The items that perform together with the first ones: those that write into the same naturally aligned 64-byte units (R333). -/
def unitItems (v : TileView) (load : Bool) (first : List (Nat × KItem)) (its : List (Nat × KItem)) : List (Nat × KItem) :=
  let sp (e : Nat × KItem) : Nat × Nat := e.2.span v load
  match first with
  | [] => []
  | h :: t =>
    let seed := t.foldl (fun (a : Nat × Nat) e => (min a.1 ((sp e).1 / 64 * 64), max a.2 (round64 (sp e).2))) ((sp h).1 / 64 * 64, round64 (sp h).2)
    let hull := unitHull (its.map sp) 64 seed
    its.filter fun e => decide ((sp e).1 < hull.2) && decide (hull.1 < (sp e).2)

/-- The items that a command moves with its next one: a reduction takes each element by itself (R271, R333). -/
def nextItems (v : TileView) (load : Bool) (red : Nat) (its : List (Nat × KItem)) : List (Nat × KItem) :=
  if red = 0 then unitItems v load (its.take 1) its else its.take 1

/-- Items in runs that follow one another in memory, within a page; one that crosses into the next page stands alone. -/
def itemRuns : List (Nat × KItem) → List (List (Nat × KItem))
  | [] => []
  | x :: xs => match itemRuns xs with
    | (y :: ys) :: rs =>
      if y.2.mem = x.2.mem + x.2.bits ∧ y.2.bits = x.2.bits ∧ (y.2.mem + y.2.bits - 1) / 65536 = x.2.mem / 65536 then (x :: y :: ys) :: rs
      else [x] :: (y :: ys) :: rs
    | rs => [x] :: rs

/-- Items noted as moved. -/
def kMoved (c : KCmd) (qs : List Nat) : KCmd :=
  qs.foldl (fun c q => if q = c.progress then { c with progress := q + 1 } else { c with ahead := (q, q + 1) :: c.ahead }) c

/-- The items of a command from its progress on that have not moved. -/
def kLeft (c : KCmd) : List Nat :=
  ((List.range (kTotal c - c.progress)).map (c.progress + ·)).filter fun q => !c.ahead.any fun r => decide (r.1 ≤ q) && decide (q < r.2)

/-- Runs read, up to one that parks or meets an error, which is raised when it comes first (R267, R268): the codes by item. -/
def loadRuns (read : State → Nat → Nat → Except KStop (List Byte × State)) :
    State → List (List (Nat × KItem)) → Except KStop (List (Nat × KItem × Nat) × State)
  | s, [] => .ok ([], s)
  | s, run :: rest =>
    let m := ((run.head?).map fun e => e.2.mem).getD 0
    let w := ((run.head?).map fun e => e.2.bits).getD 8
    match read s (m / 8) ((m % 8 + run.length * w + 7) / 8) with
    | .error e => .error e
    | .ok (bs, s1) =>
      let codes := run.mapIdx fun k e => (e.1, e.2, elt w (bytesNat bs / 2 ^ (m % 8)) k)
      match loadRuns read s1 rest with
      | .ok r => .ok (codes ++ r.1, r.2)
      | .error .wait => .error .wait
      | .error _ => .ok (codes, s1)

/-- What an engine keeps of bytes of its core's storage that its command has just written follows them. -/
def kbufFollow (s : State) (core eng off n : Nat) : State :=
  if (coreOf s core).kbuf.isEmpty then s else kbufPatch s core eng (windowPa core off) (coreLoad s core off n)

/-- Codes written into the tile. -/
def putItems (v : TileView) (eng : Nat) (s : State) (its : List (Nat × KItem × Nat)) : State :=
  its.foldl (fun st e => kbufFollow st v.core eng (v.off + e.2.1.lo) (e.2.1.hi - e.2.1.lo))
    ((its.filter fun e => e.2.1.elt.isNone).foldl (fun st e => v.putBytes st e.2.1.lo (natBytes (e.2.1.hi - e.2.1.lo) e.2.2))
      (v.put s (its.filterMap fun e => e.2.1.elt.map fun i => (i, e.2.2))))

/-- The code of an item in the tile. -/
def itemCode (s : State) (v : TileView) (it : KItem) : Nat :=
  match it.elt with | some i => v.code s i | none => bytesNat (coreLoad s v.core (v.off + it.lo) (it.hi - it.lo))

/-- The bits of an item that lie before the page at which its command parks, where it crosses into that page (R267). -/
def parkBits (it : KItem) (w : Word) : Option Nat :=
  let p := w.toNat / 8192 * 65536
  if it.mem < p ∧ p < it.mem + it.bits then some (p - it.mem) else none

/-- Items of one unit loaded. Where the first parks in the midst of its bytes, those before the failing page are moved (R267). -/
def loadItems (v : TileView) (eng : Nat) (read : State → Nat → Nat → Except KStop (List Byte × State)) (s : State) (c : KCmd)
    (its : List (Nat × KItem)) : KUnit :=
  match loadRuns read s (itemRuns its), its.head? with
  | .ok r, _ => .ok (putItems v eng r.2 r.1, kMoved c (r.1.map Prod.fst))
  | .error (.park w), some e => match parkBits e.2 w with
    | none => .error (.park w)
    | some n => do
      let r ← read s (e.2.mem / 8) ((e.2.mem % 8 + n) / 8)
      let code := bytesNat r.1 / 2 ^ (e.2.mem % 8) % 2 ^ n + itemCode s v e.2 / 2 ^ n * 2 ^ n
      pure (putItems v eng r.2 [(e.1, e.2, code)], { c with parked := some w })
  | .error e, _ => .error e

/-- The first error in the storage of elements of a tile. -/
def eltsBad (s : State) (v : TileView) (is : List (List Nat)) : Option Nat :=
  (v.fields (is.map fun i => (i, 0))).findSome? fun f => v.bad s (f.1 / 8) ((f.1 % 8 + f.2.1 + 7) / 8)

/-- The first error in the tile bytes of an item. -/
def itemBad (s : State) (v : TileView) (it : KItem) : Option Nat :=
  match it.elt with | some i => eltsBad s v [i] | none => v.bad s it.lo (it.hi - it.lo)

/-- Runs stored, up to one that parks or meets an error, which is raised when it comes first. -/
def storeRuns (core eng : Nat) (v : TileView) (red : Nat) (whole : Bool) (code : KItem → Nat) : State → KCmd → List (List (Nat × KItem)) → KUnit
  | s, c, [] => .ok (s, c)
  | s, c, run :: rest =>
    let m := ((run.head?).map fun e => e.2.mem).getD 0
    let w := ((run.head?).map fun e => e.2.bits).getD 8
    match kStoreCodes s core eng c whole (m / 8) (m % 8) w v.fmt red (run.map fun e => code e.2) with
    | .error e => .error e
    | .ok r =>
      let c' := kMoved r.2 (run.map Prod.fst)
      match storeRuns core eng v red whole code r.1 c' rest with
      | .ok q => .ok q
      | .error .wait => .error .wait
      | .error _ => .ok (r.1, c')

/-- Items of one unit stored together in the order in which the command moves them, so that the last of several in one place stands, those of them
before the first that holds an error (R268, R271, R272, R333). Where the first parks in the midst of its bytes, those before the failing page are
written (R267). -/
def storeItems (s : State) (core eng : Nat) (v : TileView) (red : Nat) (c : KCmd) (its : List (Nat × KItem)) : KUnit :=
  match its.takeWhile fun e => (itemBad s v e.2).isNone with
  | [] => match its.head?.bind fun e => itemBad s v e.2 with
    | some pa => .error (.bad pa)
    | none => .ok (s, c)
  | good =>
    let code := itemCode (asRead s core c.old) v
    let runs := itemRuns good
    let whole := runs.all fun run => run.all fun e => e.2.mem % 8 == 0 && e.2.bits % 8 == 0
    match storeRuns core eng v red whole code s c runs, good.head? with
    | .ok r, _ => .ok (if red = 0 then sentSince s r.1 core else r.1, r.2)
    | .error (.park w), some e => match if red = 0 then parkBits e.2 w else none with
      | none => .error (.park w)
      | some n => (kStoreCodes s core eng c whole (e.2.mem / 8) (e.2.mem % 8) n v.fmt 0 [code e.2 % 2 ^ n]).map fun r =>
          (r.1, { r.2 with parked := some w })
    | .error e, _ => .error e

/-- One unit of TLOAD or TSTORE: the next item with those that share its unit; a reduction takes each element by itself (R271, R333). -/
def unitTyped (s : State) (core eng : Nat) (c : KCmd) : KUnit :=
  let v := viewOf core c.tile
  let load := fld c.word 26 6 == 1
  let red := if load then 0 else fld c.word 4 2
  let its := nextItems v load red ((kLeft c).map fun q => (q, typedItem c v q))
  if load then loadItems v eng (fun st va n => kReadStaged st core eng c va n) s c its else storeItems s core eng v red c its

/-! ### Indexed transfers -/

/-- The index value of row i: none for one that is skipped without a status (R272). -/
def idxOf (s : State) (core : Nat) (c : KCmd) (i : Nat) : Option Nat :=
  let v := viewOf core c.idx
  let x := v.code (asRead s core c.old) [i]
  if v.fmt = 7 then (if x = 0xFFFF then none else some x) else if 2 ^ 31 ≤ x then none else some x

/-- Whether the index of row i is out of range (R272). -/
def idxOut (s : State) (core : Nat) (c : KCmd) (i : Nat) : Bool :=
  match idxOf s core c i with
  | some j => decide ((winRec c.wrec).ext.getD 0 0 ≤ j)
  | none => false

/-- Whether a span reaches the core's own window. -/
def ownWindow (s : State) (core : Nat) (c : KCmd) (va n : Nat) : Bool := (kPages va n).any fun p =>
  match kXlate s core c p.1 true false with
  | .ok q => isWindow q.1 && windowCore q.1 == core
  | .error _ => false

/-- Item q of an indexed transfer, if its row is moved: element q of the tile, row by row, against the window row that its index names (R272). -/
def indexedItem (s : State) (core : Nat) (c : KCmd) (v : TileView) (q : Nat) : Option KItem :=
  let r := winRec c.wrec
  let m := max (v.ext 1) 1
  if (eltsBad s (viewOf core c.idx) [[q / m]]).isSome then none
  else ((idxOf s core c (q / m)).filter fun j => decide (j < r.ext.getD 0 0)).map fun j => eltItem v [q / m, q % m] (winElt r [j, q % m, 0, 0])

/-- Rows of a GATHER from the core's own window, from row i on: each is read whole before it is written, and rows that share a 64-byte unit of the
tile follow one another in one move (R272, R333). -/
def gatherRows (core eng : Nat) (v : TileView) (read : State → Nat → Nat → Except KStop (List Byte × State)) : Nat → State → KCmd → Nat → KUnit
  | 0, s, c, _ => .ok (s, c)
  | fuel + 1, s, c, i =>
    let m := max (v.ext 1) 1
    let its := ((kLeft c).filter fun q => q / m == i).filterMap fun q => (indexedItem s core c v q).map fun x => (q, x)
    match loadItems v eng read s c its with
    | .error e => .error e
    | .ok r =>
      let tail := (its.map fun e => e.2.hi).foldl max 0
      let next := indexedItem r.1 core r.2 v (m * (i + 1))
      let shares := next.any fun it => (v.off + it.lo) / 64 == (v.off + tail - 1) / 64
      if r.2.parked.isSome || (kLeft r.2).any (fun q => q / m == i) || !shares || decide (v.ext 0 ≤ i + 1) then .ok r
      else match gatherRows core eng v read fuel r.1 r.2 (i + 1) with
        | .ok q => .ok q
        | .error .wait => .error .wait
        | .error _ => .ok r

/-- One unit of TLOAD.IX, GATHER or SCATTER: the next element with those that share its unit, or the rest of a row that is skipped (R272, R333). A
GATHER from the core's own window takes whole rows. -/
def unitIndexed (s : State) (core eng : Nat) (c : KCmd) : KUnit :=
  let v := viewOf core c.tile
  let op := fld c.word 26 6
  let m := max (v.ext 1) 1
  let i := c.progress / m
  let row := (kLeft c).filter fun q => q / m == i
  match eltsBad s (viewOf core c.idx) [[i]] with
  | some pa => .error (.bad pa)
  | none =>
    match indexedItem s core c v c.progress with
    | none => .ok (s, kMoved { c with skipped := c.skipped || idxOut s core c i } row)
    | some it =>
      let its := (kLeft c).filterMap fun q => (indexedItem s core c v q).map fun x => (q, x)
      let own := op == 4 && ownWindow s core c (it.mem / 8) (ceilDiv (it.mem % 8 + row.length * v.ew) 8)
      let read (st : State) (va n : Nat) : Except KStop (List Byte × State) := kFetch st core eng c va n (if op = 3 then 1 else 0)
      if op = 5 then storeItems s core eng v (fld c.word 4 2) c (nextItems v false (fld c.word 4 2) its)
      else if own then gatherRows core eng v read (v.ext 0) s c i
      else loadItems v eng read s c (nextItems v true 0 its)

/-! ### Byte transfers -/

/-- One 64-byte unit of the destination of COPY or PREFETCH, or what of it comes before a page that its source does not reach (R267, R273, R278). -/
def unitCopy (s : State) (core eng : Nat) (c : KCmd) (src total t1 t2 : Nat) : KUnit := do
  let p := c.progress
  let n := min (64 - (c.dst + p) % 64) (total - p)
  let k := kReach s core c true false t1 (kPages (src + p) n)
  let n := if k = 0 then n else min n k
  let bs ← kFetch s core eng c (src + p) n t1
  let s' ← kWrite bs.2 core eng c (c.dst + p) bs.1 t2
  pure (s', { c with progress := p + n })

/-- A unit of TSEND: payload, then the header (R274). -/
def unitTsend (s : State) (core eng : Nat) (c : KCmd) : KUnit :=
  let v := viewOf core c.tile
  let need := needBytes v.w v.e
  let p := c.progress
  if p < need then do
    let n := min 64 (need - p)
    let bs ← kLocal (asRead s core c.old) v p n
    let s' ← kWrite s core eng c (c.dst + 64 + p) bs 0
    pure (s', { c with progress := p + n })
  else do
    let h := natBytes 4 0x444E5354 ++ natBytes 4 0 ++ natBytes 8 need ++ natBytes 16 v.w ++ natBytes 32 0
    let s' ← kWrite s core eng c c.dst h 0
    pure (s', { c with progress := need + 64 })

/-- A unit of TRECV: payload into the tile (R274). -/
def unitTrecv (s : State) (core eng lim : Nat) (c : KCmd) : KUnit := do
  let v := viewOf core c.tile
  let p := c.progress
  let n := min (64 - p % 64) (lim - p)
  let bs ← kFetch s core eng c (c.dst + 64 + p) n 0
  pure (kbufFollow (v.putBytes bs.2 p bs.1) core eng (v.off + p) n, { c with progress := p + n })

/-! ### Routing (R279-R281) -/

/-- A release at mod scope has written bytes at a virtual address (R337). -/
def kReleased (s : State) (core : Nat) (c : KCmd) (va n : Nat) : State :=
  match kXlate s core c va true true with
  | .ok q => released s q.1 n core 3
  | .error _ => s

/-- The home, heap and count of expert e, and the table entry's address. -/
structure Expert where
  home : Nat
  heap : Nat
  count : Nat
  closed : Bool
  va : Nat

/-- Expert e's entry of the table, read where the table stands; and what the read leaves. -/
def expertOf (s : State) (core eng : Nat) (c : KCmd) (e : Nat) : Except KStop (Expert × State) := do
  let va := routeTable c.wrec + 16 * e
  let bs ← kRead s core eng c va 16 0
  let w (i : Nat) : Nat := bytesNat ((bs.1.drop (4 * i)).take 4)
  pure (⟨w 0 % 512, w 1, w 2 % 2 ^ 31, decide (2 ^ 31 ≤ w 2), va⟩, bs.2)

/-- COUNT of an expert written (R279). -/
def expertCount (s : State) (core eng : Nat) (c : KCmd) (x : Expert) (n : Nat) : Except KStop State :=
  kReplace s core eng c (x.va + 8) 4 false fun _ => natBytes 4 n

/-- A heap's entries as (score code, token). -/
def heapEntries (s : State) (home heap n : Nat) : List (Nat × Nat) :=
  (List.range n).map fun i => (physNat s (windowPa home (heap + 8 * i)) 4, physNat s (windowPa home (heap + 8 * i + 4)) 4)

/-- Whether key a ranks above key b (R280). -/
def ranksAbove (a b : Nat × Nat) : Bool :=
  let x := decodeElt 0x12 a.1
  let y := decodeElt 0x12 b.1
  fvLt y x || (fvEq x y && decide (a.2 < b.2))

/-- A pair written as entry i of a heap: a remote write into the home's scratchpad (R258, R280). -/
def heapWrite (s : State) (x : Expert) (i : Nat) (p : Nat × Nat) : State :=
  physWrite s (windowPa x.home (x.heap + 8 * i)) (natBytes 4 p.1 ++ natBytes 4 p.2)

/-- The first error among a heap's entries, which stops the command that reads them (R268). -/
def heapBad (s : State) (home heap n : Nat) : Except KStop Unit :=
  match badAddr s (windowPa home heap) (8 * n) with
  | some pa => .error (.bad pa)
  | none => .ok ()

/-- Whether the home waits before it touches a heap of n entries: for a range of its core, or for the issuing core's earlier accesses (R258, R335). -/
def heapWaits (s : State) (core eng : Nat) (c : KCmd) (x : Expert) (n : Nat) : Bool :=
  let pa := windowPa x.home x.heap
  windowBusy s pa (8 * max n 1) || engineWaits s core eng c.seq pa (8 * max n 1) true

/-- The entry of a heap with the lowest key. -/
def heapLowest (es : List (Nat × Nat)) : Nat :=
  (List.range es.length).foldl (fun m i => if ranksAbove (es.getD m (0, 0)) (es.getD i (0, 0)) then i else m) 0

/-- Entries sorted into key order. -/
def heapSort (es : List (Nat × Nat)) : List (Nat × Nat) :=
  es.foldl (fun acc e => acc.takeWhile (fun a => ranksAbove a e) ++ e :: acc.dropWhile (fun a => ranksAbove a e)) []

/-- An arrival at a home: one that finds CLOSED empties the heap, whatever becomes of its pair (R280). -/
def pairArrive (s : State) (core eng : Nat) (c : KCmd) (x : Expert) (p : Nat × Nat) : Except KStop State := do
  let cap := routeCap c
  if fvIsNan (decodeElt 0x12 p.1) then (if x.closed then expertCount s core eng c x 0 else pure s)
  else if heapWaits s core eng c x cap then .error .wait
  else
    let n := if x.closed then 0 else x.count
    if n < cap then expertCount (heapWrite s x n p) core eng c x (n + 1)
    else do
      heapBad s x.home x.heap n
      let es := heapEntries s x.home x.heap n
      let i := heapLowest es
      let s' := if es.isEmpty then s else if ranksAbove p (es.getD i (0, 0)) then heapWrite s x i p else s
      if x.closed then expertCount s' core eng c x n else pure s'

/-- One pair of ROUTE sent and accepted or rejected (R279, R280). A BF16 score becomes FP32 bit for bit: a signalling NaN is rejected as any NaN is
and sets no INVALID, which R124 does not settle for ROUTE (log 105). -/
def unitRoute (s : State) (core eng : Nat) (c : KCmd) : KUnit := do
  let v := viewOf core c.tile
  let n := routeE c.wrec
  let t := c.progress / n
  let e := c.progress % n
  let (x, s) ← expertOf s core eng c e
  match v.bad s (v.bit [t, e] 0 / 8) (v.ew / 8) with
  | some pa => .error (.bad pa)
  | none => pure ()
  let code := v.code (asRead s core c.old) [t, e]
  let score := if v.fmt = 0x12 then code else code * 2 ^ 16
  let s' ← pairArrive s core eng c x (score, (routeTok c.wrec + t) % 2 ^ 32)
  pure (s', { c with progress := c.progress + 1 })

/-- A unit of ROUTE.CLOSE: an expert closed, the non-empty ones counted in VALUE; then the join counter; then an expert's cue enqueued (R281): these
are releases at mod scope, which what the core is ordered after precedes (R337, R338). -/
def unitRouteClose (s : State) (core eng : Nat) (c : KCmd) : KUnit := do
  let n := routeE c.wrec
  let p := c.progress
  let c' := { c with progress := p + 1 }
  if p < n then do
    let (x, s) ← expertOf s core eng c p
    if heapWaits s core eng c x x.count then .error .wait
    heapBad s x.home x.heap x.count
    let es := heapSort (heapEntries s x.home x.heap x.count)
    let s' := (es.mapIdx fun i e => (i, e)).foldl (fun st q => heapWrite st x q.1 q.2) s
    let s'' ← expertCount s' core eng c x (2 ^ 31 + x.count)
    pure (s'', { c' with value := if x.count = 0 then c.value else c.value + 1 })
  else if owes s core 3 then .error .wait
  else do
    let (t, s) ← kRead s core eng c (routeCue c.wrec) 64 0
    if p = n then do
      let j := recWord t 2
      if j = 0 then pure (s, c')
      else do
        let s' ← kReplace s core eng c j 8 true fun bs => natBytes 8 ((bytesNat bs + c.value) % 2 ^ 64)
        pure (kReleased s' core c j 8, c')
    else do
      let e := p - n - 1
      let (x, s) ← expertOf s core eng c e
      if x.count = 0 then pure (s, c')
      else
        let r := recWith (recWith t 3 e) 4 ((2 ^ 31 + x.count) * 2 ^ 32 + x.heap)
        if hwRoom s (dieOfCore x.home) (recClass r) c.sm then pure (hwEnqueue s (dieOfCore x.home) c.sm r, c') else .error .wait

/-! ### A command -/

/-- SIGNAL writes its word (R275). -/
def unitSignal (s : State) (core eng : Nat) (c : KCmd) : KUnit := do
  let s' ← match c.sig with
    | some va => kWrite s core eng c va (natBytes 8 c.value) 0 true
    | none => pure s
  pure (s', { c with progress := 1 })

/-- Whether a command has read of a unit of its core's storage, by what it has moved (R258). -/
def kTouched (core : Nat) (c : KCmd) (u : Nat × List Byte) : Bool :=
  let op := fld c.word 26 6
  let v := viewOf core c.tile
  let x := viewOf core c.idx
  let hit (t : TileView) (lo hi : Nat) : Bool := overlaps (t.off + lo) (hi - lo) u.1 u.2.length
  let elt (t : TileView) (i : List Nat) : Bool := hit t (eltSpan t i).1 (eltSpan t i).2
  let m := max (v.ext 1) 1
  let moved := (List.range (kTotal c)).filter fun q => decide (q < c.progress) || c.ahead.any fun r => decide (r.1 ≤ q) && decide (q < r.2)
  match op with
  | 0x02 => moved.any fun q => let it := typedItem c v q; hit v it.lo it.hi
  | 0x03 | 0x04 => moved.any fun q => elt x [q / m]
  | 0x05 => moved.any fun q => elt x [q / m] || elt v [q / m, q % m]
  | 0x07 => moved.any fun q => hit v q (q + 1)
  | 0x0E => moved.any fun q => elt v [q / routeE c.wrec, q % routeE c.wrec]
  | _ => false

/-- The units that a command goes on to read as they stood: those it had begun to read before they were written (R258). -/
def kHeld (core : Nat) (c : KCmd) : KCmd := { c with old := c.old.filter (kTouched core c) }

/-- One unit of a command, up to a limit where units perform out of order; a pit command is sent by PIT_DISPATCH, not here. -/
def kUnit (s : State) (core eng lim : Nat) (c0 : KCmd) : KUnit :=
  let c := kHeld core c0
  match fld c.word 26 6 with
  | 0x01 | 0x02 => unitTyped s core eng c
  | 0x03 | 0x04 | 0x05 => unitIndexed s core eng c
  | 0x06 => unitCopy s core eng c c.src c.value 0 0
  | 0x07 => unitTsend s core eng c
  | 0x08 => unitTrecv s core eng lim c
  | 0x09 => unitSignal s core eng c
  | 0x0D => unitCopy s core eng c (c.src / 8192 * 8192) (c.value * 8192) (if fld c.word 2 1 = 0 then 2 else 3) (if fld c.word 2 1 = 0 then 3 else 2)
  | 0x0E => unitRoute s core eng c
  | 0x0F => unitRouteClose s core eng c
  | _ => .ok (s, { c with progress := c.progress + 1 })

/-- Progress passes units that performed ahead of it. -/
def kSkip : Nat → KCmd → KCmd
  | 0, c => c
  | n + 1, c => match c.ahead.find? fun r => r.1 == c.progress with
    | some r => kSkip n { c with progress := r.2, ahead := c.ahead.erase r }
    | none => c

/-- Where the next unit performed ahead begins, or the end of the command. -/
def kLim (c : KCmd) : Nat := ((c.ahead.map Prod.fst).filter fun a => decide (c.progress < a)).foldl min (kTotal c)

/-- The SRAM of a copy engine's array is read without an error, whose FAULTINFO is free (R402, log 97). -/
def kSound (s : State) (core eng : Nat) : Except KStop Unit :=
  if engineBad s core (1 + eng) then .error (.sram ((freeOf s 11).toNat % 2 ^ 41)) else .ok ()

/-- Units until a progress is reached or one stops; each unit advances, so the fuel is the distance. An error in the array's own SRAM stops the next
(R402), and a unit that parks in the midst of its bytes stops after them (R267). -/
def kLoop (core eng limit : Nat) : Nat → State → KCmd → State × KCmd × Option KStop
  | 0, s, c => (s, kSkip c.ahead.length c, none)
  | n + 1, s, c =>
    let c := kSkip c.ahead.length c
    if limit ≤ c.progress then (s, c, none)
    else match kSound s core eng with
      | .error e => (s, c, some e)
      | .ok _ => match kUnit s core eng (kLim c) c with
        | .ok r => match r.2.parked with
          | some w => (r.1, r.2, some (.park w))
          | none => kLoop core eng limit n r.1 r.2
        | .error e => (s, c, some e)

/-- An engine's queue replaced. -/
def setKq (s : State) (core eng : Nat) (q : List KCmd) : State :=
  let c := coreOf s core
  setCoreOf s core { c with ctx := if eng = 0 then { c.ctx with kq0 := q } else { c.ctx with kq1 := q } }

/-- The head of an engine's queue as it stands after a stop. -/
def kStopped (c : KCmd) : KStop → KCmd
  | .park w => { c with parked := some w }
  | .bad pa | .sram pa => { c with failed := some pa }
  | .wait => c

/-- An error that stops a command starts a self-test of its unit, and so does one in the tables that map the page at which it parks (R372, log 97). -/
def kMet (s : State) (core eng : Nat) : KStop → State
  | .bad pa => errorMet s pa
  | .park w => walkMet s core false (rootPa (coreOf s core).ctx.droot) (w.toNat / 8192 * 8192)
  | .sram _ => unitMet s ⟨6, core, eng⟩
  | _ => s

/-- The head of an engine runs up to a progress; the state, and whether it got there. -/
def kRunTo (s : State) (core eng limit : Nat) : State × Bool :=
  match kQueue (coreOf s core).ctx eng with
  | [] => (s, false)
  | c :: cs =>
    let r := kLoop core eng limit (limit - c.progress) s c
    let c' := match r.2.2 with | some e => kStopped r.2.1 e | none => r.2.1
    let s' := match r.2.2 with | some e => kMet r.1 core eng e | none => r.1
    (setKq s' core eng (c' :: cs), r.2.2.isNone)

/-- The opcode of a pit command, PIT.FENCE included (R286). -/
def kPitOp (c : KCmd) : Bool := decide (0x20 ≤ fld c.word 26 6) && decide (fld c.word 26 6 ≤ 0x26)

/-- The status and count of a completed command (R266, R272, R281). -/
def kStatus (c : KCmd) : Nat :=
  match fld c.word 26 6 with
  | 0x03 | 0x04 | 0x05 => if c.skipped then 2 else 1
  | 0x0F => c.value * 2 ^ 32 + 1
  | _ => 1

/-- Every unit is performed or sent; once what was sent has performed at the command's scope, and what the core is ordered after with it, its flags
are set, the completion word is sent, and the command leaves its queue (R266, R267, R271, R338). A PIT.FENCE writes no word in the loft (R284), and
neither it nor PREFETCH nor TLOAD.IX one on another module (R377). -/
def kFinish (s : State) (core eng : Nat) : State :=
  match kQueue (coreOf s core).ctx eng with
  | [] => s
  | c :: cs =>
    let c := { c with done := true }
    let level := scopeLevel (kScope c)
    let s := kbufClear s core eng
    let given := kGiven s core c
    if postedLeft (coreOf s core) eng level (fun a => a.seq == c.seq) || ((c.sig.isSome || given.isSome) && owes s core level) then
      setKq s core eng (c :: cs)
    else
      let out := if fld c.word 26 6 = 9 then none else c.sig
      let s1 := match given with
        | some slot => let r := redArrive s slot; kSticky r.1 core (r.2 ||| c.flags)
        | none => kSticky s core c.flags
      match out with
      | none => setKq s1 core eng cs
      | some va =>
        let tier := if kPitOp c then 4 else match fld c.word 26 6 with | 0x03 | 0x0D => 5 | _ => 0
        match kWrite s1 core eng c va (natBytes 8 (kStatus c)) tier true with
        | .ok s' => setKq s' core eng cs
        | .error e => setKq s core eng (kStopped c e :: cs)

/-! ### Start and completion -/

/-- A write of an earlier bundle to the core's own storage that has not landed (R334); what a trap captured lands after the handler (log 88). -/
def landsEarlier (x : Ctxt) (seq : Nat) : Bool := x.inflight.any fun fl =>
  decide (bundleOf fl.ord < bundleOf seq) && (match fl.upd with | some (.row ..) | some (.spad ..) => true | _ => false)

/-- The commands of a core that a KRESUME elsewhere has brought back, and that are not done: where they issued, with their words (R277). -/
def strays (s : State) (core : Nat) : List (KHome × Nat) :=
  let mine (h : Option KHome) (w : Nat) : List (KHome × Nat) := ((h.filter fun h => h.core == core).map fun h => (h, w)).toList
  (s.cores.flatMap fun e => (e.2.ctx :: e.2.saved.map Prod.snd).flatMap fun x =>
    (x.kq0 ++ x.kq1).flatMap (fun k => mine k.home k.word) ++ x.kaway.flatMap fun a => a.cmds.flatMap fun t => mine t.home t.word) ++
  s.pits.flatMap fun p => (p.2.queue ++ p.2.sent).flatMap fun c => mine c.home (c.op * 2 ^ 26)

/-- Whether every K command of earlier bundles has completed, and every access of earlier bundles performed at the SIGNAL's scope, those of a
command that KSAVE took after the SIGNAL had issued among them, and what the core is ordered after (R275, R334, R337, R338, R340). -/
def signalReady (s : State) (core eng : Nat) (k : KCmd) : Bool :=
  let c := coreOf s core
  let level := scopeLevel (kScope k)
  let later (n : Nat) : Bool := decide (bundleOf k.seq ≤ bundleOf n)
  ((kQueue c.ctx (1 - eng)).all fun o => later o.seq) &&
  (c.ctx.kaway.all fun a => a.eng == eng || decide (a.place ≤ k.seq) || a.cmds.all fun q => q.home.isSome || later q.seq) &&
  ((strays s core).all fun t => decide (t.1.place ≤ k.seq) || later t.1.seq) &&
  (c.pend.all fun a => !memoryAccess a || later a.seq || decide (level ≤ a.upto)) && !owes s core level && !landsEarlier c.ctx k.seq

/-- A pit command other than PIT.FENCE. -/
def kIsPit (c : KCmd) : Bool := decide (0x20 ≤ fld c.word 26 6) && fld c.word 26 6 != 0x23

/-- A word of a pit command other than PIT.FENCE. -/
def pitWord (w : Nat) : Bool := decide (0x20 ≤ fld w 26 6) && fld w 26 6 != 0x23

/-- The pit commands of a core before a PIT.FENCE are done, those that a KSAVE took among them (R292). Those that stand in the saved queues of a cue
of this core that a curtain took do not hold it: they cannot run before this cue ends (log 93). -/
def fenceReady (s : State) (core : Nat) (k : KCmd) : Bool :=
  let x := (coreOf s core).ctx
  let later (n : Nat) : Bool := decide (bundleOf k.seq ≤ bundleOf n)
  (x.kq0 ++ x.kq1).all (fun o => !kIsPit o || later o.seq) &&
  (x.kaway.all fun a => a.cmds.all fun q => q.home.isSome || !pitWord q.word || later q.seq) &&
  ((strays s core).all fun t => !pitWord t.2 || later t.1.seq) &&
  s.pits.all fun p => (p.2.queue ++ p.2.sent).all fun c => c.core != core || later c.seq

/-- An acquire of an earlier bundle that has not performed (R338). -/
def acquireBefore (c : Core) (seq : Nat) : Bool := c.pend.any fun a =>
  a.acq && memoryAccess a && decide (a.upto < scopeLevel a.scope) && decide (bundleOf a.seq < bundleOf seq)

/-- The head of an engine may start (R265, R275, R292, R334, R338, R349, R352). -/
def kMayStart (s : State) (core eng : Nat) : Bool :=
  let c := coreOf s core
  match kQueue c.ctx eng with
  | [] => false
  | k :: _ => !coreDown c && !k.started && k.parked.isNone && k.failed.isNone && !landsFirst c.ctx (kReadRanges k) && !acquireBefore c k.seq &&
    (fld k.word 26 6 != 9 || signalReady s core eng k) && (fld k.word 26 6 != 0x23 || fenceReady s core k)
where
  /-- What the command reads of the core's own storage: PIT.ATTN reads the tile that it will write (R291). -/
  kReadRanges (k : KCmd) : List Range := (kRanges k).map fun r => { r with write := r.write && fld k.word 26 6 != 0x22 }

/-- K_COMMAND_START performed. -/
def kStart (s : State) (core eng : Nat) : State :=
  if kMayStart s core eng then
    match kQueue (coreOf s core).ctx eng with
    | [] => s
    | k :: ks => setKq (kbufClear (sramFill s core (1 + eng)) core eng) core eng ({ k with started := true } :: ks)
  else s

/-- K_COMMAND_START (R265). -/
def execKCommandStart (core eng : Nat) (s : State) : Host.Outcome State Fault Refusal :=
  if core < Config.cores then .next (kStart s core (eng % 2)) else .fault (.noSuchAgent core)

/-- Whether the head of an engine runs and is a copy command or PIT.FENCE. -/
def kRunning (s : State) (core eng : Nat) : Option KCmd :=
  match kQueue (coreOf s core).ctx eng with
  | k :: _ => if k.started && k.parked.isNone && k.failed.isNone then some k else none
  | [] => none

/-- K_COMMAND_COMPLETE performed: the rest of the running command, then its completion word (R265-R268). -/
def kComplete (s : State) (core eng : Nat) : State :=
  match kRunning s core eng with
  | none => s
  | some k =>
    if kIsPit k then s
    else
      let r := kRunTo s core eng (kTotal k)
      if r.2 then kFinish r.1 core eng else r.1

/-- K_COMMAND_COMPLETE (R265, R266). -/
def execKCommandComplete (core eng : Nat) (s : State) : Host.Outcome State Fault Refusal :=
  if core < Config.cores then .next (kComplete s core (eng % 2)) else .fault (.noSuchAgent core)

/-- ROUTE_PAIR_ARRIVAL: the next pair of the running ROUTE arrives at its home (R280). -/
def execRoutePairArrival (core eng : Nat) (s : State) : Host.Outcome State Fault Refusal :=
  if core < Config.cores then
    match kRunning s core (eng % 2) with
    | some k => .next (if fld k.word 26 6 = 0x0E then (kRunTo s core (eng % 2) (min (k.progress + 1) (kTotal k))).1 else s)
    | none => .next s
  else .fault (.noSuchAgent core)

/-- Commands whose units may perform in any order; COPY reads and sends its units in order, and what it sends performs in any order then (R273, R336,
log 92). -/
def kLoose (c : KCmd) : Bool := match fld c.word 26 6 with | 0x01 | 0x02 | 0x03 | 0x04 | 0x05 | 0x07 | 0x08 | 0x0D | 0x0E => true | _ => false

/-- Whether two orders of units leave the same: states that differ in the order alone of the writes a core has sent, which share no byte (R336). -/
def sameSent (s a b : State) (core : Nat) (first second : State) : Bool :=
  let n := (coreOf s core).pend.length
  let sent (t : State) : List Access := (coreOf t core).pend.drop n
  let rest (t : State) : State := setCoreOf t core { coreOf t core with pend := (coreOf t core).pend.take n }
  (sent a).isPerm (sent b) && decide (rest a = rest b) && !(sent first).any fun x => (sent second).any fun y => x.clash y

/-- Whether the unit of a command at a progress leaves what the units before it do as it was, and none of them parks, fails or waits; the pairs of a
ROUTE change what later ones find (R267, R280, R336). -/
def kApart (s : State) (core eng at' : Nat) (k : KCmd) : Bool :=
  let c := { k with progress := at' }
  let early := kLoop core eng at' (at' - k.progress) s k
  match kUnit s core eng (kLim c) c, kUnit early.1 core eng (kLim c) c with
  | .ok u, .ok v =>
    let late := kLoop core eng at' (at' - k.progress) u.1 k
    early.2.2.isNone && early.2.1.progress == at' &&
      (fld k.word 26 6 == 0x0E || (late.2.2.isNone && sameSent s late.1 v.1 core early.1 u.1))
  | _, _ => false

/-- A core's accesses in flight left out: what its copy commands would do once those had performed. -/
def withoutPend (s : State) (core : Nat) : State := setCoreOf s core { coreOf s core with pend := [] }

/-- One unit of the running command performs: the next one, or one further on that is apart from the units before it, be it that these still wait for
accesses of the core (R335, R336). -/
def kUnitAt (s : State) (core eng at' : Nat) : State :=
  match kRunning s core eng with
  | none => s
  | some k =>
    if kIsPit k || decide (kTotal k ≤ at') then s
    else if at' ≤ k.progress then (kRunTo s core eng (k.progress + 1)).1
    else
      let c := { k with progress := at' }
      match kUnit s core eng (kLim c) c with
      | .ok u =>
        let waits := (kLoop core eng at' (at' - k.progress) s k).2.2 == some .wait
        if kLoose k && u.2.parked.isNone && !k.ahead.any (fun r => decide (r.1 ≤ at') && decide (at' < r.2)) &&
            kApart (if waits then withoutPend s core else s) core eng at' k then
          setKq u.1 core eng ({ u.2 with progress := k.progress, ahead := (at', u.2.progress) :: u.2.ahead } ::
            (kQueue (coreOf s core).ctx eng).drop 1)
        else s
      | .error _ => s

/-! ### KSAVE and KRESUME performed (R277, R299) -/

/-- A dispatched PIT.ATTN of a core no longer marks its tile (R299). -/
def unmarkAttn (s : State) (core : Nat) (engs : List Nat) : State :=
  let clear (c : PitCmd) : PitCmd := if c.core == core && engs.contains c.keng then { c with marked := false } else c
  { s with pits := s.pits.map fun p => (p.1, { p.2 with queue := p.2.queue.map clear }) }

/-- Before its image is written the head of an engine reaches the last unit that it performed ahead of others, which the image's PROGRESS does not
show (R277, log 92). -/
def kEven (s : State) (core eng : Nat) : State :=
  match kQueue (coreOf s core).ctx eng with
  | k :: _ => if k.ahead.isEmpty then s else (kRunTo s core eng (k.ahead.foldl (fun m r => max m r.2) 0)).1
  | [] => s

/-- KSAVE performed: the engine stands between two units, the flags gathered so far are set, and the commands leave (log 93). -/
def kSave (s : State) (core eng : Nat) (ps : List (Nat × Nat)) : State :=
  let s := kEven s core eng
  let c := coreOf s core
  let q := kQueue c.ctx eng
  let away := if q.isEmpty then c.ctx.kaway else ⟨eng, c.nextSeq, q.map fun k => ⟨k.seq, k.word, k.home⟩⟩ :: c.ctx.kaway
  let s1 := kbufClear (setCoreOf s core { c with ctx := { c.ctx with kaway := away } }) core eng
  let s2 := kSticky s1 core (q.foldl (fun f k => f ||| k.flags) 0)
  unmarkAttn (setKq (writePieces s2 ps (kImage q)) core eng []) core [eng]

/-- The commands of an image take the places in program order that KSAVE noted when it took them, those that another cue or core issued new ones, with
a note of where that was; what their image does not hold is found again: whether all is done, and a skipped row, from the index tile (log 93). -/
def kBack (s : State) (core : Nat) (from' : Option (Option Nat × KAway)) (cs : List KCmd) : List KCmd :=
  cs.mapIdx fun i k =>
    let m := max ((viewOf core k.tile).ext 1) 1
    let ix := fld k.word 26 6 == 3 || fld k.word 26 6 == 4 || fld k.word 26 6 == 5
    let t := from'.bind fun f => f.2.cmds[i]?.map fun t => (f.1, f.2.place, t)
    { k with
      seq := match t with | some (none, _, t) => t.seq | _ => (coreOf s core).nextSeq + i
      home := match t with
        | some (none, _, t) => t.home
        | some (some n, place, t) => some (t.home.getD ⟨n, t.seq, place⟩)
        | none => none
      done := decide (0 < k.progress) && decide (kTotal k ≤ k.progress)
      skipped := ix && (List.range (k.progress / m)).any (idxOut s core k) }

/-- The newest of KSAVE's notes whose commands have the words of an image: of the running cue, its own engine first, else of any cue of any core, with
the core where it is another cue's (R277, log 93). -/
def kAwayOf (s : State) (core eng : Nat) (cs : List KCmd) : Option (Option Nat × KAway) :=
  let same (a : KAway) : Bool := a.cmds.map (·.word) == cs.map (·.word)
  let own := (coreOf s core).ctx.kaway
  match own.find? (fun a => a.eng == eng && same a), own.find? same with
  | some a, _ => some (none, a)
  | none, some a => some (none, a)
  | none, none => s.cores.findSome? fun e =>
    ((e.2.ctx :: e.2.saved.map Prod.snd).findSome? fun x => x.kaway.find? same).map fun a => (some e.1, a)

/-- A note of KSAVE taken from the cue that keeps it: the running one's of a core, or else a saved one's of another. -/
def kAwayDrop (s : State) (core : Nat) (f : Option Nat × KAway) : State :=
  let n := f.1.getD core
  let c := coreOf s n
  let drop (x : Ctxt) : Ctxt := { x with kaway := x.kaway.erase f.2 }
  setCoreOf s n (if c.ctx.kaway.contains f.2 then { c with ctx := drop c.ctx }
    else { c with saved := c.saved.map fun e => (e.1, drop e.2) })

/-- KRESUME performed: each command continues from its progress; a faulted one retries its page. It brings back what the newest KSAVE took whose
commands have the words of the image (log 93). -/
def kResume (s : State) (core eng : Nat) (cs : List KCmd) : State :=
  let away := kAwayOf s core eng cs
  let s1 := (away.map (kAwayDrop s core)).getD s
  let c := coreOf s1 core
  let s2 := setCoreOf s1 core { c with nextSeq := c.nextSeq + cs.length }
  setKq s2 core eng (kBack s core away cs ++ kQueue c.ctx eng)

end Sys2Proof.Machine
end

