-- ==== Sys2Proof/Machine/Pattern.lean ====
section
/-! DEFINITION. Pattern programs, their sets and enumeration, and the generator's instructions (R219-R240). -/

namespace Sys2Proof.Machine

/-! ### Sets (R223-R225) -/

/-- A set of coordinates over its own domain (R224). -/
inductive PSet where
  | band (nr nc : Nat) (lo hi : Int)
  | dil (nr nc s : Nat) (o : Int) (n : Nat)
  | blkd (nr nc b : Nat)
  | hash (nr nc seed k : Nat)
  | hashp (nr nc a b k : Nat)
  | union (x y : PSet)
  | isect (x y : PSet)
  | shift (dr dc : Int) (x : PSet)
  | clip (nr nc : Nat) (x : PSet)
  | permRow (m o : Nat) (x : PSet)
  | permCol (m o : Nat) (x : PSet)
  | rept (nr nc : Nat) (x : PSet)
  | kron (a b : PSet)
  deriving DecidableEq, Repr

/-- The domain NR x NC that a set carries (R223, R224). -/
def PSet.dom : PSet → Nat × Nat
  | .band nr nc _ _ | .dil nr nc _ _ _ | .blkd nr nc _ | .hash nr nc _ _ | .hashp nr nc _ _ _ | .clip nr nc _ => (nr, nc)
  | .union x _ | .isect x _ | .shift _ _ x | .permRow _ _ x | .permCol _ _ x => x.dom
  | .rept nr nc x => (nr * x.dom.1, nc * x.dom.2)
  | .kron a b => (a.dom.1 * b.dom.1, a.dom.2 * b.dom.2)

/-- The column that HASH places for a seed, a row and an index (R225). -/
def hashCol (nc seed r j : Nat) : Nat :=
  let x0 : BitVec 32 := BitVec.ofNat 32 seed * 0x9E3779B1#32 + BitVec.ofNat 32 r * 0x85EBCA77#32 + BitVec.ofNat 32 j * 0xC2B2AE3D#32
  let x1 := x0 ^^^ (x0 >>> 16)
  let x2 := x1 * 0x7FEB352D#32
  let x3 := x2 ^^^ (x2 >>> 15)
  x3.toNat * nc / 2 ^ 32

/-- Membership (R224). -/
def PSet.mem : PSet → Nat → Nat → Bool
  | .band nr nc lo hi, r, c => decide (r < nr) && decide (c < nc) && decide (lo ≤ (c : Int) - r) && decide ((c : Int) - r ≤ hi)
  | .dil nr nc s o n, r, c =>
    decide (r < nr) && decide (c < nc) && (List.range n).any fun j => (c : Int) - r == o + ((j * s : Nat) : Int)
  | .blkd nr nc b, r, c => decide (r < nr) && decide (c < nc) && r / b == c / b
  | .hash nr nc seed k, r, c => decide (r < nr) && decide (c < nc) && (List.range k).any fun j => hashCol nc seed r j == c
  | .hashp nr nc a b k, r, c => decide (r < nr) && decide (c < nc) && (List.range k).any fun j => (a * r + b * j) % nc == c
  | .union x y, r, c => x.mem r c || y.mem r c
  | .isect x y, r, c => x.mem r c && y.mem r c
  | .shift dr dc x, r, c =>
    decide (r < x.dom.1) && decide (c < x.dom.2) && decide (0 ≤ (r : Int) - dr) && decide (0 ≤ (c : Int) - dc) &&
      x.mem ((r : Int) - dr).toNat ((c : Int) - dc).toNat
  | .clip nr nc x, r, c => decide (r < nr) && decide (c < nc) && x.mem r c
  | .permRow m o x, r, c => decide (r < x.dom.1) && (List.range x.dom.1).any fun i => (m * i + o) % x.dom.1 == r && x.mem i c
  | .permCol m o x, r, c => decide (c < x.dom.2) && (List.range x.dom.2).any fun i => (m * i + o) % x.dom.2 == c && x.mem r i
  | .rept nr nc x, r, c =>
    decide (r < nr * x.dom.1) && decide (c < nc * x.dom.2) && x.mem (r % x.dom.1) (c % x.dom.2)
  | .kron a b, r, c =>
    decide (r < a.dom.1 * b.dom.1) && decide (c < a.dom.2 * b.dom.2) && a.mem (r / b.dom.1) (c / b.dom.2) &&
      b.mem (r % b.dom.1) (c % b.dom.2)

/-- The members of one major line: the minor indices in ascending order (R227). -/
def PSet.line (x : PSet) (order p : Nat) : List Nat :=
  if order = 0 then (List.range x.dom.2).filter (x.mem p) else (List.range x.dom.1).filter fun r => x.mem r p

/-- The number of major lines, and of minor indices. -/
def PSet.majors (x : PSet) (order : Nat) : Nat := if order = 0 then x.dom.1 else x.dom.2
def PSet.minors (x : PSet) (order : Nat) : Nat := if order = 0 then x.dom.2 else x.dom.1

/-- The members in order, as (major, minor). -/
def PSet.members (x : PSet) (order : Nat) : List (Nat × Nat) :=
  (List.range (x.majors order)).flatMap fun p => (x.line order p).map fun q => (p, q)

/-- The lane of a member (R227). -/
def memberLane (order : Nat) (m : Nat × Nat) : Nat :=
  let rc := if order = 0 then m else (m.2, m.1)
  rc.1 * 2 ^ 16 + rc.2

/-! ### The walk (R222, R223, R226) -/

/-- What a walk has found: the first HASH word, the lowest and the highest word visited, and how many visits it made. -/
structure WalkInfo where
  hash : Option Nat
  lo : Nat
  hi : Nat
  n : Nat

/-- One level: its extents and its stack of sets. -/
structure Level where
  nr : Option Nat
  nc : Option Nat
  stack : List PSet
  info : WalkInfo

/-- What a walk reads: pattern memory, the parameters, the declared profile. -/
structure WalkEnv where
  pm : List (Nat × Nat)
  pars : List Nat
  profile : Nat

/-- A word visited. -/
def visit (i : WalkInfo) (pc : Nat) : WalkInfo := { i with lo := min i.lo pc, hi := max i.hi pc, n := i.n + 1 }

/-- A domain within its limits (R226). -/
def domOk (x : PSet) : Bool := decide (1 ≤ x.dom.1 ∧ x.dom.1 ≤ 32767 ∧ 1 ≤ x.dom.2 ∧ x.dom.2 ≤ 32767)

/-- One word other than KRON, EMIT and END: the level after it, none where the word is malformed. -/
def walkWord (env : WalkEnv) (w : Nat) (l : Level) : Option Level :=
  let op := fld w 28 4
  let push (l : Level) (x : PSet) : Option Level := if l.stack.length < 8 then some { l with stack := x :: l.stack } else none
  let extent : Option Nat :=
    let n := if fld w 27 1 = 0 then fld w 0 15 else env.pars.getD (fld w 0 2) 0
    if (if fld w 27 1 = 0 then fld w 15 12 else fld w 2 25) = 0 ∧ 1 ≤ n ∧ n ≤ 32767 then some n else none
  let prim (ok : Nat → Nat → Bool) (mk : Nat → Nat → PSet) : Option Level :=
    match l.nr, l.nc with
    | some r, some c => if ok r c then push l (mk r c) else none
    | _, _ => none
  let one (ok : PSet → Bool) (mk : PSet → PSet) : Option Level :=
    match l.stack with
    | x :: st => if ok x && domOk (mk x) then some { l with stack := mk x :: st } else none
    | [] => none
  let two (mk : PSet → PSet → PSet) : Option Level :=
    match l.stack with
    | y :: x :: st => if fld w 0 28 = 0 ∧ x.dom = y.dom then some { l with stack := mk x y :: st } else none
    | _ => none
  match op with
  | 0x0 => extent.map fun n => { l with nr := some n }
  | 0x1 => extent.map fun n => { l with nc := some n }
  | 0x2 =>
    let lo := sextNat 14 (fld w 14 14)
    let hi := sextNat 14 (fld w 0 14)
    prim (fun _ _ => decide (lo ≤ hi)) fun r c => .band r c lo hi
  | 0x3 => prim (fun _ _ => fld w 20 8 != 0 && fld w 0 8 != 0) fun r c => .dil r c (fld w 20 8) (sextNat 12 (fld w 8 12)) (fld w 0 8)
  | 0x4 => prim (fun _ _ => fld w 15 13 == 0 && fld w 0 15 != 0) fun r c => .blkd r c (fld w 0 15)
  | 0x6 =>
    let seed := if fld w 27 1 = 0 then fld w 8 19 else env.pars.getD (fld w 8 2) 0
    prim (fun _ _ => fld w 0 8 != 0 && (fld w 27 1 == 0 || fld w 10 17 == 0)) fun r c => .hash r c seed (fld w 0 8)
  | 0x7 =>
    prim (fun _ c => decide (3 ≤ env.profile) && fld w 16 12 != 0 && Nat.gcd (fld w 16 12) c == 1 && fld w 0 8 != 0)
      fun r c => .hashp r c (fld w 16 12) (fld w 8 8) (fld w 0 8)
  | 0x8 => two .union
  | 0x9 => two .isect
  | 0xA => one (fun _ => true) (.shift (sextNat 14 (fld w 14 14)) (sextNat 14 (fld w 0 14)))
  | 0xB =>
    let cut (n m : Nat) : Nat := if m = 0 then n else min n m
    one (fun _ => true) fun x => .clip (cut x.dom.1 (fld w 14 14)) (cut x.dom.2 (fld w 0 14)) x
  | 0xC =>
    let m := fld w 14 13
    if fld w 27 1 = 0 then one (fun x => m != 0 && Nat.gcd m x.dom.1 == 1) (.permRow m (fld w 0 14))
    else one (fun x => m != 0 && Nat.gcd m x.dom.2 == 1) (.permCol m (fld w 0 14))
  | 0xE => one (fun _ => fld w 14 14 != 0 && fld w 0 14 != 0) (.rept (fld w 14 14) (fld w 0 14))
  | _ => none

/-- A level walked from a word on; `opener` is the word named when the level never closes, `sub` walks a sub-program (none at level 3). -/
def walkLoop (env : WalkEnv) (top : Bool) (opener : Nat) (sub : Option (Nat → Nat → WalkInfo → Except Nat (PSet × WalkInfo))) :
    Nat → Nat → Level → Except Nat (PSet × WalkInfo)
  | 0, _, _ => .error opener
  | fuel + 1, pc, l =>
    if 255 < pc then .error opener
    else
      let w := mget 0 pc env.pm
      let l := { l with info := visit l.info pc }
      let close (isEmit : Bool) : Except Nat (PSet × WalkInfo) :=
        match l.stack with
        | [x] => if isEmit = top ∧ fld w 0 28 = 0 then .ok (x, l.info) else .error pc
        | _ => .error pc
      match fld w 28 4 with
      | 0xD => close true
      | 0xF => close false
      | 0x5 =>
        match sub with
        | none => .error pc
        | some go =>
          if fld w 16 12 ≠ 0 ∨ fld w 0 8 = 0 ∨ fld w 8 8 = 0 ∨ 255 < pc + fld w 0 8 ∨ 255 < pc + fld w 8 8 ∨ 8 ≤ l.stack.length then .error pc
          else do
            let a ← go (pc + fld w 0 8) pc l.info
            let b ← go (pc + fld w 8 8) pc a.2
            let k := PSet.kron a.1 b.1
            if domOk k then walkLoop env top opener sub fuel (pc + 1) { l with stack := k :: l.stack, info := b.2 } else .error pc
      | op =>
        match walkWord env w l with
        | none => .error pc
        | some l' =>
          let h := if op = 6 ∧ l.info.hash.isNone then some pc else l.info.hash
          walkLoop env top opener sub fuel (pc + 1) { l' with info := { l.info with hash := h } }

/-- A sub-program at a level, with `d` further levels below it. -/
def walkSub (env : WalkEnv) : Nat → Nat → Nat → WalkInfo → Except Nat (PSet × WalkInfo)
  | 0, start, opener, i => walkLoop env false opener none 257 start ⟨none, none, [], i⟩
  | d + 1, start, opener, i => walkLoop env false opener (some (walkSub env d)) 257 start ⟨none, none, [], i⟩

/-- The whole walk from a context's PC (R226): the set and what was visited, or the first failing word. -/
def walkProgram (env : WalkEnv) (pc : Nat) : Except Nat (PSet × WalkInfo) :=
  walkLoop env true pc (some (walkSub env 2)) 257 pc ⟨none, none, [], ⟨none, 255, 0, 0⟩⟩

/-- The set of a started context, from pattern memory as it stands. -/
def pctxSet (pm : List (Nat × Nat)) (p : PCtx) : Option PSet :=
  match walkProgram ⟨pm, p.pars, 3⟩ p.pc with
  | .ok r => some r.1
  | .error _ => none

/-- Coordinates that a context has left to deliver; a context that is not started has none (R200, R221). -/
def pctxLeft (p : PCtx) : Nat := if p.state = 2 then p.total - p.outcur else 0

/-- The extents of a context's set as rows and columns. -/
def pctxDom (x : Ctxt) (p : PCtx) : Nat × Nat := match pctxSet x.pgMem p with | some k => if p.state = 2 then k.dom else (0, 0) | none => (0, 0)

/-- Members from a cursor on, as (row, column). -/
def pctxTake (pm : List (Nat × Nat)) (p : PCtx) (n : Nat) : List (Nat × Nat) :=
  match pctxSet pm p with
  | some k => (((k.members p.order).drop p.outcur).take n).map fun m => if p.order = 0 then m else (m.2, m.1)
  | none => []

/-! ### Images (R237) -/

/-- LOOP0-LOOP3 of a started context, from its cursor as R237 derives them; R234 sets them to 0 at PG.START, which differs where the first member is
not at (0, 0) or there is none (log 113). -/
def pctxLoops (pm : List (Nat × Nat)) (p : PCtx) : List Nat :=
  if p.state ≠ 2 then [0, 0, 0, 0]
  else match pctxSet pm p with
    | none => [0, 0, 0, 0]
    | some k =>
      match (k.members p.order)[p.outcur]? with
      | none => [k.majors p.order, 0, 0, p.outcur]
      | some m =>
        let before := ((k.line p.order m.1).filter (· < m.2)).length
        [m.1, m.2, before, p.outcur - before]

/-- The image of a context. -/
def pctxImage (pm : List (Nat × Nat)) (p : PCtx) : List Byte :=
  natBytes 4 (p.state + p.order * 4 + p.pc * 16) ++ natBytes 4 p.total ++ natBytes 4 p.outcur ++
  natBytes 4 (p.blkMajor * 2 ^ 16 + p.blkMinor) ++ p.pars.flatMap (natBytes 4) ++ (pctxLoops pm p).flatMap (natBytes 4) ++
  natBytes 4 (p.spanLo + p.spanHi * 256) ++ natBytes 12 0

/-- The context an image describes, unchecked. -/
def pctxOfImage (bs : List Byte) : PCtx :=
  let q (o n : Nat) : Nat := bytesNat ((bs.drop o).take n)
  { state := q 0 4 % 4, order := fld (q 0 4) 2 1, pc := fld (q 0 4) 4 8, pars := [q 0x10 4, q 0x14 4, q 0x18 4, q 0x1C 4],
    total := q 4 4, outcur := q 8 4, blkMajor := q 0x0E 2, blkMinor := q 0x0C 2, spanLo := q 0x30 1, spanHi := q 0x31 1,
    counting := false }

/-! ### Instructions -/

/-- A context that an MLATCH.X of this bundle names, whether it stops or not, may not be named again in slot 7 (R240). -/
def pgFree (s : State) (g : Nat) : Except Stop Unit :=
  needLegal s (!(lowerSlots s).any fun i => match i with | .mlatchX _ _ k => k == g | _ => false)

/-- A context changed at the boundary (R231). -/
def pgEff (g : Nat) (p : PCtx) : Eff := .land 1 (some (.pgCtx g p)) none 0

/-- The captures that matrix commands of the queue hold, those that an MRESUME is about to restore among them (R212, R233). -/
def pgCaptures (x : Ctxt) : List PCtx := ((x.mq ++ x.mback.elim [] (·.cmds)).filter fun c => fld c.word 26 6 == 2).map (·.ctx)

/-- Two word ranges meet. -/
def spanMeets (p : PCtx) (lo n : Nat) : Bool := decide (p.spanLo < lo + n) && decide (lo ≤ p.spanHi)

/-- PG.LOAD: header, words and parameters are read word by word in that order (R150, R233). It waits for the captures of queued commands; the span
that an MLATCH.X of its own bundle captures for another context it overwrites without a stall or a fault (R240, log 114). -/
def execPgLoad (c b : Nat) (s : State) : Host.Outcome State Fault Refusal :=
  perform s (do
    pgFree s c
    let v ← rdS s 2 b
    let a := fld v.toNat 0 53
    let dest := fld v.toNat 53 8
    loadWait s a 4
    if fld v.toNat 61 3 ≠ 0 then stopFault 5 v.toNat
    needAligned s a 4
    let hdr := bytesNat (← loadV s a 4)
    let n := hdr % 512
    afterRead (readNotes s a 4) (do
      if hdr / 512 ≠ 0 ∨ n = 0 ∨ 256 < dest + n then stopFault 5 v.toNat
      let x := ctx s
      if (pgCaptures x).any fun p => spanMeets p dest n then stopStall .range
      let ws ← loadWords s (a + 0x14) n
      let pars ← loadWords s (a + 4) 4
      let gone := (List.range 4).filter fun h => h != c && (pctxOf x h).state == 2 && spanMeets (pctxOf x h) dest n
      pure (readNotes s a (0x14 + 4 * n) ++ .land 1 (some (.pgMem dest ws)) none 0 :: gone.map (pgEff · PCtx.empty) ++
        [pgEff c { PCtx.empty with state := 1, pc := dest, pars := pars }])))

/-- The walk of PG.START or PG.RESTORE: ILLEGAL is raised at once, NONINV once the bundle has stalled a cycle for each word (R58, R226, R228,
R230, R234). -/
def pgWalk (s : State) (p : PCtx) (order : Nat) : Except Stop (PSet × WalkInfo) :=
  match walkProgram ⟨(ctx s).pgMem, p.pars, declProfile (ctx s).decl⟩ p.pc with
  | .error i => stopFault 1 i
  | .ok r => do
    spendFirst s r.2.n
    match order, r.2.hash with
    | 1, some h => stopFault 10 h
    | _, _ => .ok r

/-- PG.START in an order: the bundle stalls a cycle for each word of the walk, and the counting pass then runs until COUNT_PASS_END (R230,
R234). -/
def pgStart (s : State) (c order : Nat) : Except Stop (List Eff) := do
  pgFree s c
  let p := pctxOf (ctx s) c
  if p.state = 0 then stopFault 1 0x100
  let r ← pgWalk s p order
  pure [pgEff c { p with state := 2, order := order, total := 0, outcur := 0, blkMajor := 0, blkMinor := 0, spanLo := r.2.lo,
                         spanHi := r.2.hi, counting := true }]

/-- PG.START.FWD (R234). -/
def execPgStartFwd (c : Nat) (s : State) : Host.Outcome State Fault Refusal := perform s (pgStart s c 0)

/-- PG.START.TR (R234). -/
def execPgStartTr (c : Nat) (s : State) : Host.Outcome State Fault Refusal := perform s (pgStart s c 1)

/-- A context whose counting pass still runs stalls its user (R230). -/
def pgCounted (s : State) (c : Nat) : Except Stop PCtx :=
  let p := pctxOf (ctx s) c
  if p.counting then stopStall .range else .ok p

/-- PG.NEXT (R235). -/
def execPgNext (d c : Nat) (s : State) : Host.Outcome State Fault Refusal :=
  perform s (do
    pgFree s c
    let p ← pgCounted s c
    vecStall s d 0 true
    let r ← vecRow s d
    let n := min 128 (pctxLeft p)
    let ms := if n = 0 then [] else pctxTake (ctx s).pgMem p n
    let lanes := (List.range 128).map fun i => match ms[i]? with | some m => m.1 * 2 ^ 16 + m.2 | none => 0xFFFFFFFF
    pure [.land 2 (some (.row r (laneRow 8 lanes) (some 8))) none 0, pgEff c { p with outcur := p.outcur + n }])

/-- The blocks of a set in order from a cursor on, with their member counts (R229). -/
def blockRow (k : PSet) (order p : Nat) : List Nat → Option (Nat × Nat)
  | [] => none
  | q :: qs =>
    let m := ((List.range 64).map fun i =>
      if 64 * p + i < k.majors order then ((k.line order (64 * p + i)).filter fun j => j / 128 == q).length else 0).foldl (· + ·) 0
    if m = 0 then blockRow k order p qs else some (q, m)

/-- The first block at or after a cursor that holds a member: major, minor, count (R236). -/
def blockFind (k : PSet) (order : Nat) : Nat → Nat → Nat → Option (Nat × Nat × Nat)
  | 0, _, _ => none
  | fuel + 1, p, q =>
    if k.majors order ≤ 64 * p then none
    else
      let cols := ceilDiv' (k.minors order) 128
      match blockRow k order p ((List.range cols).drop q) with
      | some r => some (p, r.1, r.2)
      | none => blockFind k order fuel (p + 1) 0
where
  /-- A quotient rounded up. -/
  ceilDiv' (a b : Nat) : Nat := (a + b - 1) / b

/-- PG.NEXTBLK (R236). -/
def execPgNextblk (d c : Nat) (s : State) : Host.Outcome State Fault Refusal :=
  perform s (do
    pgFree s c
    let p ← pgCounted s c
    let none' := 2 ^ 64 - 1
    match (if p.state = 2 then pctxSet (ctx s).pgMem p else none) with
    | none => replyTo s d none'
    | some k =>
      match blockFind k p.order 513 p.blkMajor p.blkMinor with
      | none => replyTo s d none'
      | some (bp, bq, m) => do
        let es ← replyTo s d (m * 2 ^ 32 + bp * 2 ^ 16 + bq)
        let last := (k.minors p.order + 127) / 128
        let nx := if bq + 1 = last then (bp + 1, 0) else (bp, bq + 1)
        pure (es ++ [pgEff c { p with blkMajor := nx.1, blkMinor := nx.2 }]))

/-- PG.SAVE: an unordered store of the image (R238). -/
def execPgSave (c b : Nat) (s : State) : Host.Outcome State Fault Refusal :=
  perform s (do
    pgFree s c
    let p ← pgCounted s c
    let v ← rdS s 2 b
    needData s v.toNat 64
    storeV s v.toNat (pctxImage (ctx s).pgMem p))

/-- The counts and cursors of a started image, checked in offset order against the walk (R239). -/
def imageBad (pm : List (Nat × Nat)) (bs : List Byte) (k : PSet) (i : WalkInfo) : Option Nat :=
  let q (o n : Nat) : Nat := bytesNat ((bs.drop o).take n)
  let p := pctxOfImage bs
  let total := (k.members p.order).length
  let rows := (k.majors p.order + 63) / 64
  let cols := (k.minors p.order + 127) / 128
  let loops := pctxLoops pm { p with total := total }
  if q 4 4 ≠ total then some 4
  else if total < q 8 4 then some 8
  else if !((decide (p.blkMajor < rows) && decide (p.blkMinor < cols)) || (p.blkMajor == rows && p.blkMinor == 0)) then some 0x0C
  else match (List.range 4).find? fun j => q (0x20 + 4 * j) 4 != loops.getD j 0 with
    | some j => some (0x20 + 4 * j)
    | none => if q 0x30 4 ≠ i.lo + i.hi * 256 then some 0x30 else if q 0x34 12 ≠ 0 then some 0x34 else none

/-- The longest that a counting pass takes (R230). -/
def countTime (k : PSet) (order : Nat) : Nat := 16 + k.majors order + ((k.members order).length + 15) / 16

/-- PG.RESTORE: for a started image the bundle stalls through the walk and the longest count (R230, R239, log 40). -/
def execPgRestore (c b : Nat) (s : State) : Host.Outcome State Fault Refusal :=
  perform s (do
    pgFree s c
    let v ← rdS s 2 b
    loadWait s v.toNat 64
    needData s v.toNat 64
    let bs ← loadV s v.toNat 64
    let notes := readNotes s v.toNat 64
    let q (o n : Nat) : Nat := bytesNat ((bs.drop o).take n)
    let p := pctxOfImage bs
    afterRead notes (do
      if p.state = 3 ∨ fld (q 0 4) 3 1 ≠ 0 ∨ fld (q 0 4) 12 20 ≠ 0 then stopFault 5 0
      if p.state = 2 then do
        let r ← pgWalk s p p.order
        spendFirst s (r.2.n + countTime r.1 p.order)
        match imageBad (ctx s).pgMem bs r.1 r.2 with
        | some o => stopFault 5 o
        | none => pure (notes ++ [pgEff c p])
      else
        let fields : List (Nat × Nat) :=
          (0, fld (q 0 4) 2 1) :: ([4, 8, 0x0C, 0x20, 0x24, 0x28, 0x2C, 0x30].map fun o => (o, q o 4)) ++ [(0x34, q 0x34 12)]
        match fields.find? fun e => e.2 != 0 with
        | some e => stopFault 5 e.1
        | none => pure (notes ++ [pgEff c p])))

/-- COUNT_PASS_END: TOTAL is fixed and the users that stalled may go on (R230). -/
def countPassEnd (s : State) (core g : Nat) : State :=
  let c := coreOf s core
  let x := c.ctx
  let p := pctxOf x g
  if p.counting then
    let n := match pctxSet x.pgMem p with | some k => (k.members p.order).length | none => 0
    setCoreOf s core { c with ctx := { x with pgCtxs := mput g { p with total := n, counting := false } x.pgCtxs } }
  else s

/-- COUNT_PASS_END (R230). -/
def execCountPassEnd (core g : Nat) (s : State) : Host.Outcome State Fault Refusal :=
  if core < Config.cores then .next (countPassEnd s core g) else .fault (.noSuchAgent core)

end Sys2Proof.Machine
end

