-- ==== Sys2Proof/Machine/System.lean ====
section
/-! DEFINITION. System registers read and written (R108-R112, R216-R218), traps raised on purpose, ERET and HALT (R350-R352). -/

namespace Sys2Proof.Machine

/-- Whether a core's configuration is usable as a mesh neighbour (R7, R9). -/
def coreUsable (s : State) (n : Nat) : Bool := decide (n < Config.cores) && enabled s n

/-- The mesh neighbour of a core on its die: 0 east, 1 west, 2 north, 3 south (R7, R216, R218). -/
def meshNeighbour (n dir : Nat) : Option Nat :=
  let x := n % 8
  let y := n / 8 % 8
  match dir with
  | 0 => if x < 7 then some (n + 1) else none
  | 1 => if 0 < x then some (n - 1) else none
  | 2 => if y < 7 then some (n + 8) else none
  | _ => if 0 < y then some (n - 8) else none

/-- ON, OWNER and DIR of a DUETCTL value (R218). -/
def duetOn (v : Word) : Bool := v.getLsbD 0
def duetOwner (v : Word) : Bool := v.getLsbD 1
def duetDir (v : Word) : Nat := fld v.toNat 2 2

/-- The partner with which duet mode is in force (R217, R218). -/
def duetPartner (s : State) (core : Nat) : Option Nat :=
  let v := (coreOf s core).duetctl
  match meshNeighbour core (duetDir v) with
  | none => none
  | some p =>
    let w := (coreOf s p).duetctl
    if duetOn v && duetOn w && coreUsable s p && coreUsable s core && meshNeighbour p (duetDir w) == some core &&
        duetOwner v != duetOwner w then some p else none

/-- The system registers that cue code may not name (R109). -/
def sysPrivileged (n : Nat) : Bool :=
  (decide (0x10 ≤ n) && decide (n ≤ 0x16)) || n == 0x20 || n == 0x21 || (decide (0x30 ≤ n) && decide (n ≤ 0x32)) ||
  (decide (0x40 ≤ n) && decide (n ≤ 0x43))

/-- The value of a system register (R109-R112). SERIAL is the core's count of the cues it has started, for a cue that a curtain saved and a resume
brought back too: R367 saves no number of its own (log 110). -/
def sysRead (s : State) (core n : Nat) : Word :=
  let c := coreOf s core
  let x := c.ctx
  if n = 0 then BitVec.ofNat 64 (c.started % 2 ^ 32 * 2 ^ 32 + core)
  else if n = 1 then BitVec.ofNat 64 x.cls
  else if n = 2 then x.decl
  else if n = 3 then BitVec.ofNat 64 x.rot
  else if n = 4 then x.sticky
  else if n = 5 then (if x.nopre.isSome then 1#64 else 0#64)
  else if n = 6 then BitVec.ofNat 64 c.cycles
  else if 8 ≤ n ∧ n ≤ 15 then bregOf x (n - 8)
  else if n = 0x10 then x.cause
  else if n = 0x11 then x.faultpc
  else if n = 0x12 then x.faultinfo
  else if n = 0x13 then x.shapeinfo
  else if n = 0x14 then c.tvec
  else if n = 0x15 then x.esave
  else if n = 0x16 then (if x.rehearse then 1#64 else 0#64)
  else if n = 0x20 then x.iroot
  else if n = 0x21 then x.droot
  else if n = 0x30 then c.migctl
  else if n = 0x31 then c.duetctl ||| (if (duetPartner s core).isSome then 16#64 else 0#64)
  else if n = 0x32 then c.capf
  else if 0x40 ≤ n ∧ n ≤ 0x43 then mget 0 (n - 0x40) c.evsel
  else if 0x48 ≤ n ∧ n ≤ 0x4B then mget 0 (n - 0x48) c.evcnt
  else 0

/-- The access check of a system register: ILLEGAL on an undefined number, PRIV on an SM register in cue code (R4, R70, R108). -/
def sysAccess (s : State) (n : Nat) : Except Stop Unit := do
  needLegal s (sysRegDefined n)
  if sysPrivileged n then needStageManager s

/-- SYSRD (R108). -/
def execSysrd (a n : Nat) (s : State) : Host.Outcome State Fault Refusal :=
  perform s (do
    sysAccess s n
    outS s 1 a (sysRead s s.focus n) 0)

/-- A SYSWR takes effect at the boundary before the next bundle (R108). -/
def sysOut (s : State) (a n : Nat) : Except Stop (List Eff) := do
  let v ← rdS s 0 a
  pure [.land 1 (some (.sys n v)) none 0]

/-- SYSWR of a register without a row of its own (R108, R109). -/
def execSyswr (a n : Nat) (s : State) : Host.Outcome State Fault Refusal :=
  perform s (do
    sysAccess s n
    sysOut s a n)

/-- SYSWR to NOPRE (R85, R109). -/
def execNopreWrite (a n : Nat) (s : State) : Host.Outcome State Fault Refusal :=
  perform s (do
    needLegal s (n == 5)
    sysOut s a 5)

/-- SYSWR to STICKY: ones clear (R111). -/
def execStickyWrite (a n : Nat) (s : State) : Host.Outcome State Fault Refusal :=
  perform s (do
    needLegal s (n == 4)
    sysOut s a 4)

/-- SYSWR to EVSEL0-EVSEL3 (R112). -/
def execEvselWrite (a n : Nat) (s : State) : Host.Outcome State Fault Refusal :=
  perform s (do
    needLegal s (decide (0x40 ≤ n) && decide (n ≤ 0x43))
    needStageManager s
    sysOut s a n)

/-- SYSWR to IROOT or DROOT: it waits until every earlier store has performed at die scope (R358). -/
def execRootWrite (a n : Nat) (s : State) : Host.Outcome State Fault Refusal :=
  perform s (do
    needLegal s (n == 0x20 || n == 0x21)
    needStageManager s
    freeRegs s [a]
    waitFor (storesDone s s.focus 1)
    sysOut s a n)

/-- SYSWR to DUETCTL: it waits until this core's matrix queue is empty with no command away (R217). -/
def execDuetctlWrite (a n : Nat) (s : State) : Host.Outcome State Fault Refusal :=
  perform s (do
    needLegal s (n == 0x31)
    needStageManager s
    freeRegs s [a]
    waitFor (ctx s).mq.isEmpty
    sysOut s a 0x31)

/-- TRAP: the bundle performs, then the trap of code 17 is taken (R350). -/
def execTrap (i : Nat) (s : State) : Host.Outcome State Fault Refusal := perform s (.ok [.ctl (.trap i)])

/-- ERET: PRIV in cue code, ILLEGAL outside a handler, ALIGN where FAULTPC is no bundle address (R20); its waits come after the other slots have
performed (R351). -/
def execEret (s : State) : Host.Outcome State Fault Refusal :=
  perform s (do
    needStageManager s
    needLegal s (live (ctx s))
    needAligned s (ctx s).faultpc.toNat 32
    pure [.ctl .eret])

/-- HALT (R352). -/
def execHalt (s : State) : Host.Outcome State Fault Refusal :=
  perform s (do
    needStageManager s
    pure [.ctl .halt])

end Sys2Proof.Machine
end

