-- ==== Sys2Proof/Machine/Matrix.lean ====
section
/-! DEFINITION. The M slot: typing, capture and queueing of matrix commands (R194-R208, R213), the engine image and its check (R209-R212). -/

namespace Sys2Proof.Machine

/-! ### Latches -/

/-- Latches in the group of a format (R194). -/
def latchGroup (fmt : Nat) : Nat := if fmtWidth fmt ≤ 16 then 1 else if fmtWidth fmt ≤ 32 then 2 else 4

/-- Whether a group may start at a latch (R194). -/
def latchFits (l fmt : Nat) : Bool := l % latchGroup fmt == 0

/-- Whether two runs of latches meet. -/
def latchMeets (a n b m : Nat) : Bool := decide (a < b + m) && decide (b < a + n)

/-- The type words that a fill of a latch writes at issue: the target's, and zero in every typed latch whose group meets the new group or the
group that last held the target (R195). `col` says that the new block scales run along k (R199). -/
def latchFill (x : Ctxt) (l : Nat) (tw : BitVec 128) (col : Bool) : List Eff :=
  let g := latchGroup (twFmt tw.toNat)
  let old := (latchOf x l).grp
  let lost (j : Nat) : Bool := (latchOf x j).tw != 0#128 &&
    (let n := latchGroup (twFmt (latchOf x j).tw.toNat)
     latchMeets j n l g || latchMeets j n old.1 old.2)
  let inside (j : Nat) : Bool := decide (l < j) && decide (j < l + g)
  ((List.range 4).filter fun j => j != l && (lost j || inside j)).map
    (fun j => .land 1 (some (.latchType j 0 false (if inside j then some (l, g) else none))) none 0) ++
  [.land 1 (some (.latchType l tw col (some (l, g)))) none 0]

/-! ### Issue -/

/-- The core whose array a core's commands run on, and whether the core is the partner there (R217). -/
def arrayOf (s : State) (core : Nat) : Nat × Bool :=
  match duetPartner s core with
  | some p => if duetOwner (coreOf s core).duetctl then (core, false) else (p, true)
  | none => (core, false)

/-- An M command waits for a free entry, those of a restored queue among the taken ones (R53, R212), for a pairing it asks for that is not in force
(R218), and for a test of the array that it would run on (R217, R372). -/
def mRoom (s : State) : Except Stop Unit :=
  let v := (cur s).duetctl
  if 16 ≤ (ctx s).mq.length + ((ctx s).mback.elim [] (·.cmds)).length || arrayTesting s (arrayOf s s.focus).1 then stopStall .queue
  else if duetOn v && !duetOwner v && (duetPartner s s.focus).isNone then stopStall .queue
  else .ok ()

/-- A captured operand with its extents as constants (R143). -/
def capture (t : Tile) (e : List Nat) : Opnd := ⟨twConst t.tw e, t.bd⟩

/-- The place in program order of a queue's youngest command. -/
def mNewest (q : List MCmd) : Nat := q.foldl (fun n c => max n c.num) 0

/-- A command as it enters the queue. -/
def mCmd (s : State) (i : Instr) (ops : List Opnd) (p : PCtx) : MCmd :=
  { word := encode i, ops := ops, ctx := p, latch := [], started := false, running := false, rows := 0, col := 0, depth := 0,
    issuedAt := (cur s).cycles, num := mNewest (ctx s).mq + 1, away := none }

/-- The tests that come before typing, in the counting order of R55: a clash within the bundle, busy ranges, room in the queue (R51-R53). -/
def mBefore (s : State) (rs : List Range) : Except Stop Unit := do
  noClash s rs
  touchRanges s rs
  mRoom s

/-- A tile's binding as a range of a command. -/
def tileRange (t : Tile) (w : Bool) : List Range := opRange ⟨t.tw, t.bd⟩ w

/-- An operand that stands for a type only: the latch (R202). -/
def latchOpnd (tw : BitVec 128) : Opnd := ⟨tw, 0⟩

/-- A latch type word that tells along which dimension its block scales run, where it has block scales: 1 in LAYOUT for k (R195, R199, R204;
log 14). -/
def latchWord (tw : BitVec 128) (col : Bool) : BitVec 128 :=
  if col && scBlock (twScale tw.toNat) != 0 then tw ||| BitVec.ofNat 128 (2 ^ 7) else tw

/-- MLATCH (R199). -/
def execMlatch (a l : Nat) (s : State) : Host.Outcome State Fault Refusal :=
  perform s (do
    let t := tileOf (ctx s) a
    let w := t.tw.toNat
    mBefore s (tileRange t false)
    checkType s [] 1 t.tw
    need s 1 2 0 (twLayout w) (decide (twLayout w ≤ 1))
    need s 1 0 1 (twRank w) (twRank w == 1)
    need s 1 1 0 (twFmt w) (fmtIsOp (twFmt w))
    need s 2 1 0 (twFmt w) (latchFits l (twFmt w))
    limit 4 64 0 w
    limit 5 128 1 w
    let e ← extsNeeded s [] 1 t.tw
    checkFit s 1 t.tw e t.bd
    banksHeld s t.bd
    let lt := twMake 1 (twFmt w) 0 (twScale w) [e.getD 0 1, e.getD 1 1]
    pure (latchFill (ctx s) l lt (twLayout w == 1) ++ [.mcmd (mCmd s (.mlatch a l) [⟨0, 0⟩, capture t e, latchOpnd lt, ⟨0, 0⟩] PCtx.empty)]))
where
  /-- An extent of the source within a limit, where it has a value. -/
  limit (field lim k w : Nat) : Except Stop Unit :=
    match extVal s [] (extOf (twExt w k)) with
    | some v => if lim < v then stopShape s 1 field lim v (extOf (twExt w k)).dv else .ok ()
    | none => .ok ()

/-- MLATCH.X: the context is captured and its cursor goes past the coordinates taken (R200, R230, R240). The latch type word about to be written
must pass R138, which an unstarted context's cannot, and so must the captured source with the count as its extent (log 90). -/
def execMlatchX (a l g : Nat) (s : State) : Host.Outcome State Fault Refusal :=
  perform s (do
    let x := ctx s
    let t := tileOf x a
    let w := t.tw.toNat
    noClash s (tileRange t false)
    let p ← pgCounted s g
    touchRanges s (tileRange t false)
    mRoom s
    checkType s [] 1 t.tw
    need s 1 2 5 (twLayout w) (twLayout w == 5)
    need s 1 1 0 (twFmt w) (fmtIsOp (twFmt w) && latchFits l (twFmt w))
    let d := pctxDom x p
    if 64 < d.1 then stopShape s 2 4 64 d.1
    if 128 < d.2 then stopShape s 2 5 128 d.2
    let loc ← unify s [] 1 4 (extOf (twExt w 0)) (.const (pctxLeft p))
    let e ← extsNeeded s loc 1 t.tw
    let lt := twMake 1 (twFmt w) 0 0 [d.1, d.2]
    checkType s loc 2 lt
    if e.getD 0 1 = 0 then stopShape s 1 4 1 0 (extOf (twExt w 0)).dv
    checkFit s 1 t.tw e t.bd
    pure (bindEffs loc ++ latchFill x l lt false ++
      [pgEff g { p with outcur := p.outcur + e.getD 0 1 }, .mcmd (mCmd s (.mlatchX a l g) [⟨0, 0⟩, capture t e, latchOpnd lt, ⟨0, 0⟩] p)]))

/-- Whether an accumulator format suits a pair of operand formats, and the format named as EXPECTED (R121, R202). -/
def accPair (a l d : Nat) : Bool × Nat :=
  if fmtIsInt a then (d == 8, 8)
  else if a = 0x13 ∨ l = 0x13 then (d == 0x13, 0x13)
  else (d == 0x10 || d == 0x0F || d == 0x12 || d == 0x18 || d == 0x13, 0x12)

/-- MMA (R201-R203). -/
def execMma (d a l c h x u n q : Nat) (s : State) : Host.Outcome State Fault Refusal :=
  performBound s (do
    let k := ctx s
    let dt := tileOf k d
    let at' := tileOf k a
    let ct := tileOf k c
    let lt := (latchOf k l).tw
    let dw := dt.tw.toNat
    let aw := at'.tw.toNat
    let cw := ct.tw.toNat
    let lw := lt.toNat
    tileFree s d
    mBefore s (tileRange dt true ++ tileRange at' false ++ (if u = 1 then tileRange ct false else []))
    checkType s [] 0 dt.tw
    checkType s [] 1 at'.tw
    checkType s [] 2 lt
    if u = 1 then checkType s [] 3 ct.tw
    need s 1 2 2 (twLayout aw) (twLayout aw == 2)
    need s 0 2 3 (twLayout dw) (twLayout dw == 3)
    need s 2 1 (twFmt aw) (twFmt lw) (fmtIsInt (twFmt lw) == fmtIsInt (twFmt aw))
    let pr := accPair (twFmt aw) (twFmt lw) (twFmt dw)
    need s 0 1 pr.2 (twFmt dw) pr.1
    let loc ← unify s [] 1 5 (extOf (twExt aw 1)) (extOf (twExt lw 0))
    let loc ← unify s loc 0 4 (extOf (twExt dw 0)) (extOf (twExt aw 0))
    let loc ← unify s loc 0 5 (extOf (twExt dw 1)) (extOf (twExt lw 1))
    let loc ←
      if u = 1 then do
        need s 3 2 (twLayout dw) (twLayout cw) (twLayout cw == twLayout dw)
        need s 3 1 (twFmt dw) (twFmt cw) (twFmt cw == twFmt dw)
        let l1 ← unify s loc 3 4 (extOf (twExt cw 0)) (extOf (twExt dw 0))
        let l2 ← unify s l1 3 5 (extOf (twExt cw 1)) (extOf (twExt dw 1))
        if bdOverlap ct.bd dt.bd ≠ 0 ∧ ct.bd ≠ dt.bd then stopShape s 3 9 0 (bdOverlap ct.bd dt.bd)
        pure l2
      else pure loc
    checkType s loc 0 dt.tw
    let ae ← extsNeeded s loc 1 at'.tw
    let de ← extsNeeded s loc 0 dt.tw
    let le ← extsNeeded s loc 2 lt
    checkFit s 1 at'.tw ae at'.bd
    checkFit s 0 dt.tw de dt.bd
    let cop ←
      if u = 1 then do
        let ce ← extsNeeded s loc 3 ct.tw
        checkFit s 3 ct.tw ce ct.bd
        pure (capture ct ce)
      else pure ⟨0, 0⟩
    pure (loc, do
      if u = 1 then banksHeld s ct.bd
      banksHeld s dt.bd
      pure [tileEff d (some (twConst dt.tw de)) none,
        .mcmd (mCmd s (.mma d a l c h x u n q) [capture dt de, capture at' ae, latchOpnd (latchWord (twConst lt le) (latchOf k l).col), cop]
          PCtx.empty)]))

/-- MZERO (R206). -/
def execMzero (d : Nat) (s : State) : Host.Outcome State Fault Refusal :=
  perform s (do
    let t := tileOf (ctx s) d
    mBefore s (tileRange t true)
    checkType s [] 0 t.tw
    let e ← extsNeeded s [] 0 t.tw
    checkFit s 0 t.tw e t.bd
    banksHeld s t.bd
    pure [.mcmd (mCmd s (.mzero d) [capture t e, ⟨0, 0⟩, ⟨0, 0⟩, ⟨0, 0⟩] PCtx.empty)])

/-- Storage of two tiles that may not overlap, and the common end of MTRANS and MCAST: the bindings, then what follows the unification (R207,
R208). -/
def mTwo (s : State) (i : Instr) (loc : Local) (dt at' : Tile) : Except Stop (Local × Except Stop (List Eff)) := do
  need s 0 9 0 (bdOverlap dt.bd at'.bd) (bdOverlap dt.bd at'.bd == 0)
  checkType s loc 0 dt.tw
  let ae ← extsNeeded s loc 1 at'.tw
  let de ← extsNeeded s loc 0 dt.tw
  checkFit s 1 at'.tw ae at'.bd
  checkFit s 0 dt.tw de dt.bd
  pure (loc, do
    banksHeld s at'.bd
    banksHeld s dt.bd
    pure [.mcmd (mCmd s i [capture dt de, capture at' ae, ⟨0, 0⟩, ⟨0, 0⟩] PCtx.empty)])

/-- MTRANS (R207). -/
def execMtrans (d a : Nat) (s : State) : Host.Outcome State Fault Refusal :=
  performBound s (do
    let dt := tileOf (ctx s) d
    let at' := tileOf (ctx s) a
    let dw := dt.tw.toNat
    let aw := at'.tw.toNat
    let lay (w : Nat) : Bool := twLayout w == 0 || twLayout w == 1 || twLayout w == 3 || twLayout w == 4
    mBefore s (tileRange dt true ++ tileRange at' false)
    checkType s [] 0 dt.tw
    checkType s [] 1 at'.tw
    need s 1 2 0 (twLayout aw) (lay aw)
    need s 0 2 0 (twLayout dw) (lay dw)
    need s 1 0 1 (twRank aw) (twRank aw == 1)
    need s 0 0 1 (twRank dw) (twRank dw == 1)
    need s 1 3 0 (twScale aw) (twScale aw == 0)
    need s 0 3 0 (twScale dw) (twScale dw == 0)
    need s 0 1 (twFmt aw) (twFmt dw) (twFmt dw == twFmt aw)
    let loc ← unify s [] 0 4 (extOf (twExt dw 0)) (extOf (twExt aw 1))
    let loc ← unify s loc 0 5 (extOf (twExt dw 1)) (extOf (twExt aw 0))
    mTwo s (.mtrans d a) loc dt at')

/-- Extents of D in use unified with A's in order. -/
def unifyAll (s : State) (opnd rank dw aw : Nat) : Nat → Local → Except Stop Local
  | 0, loc => .ok loc
  | n + 1, loc => do
    let l ← unifyAll s opnd rank dw aw n loc
    if rank < n then pure l else unify s l opnd (4 + n) (extOf (twExt dw n)) (extOf (twExt aw n))

/-- MCAST (R208). -/
def execMcast (d a r : Nat) (s : State) : Host.Outcome State Fault Refusal :=
  performBound s (do
    let dt := tileOf (ctx s) d
    let at' := tileOf (ctx s) a
    let dw := dt.tw.toNat
    let aw := at'.tw.toNat
    mBefore s (tileRange dt true ++ tileRange at' false)
    checkType s [] 0 dt.tw
    checkType s [] 1 at'.tw
    need s 0 2 0 (twLayout dw) (twLayout dw != 5)
    need s 1 2 0 (twLayout aw) (twLayout aw != 5)
    need s 0 0 (twRank aw) (twRank dw) (twRank dw == twRank aw)
    let loc ← unifyAll s 0 (twRank aw) dw aw 4 []
    mTwo s (.mcast d a r) loc dt at')

/-- MSYNC (R198, R213). -/
def execMsync (s : State) : Host.Outcome State Fault Refusal :=
  perform s (
    if !(ctx s).mq.isEmpty then stopStall .wait
    else match (ctx s).matErrs with
      | e :: _ => .error (.held ⟨14, BitVec.ofNat 64 e.pa, none⟩ (.mat e))
      | [] => .ok [])

/-! ### Progress and the engine image -/

/-- The rows, units or lines of a command (R213). MLATCH.X goes by latch rows in either order of its context (log 4). -/
def mTotal (c : MCmd) : Nat :=
  let d := viewOf 0 (mOp c 0)
  match fld c.word 26 6 with
  | 1 => twExt (mOp c 1).tw.toNat 0
  | 2 => max 1 (twExt (mOp c 2).tw.toNat 0)
  | 3 => d.ext 0
  | 4 => ceilDiv (needBytes d.w d.e) 512
  | 5 | 6 => d.lines
  | _ => 0

/-- MPROBE: the state of the queue and the counters of the running command (R213). A command of a neighbour that this array runs, or of the duet
partner, is not shown: R213 speaks of the queue and of the home array without naming them (log 106). -/
def execMprobe (d : Nat) (s : State) : Host.Outcome State Fault Refusal :=
  perform s (
    let x := ctx s
    let queued := (x.mq.filter fun c => !c.started).length
    let away := (x.mq.filter fun c => c.away.isSome).length
    let cells := match x.cells with | some l => 2 ^ 46 + l * 2 ^ 47 | none => 0
    let now := match x.mq.find? fun c => c.running && c.away.isNone with
      | some c => 2 ^ 53 + fld c.word 26 6 * 2 ^ 49 + c.rows % 2 ^ 15 * 2 ^ 31 + c.col % 2 ^ 15 * 2 ^ 16 + c.depth % 2 ^ 14 * 4
      | none => 0
    replyTo s d (queued * 2 ^ 59 + away * 2 ^ 54 + now + cells))

/-- The first latch with an uncorrectable error among n bytes of a group's element storage, from a byte offset on (R373, R402). -/
def latchBad (s : State) (core : Nat) (ls : Nat → LatchSt) (o n : Nat) : Option Nat :=
  (List.range 4).find? fun l => overlaps (16384 * l) 16384 o n &&
    (latchFailed s core l || (ls l).bad.any fun g => decide (g < 16384) && overlaps (16384 * l + g) 8 o n)

/-- The first latch that holds an uncorrectable error anywhere, or lies in a unit marked failed (R373, R402). -/
def latchSick (s : State) (core : Nat) (ls : Nat → LatchSt) : Option Nat :=
  (List.range 4).find? fun l => latchFailed s core l || !(ls l).bad.isEmpty

/-- The save tile of MSAVE and MRESUME: a valid type in the scratchpad whose storage is at least the image (R211); its extents. -/
def saveTile (s : State) (opnd : Nat) (t : Tile) : Except Stop (List Nat) := do
  checkType s [] opnd t.tw
  let e ← extsNeeded s [] opnd t.tw
  let n := needBytes t.tw.toNat e
  need s opnd 9 73984 (bdHolds (twLayout t.tw.toNat) t.bd) (decide (73984 ≤ n))
  checkFit s opnd t.tw e t.bd
  need s opnd 9 n 0 (bdSpace t.bd == 1)
  pure e

/-- MSAVE enters the queue (R197, R211). -/
def execMsave (t : Nat) (s : State) : Host.Outcome State Fault Refusal :=
  perform s (do
    let r := tileOf (ctx s) t
    mBefore s (tileRange r true)
    let e ← saveTile s 0 r
    pure [.mcmd (mCmd s (.msave t) [capture r e, ⟨0, 0⟩, ⟨0, 0⟩, ⟨0, 0⟩] PCtx.empty)])

/-- The LTYPE field of a latch: its type word, LAYOUT telling along which dimension its block scales run; zero when untyped (R209; log 14). -/
def latchTypeField (l : LatchSt) : Nat := (latchWord l.tw l.col).toNat

/-- A command record (R210). -/
def mRecord (pm : List (Nat × Nat)) (c : MCmd) : List Byte :=
  natBytes 4 c.word ++ natBytes 4 (if c.started || decide (0 < c.rows) then 1 else 0) ++ natBytes 4 c.rows ++ natBytes 4 c.col ++
  natBytes 4 c.depth ++ natBytes 12 0 ++
  (List.range 4).flatMap (fun j => natBytes 16 (mOp c j).tw.toNat ++ natBytes 8 (mOp c j).bd.toNat) ++
  (if fld c.word 26 6 = 2 then pctxImage pm c.ctx else natBytes 64 0) ++ natBytes 64 0

/-- A command put among others in program order. -/
def mInsert (c : MCmd) : List MCmd → List MCmd
  | [] => [c]
  | o :: r => if c.num < o.num then c :: o :: r else o :: mInsert c r

/-- Commands in program order, wherever a recall has put them (R209, R215). -/
def mOrdered (q : List MCmd) : List MCmd := q.foldl (fun l c => mInsert c l) []

/-- The engine state image of a context and its incomplete commands (R209). -/
def mImage (x : Ctxt) (q : List MCmd) : List Byte :=
  let cs := mOrdered q
  natBytes 4 0x4D534156 ++ natBytes 4 1 ++ natBytes 4 cs.length ++ natBytes 52 0 ++
  (List.range 4).flatMap (fun l => natBytes 16 (latchTypeField (latchOf x l))) ++
  natBytes 4 (match x.cells with | some l => 4 + l | none => 0) ++ natBytes 12 0 ++
  (List.range 4).flatMap (fun l => natBytes 2 (latchOf x l).band) ++ natBytes 104 0 ++
  cs.flatMap (mRecord x.pgMem) ++ natBytes (256 * (16 - cs.length)) 0 ++
  (List.range 4).flatMap (fun l => memRead (latchOf x l).scales 0 1024) ++
  (List.range 4).flatMap fun l => memRead (latchOf x l).store 0 16384

/-- Bytes of an image as a number. -/
def imgNat (bs : List Byte) (o n : Nat) : Nat := bytesNat ((bs.drop o).take n)

/-- A command as its record describes it; records stand in program order. -/
def mOfRecord (bs : List Byte) (o : Nat) : MCmd :=
  { word := imgNat bs o 4
    ops := (List.range 4).map fun j => ⟨BitVec.ofNat 128 (imgNat bs (o + 0x20 + 24 * j) 16), BitVec.ofNat 64 (imgNat bs (o + 0x30 + 24 * j) 8)⟩
    ctx := if fld (imgNat bs o 4) 26 6 = 2 then pctxOfImage ((bs.drop (o + 0x80)).take 64) else PCtx.empty
    latch := [], started := fld (imgNat bs (o + 4) 4) 0 1 == 1, running := false, rows := imgNat bs (o + 8) 4
    col := imgNat bs (o + 0x0C) 4, depth := imgNat bs (o + 0x10) 4
    issuedAt := 0, num := o, away := none }

/-- Whether a type word passes R138. -/
def typeOk (s : State) (w : Nat) : Bool := match checkType s [] 0 (BitVec.ofNat 128 w) with | .ok _ => true | .error _ => false

/-- The first field of record i that fails the check of MRESUME: an OPND is judged by its type word unless all of it is zero, and by the reserved
bits of its binding (R132), and the reserved fields of a captured context are those of its image (R210, R212, R237). -/
def mRecordBad (s : State) (bs : List Byte) (o : Nat) : Option Nat :=
  let c := mOfRecord bs o
  let op := fld c.word 26 6
  let legal := decide (1 ≤ op ∧ op ≤ 6) && (match decodeSlot .m c.word with | .ok _ => true | .error _ => false)
  let line := if op = 5 ∨ op = 6 then (viewOf 0 (mOp c 0)).run else 0
  let picks := if op = 2 then twExt (mOp c 1).tw.toNat 0 else 0
  if !legal then some o
  else if 1 < imgNat bs (o + 4) 4 then some (o + 4)
  else if mTotal c < c.rows then some (o + 8)
  else if line < c.col then some (o + 0x0C)
  else if picks < c.depth then some (o + 0x10)
  else if imgNat bs (o + 0x14) 12 ≠ 0 then some (o + 0x14)
  else match (List.range 4).find? fun j => imgNat bs (o + 0x20 + 24 * j) 24 != 0 &&
      (!typeOk s (imgNat bs (o + 0x20 + 24 * j) 16) || decide (2 ^ 44 ≤ imgNat bs (o + 0x30 + 24 * j) 8)) with
    | some j => some (o + 0x20 + 24 * j)
    | none =>
      if op = 2 ∧ (fld (imgNat bs (o + 0x80) 4) 3 1 ≠ 0 ∨ fld (imgNat bs (o + 0x80) 4) 12 20 ≠ 0) then some (o + 0x80)
      else if op = 2 ∧ imgNat bs (o + 0xB2) 2 ≠ 0 then some (o + 0xB0)
      else if op = 2 ∧ imgNat bs (o + 0xB4) 12 ≠ 0 then some (o + 0xB4)
      else if imgNat bs (o + 0xE0) 32 ≠ 0 then some (o + 0xE0) else none

/-- The first field of an engine image that fails the check of MRESUME, by byte offset (R212). -/
def mImageBad (s : State) (bs : List Byte) : Option Nat :=
  let n := imgNat bs 8 4
  if imgNat bs 0 4 ≠ 0x4D534156 then some 0
  else if imgNat bs 4 4 ≠ 1 then some 4
  else if 16 < n then some 8
  else if imgNat bs 0x0C 52 ≠ 0 then some 0x0C
  else match (List.range 4).find? fun l => imgNat bs (0x40 + 16 * l) 16 != 0 && !typeOk s (imgNat bs (0x40 + 16 * l) 16) with
    | some l => some (0x40 + 16 * l)
    | none =>
      if 8 ≤ imgNat bs 0x80 4 then some 0x80
      else if imgNat bs 0x84 12 ≠ 0 then some 0x84
      else if imgNat bs 0x98 104 ≠ 0 then some 0x98
      else (List.range n).findSome? fun i => mRecordBad s bs (0x100 + 256 * i)

/-- Where the header and the records of an image end. -/
def mHeadBytes : Nat := 0x1100

/-- The commands, latches and cells of a checked image; the bytes of the latches as far as they are given. -/
def mOfImage (bs : List Byte) : MBack :=
  { cmds := (List.range (imgNat bs 8 4)).map fun i => mOfRecord bs (0x100 + 256 * i)
    latches := (List.range 4).map fun l =>
      let t := imgNat bs (0x40 + 16 * l) 16
      (l, { tw := BitVec.ofNat 128 (if twLayout t = 1 then t - 2 ^ 7 else t), col := twLayout t == 1, grp := groupIn l,
            scales := memBlock [] 0 ((bs.drop (mHeadBytes + 1024 * l)).take 1024), band := imgNat bs (0x90 + 2 * l) 2,
            store := memBlock [] 0 ((bs.drop (0x2100 + 16384 * l)).take 16384), bad := [] })
    cells := if imgNat bs 0x80 4 < 4 then none else some (imgNat bs 0x80 4 % 4) }
where
  /-- The group that holds latch l by the type words of the image; none where no typed latch does (log 46). -/
  groupIn (l : Nat) : Nat × Nat :=
    let n (j : Nat) : Nat := let t := imgNat bs (0x40 + 16 * j) 16; if t = 0 then 0 else latchGroup (twFmt t)
    ((List.range (l + 1)).find? fun j => decide (l < j + n j)).elim (0, 0) fun j => (j, n j)

/-- The bytes of a latch's part of an image: block scales, then elements. -/
def MBack.fill (b : MBack) (bs : List Byte) : MBack :=
  { b with latches := b.latches.map fun e => (e.1, { e.2 with
      scales := memBlock [] 0 ((bs.drop (mHeadBytes + 1024 * e.1)).take 1024)
      store := memBlock [] 0 ((bs.drop (0x2100 + 16384 * e.1)).take 16384) }) }

/-- The scratchpad of a core as every write of earlier bundles that is still in flight leaves it. A stalled bundle moves no pipeline (R44), so what
MRESUME reads after those writes (R334) is read through them (log 48). -/
def landed (s : State) (core : Nat) : State :=
  let put (t : State) (fl : Flight) : State := match fl.upd with
    | some (.spad o n v) => coreStore t core o (natBytes n v)
    | _ => t
  let all (t : State) (fs : List Flight) : State := (List.range 64).foldl (fun t d => (fs.filter fun fl => fl.left == d).foldl put t) t
  all (all s (coreOf s core).ctx.inflight) (coreOf s core).ctx.trapCap

/-- MRESUME: header and records are read and checked at issue, and it becomes the queue's head (R212). Its number leaves room below for the commands
that it restores (R209). -/
def execMresume (a : Nat) (s : State) : Host.Outcome State Fault Refusal :=
  perform s (do
    let r := tileOf (ctx s) a
    mBefore s (tileRange r false)
    if !(ctx s).mq.isEmpty then stopStall .queue
    let e ← saveTile s 1 r
    let now := landed s s.focus
    match (viewOf s.focus ⟨r.tw, r.bd⟩).bad now 0 mHeadBytes with
    | some pa => stopError pa pa
    | none => pure ()
    let bs := coreLoad now s.focus (bdOff r.bd) mHeadBytes
    match mImageBad s bs with
    | some o => stopFault 5 o
    | none => pure ()
    let im := mOfImage bs
    noClash s (im.cmds.flatMap mRanges)
    touchRanges s (im.cmds.flatMap mRanges)
    im.cmds.forM fun c => (c.ops.forM fun o => banksHeld s o.bd)
    pure [.act (.mback im), .mcmd { mCmd s (.mresume a) [⟨0, 0⟩, capture r e, ⟨0, 0⟩, ⟨0, 0⟩] PCtx.empty with num := 8192 }])

end Sys2Proof.Machine
end

