-- ==== Sys2Proof/Machine/MatrixRun.lean ====
section
/-! DEFINITION. The matrix array at work: one row of each command, the sums of R126-R128, start and completion (R197), stopping (R210, R211),
migration and recall (R214, R215) and the windows of duet mode (R217). -/

namespace Sys2Proof.Machine

/-! ### Latch storage (R194, R209) -/

/-- Bytes of a latch group from a byte offset on. -/
def latchLoad (ls : Nat → LatchSt) (l o : Nat) : Nat → List Byte
  | 0 => []
  | n + 1 => memGet (ls (l + o / 16384)).store (o % 16384) :: latchLoad ls l (o + 1) n

/-- The code of element (k, n) of a group. -/
def latchCode (ls : Nat → LatchSt) (l fmt k n : Nat) : Nat :=
  let w := fmtWidth fmt
  let bit := (k * 128 + n) * w
  bytesNat (latchLoad ls l (bit / 8) ((bit % 8 + w + 7) / 8)) / 2 ^ (bit % 8) % 2 ^ w

/-- Bytes written into a latch group at a byte offset; a row may cross from one latch to the next. -/
def latchStore (x : Ctxt) (l o : Nat) (bs : List Byte) : Ctxt :=
  let put (y : Ctxt) (j a : Nat) (b : List Byte) : Ctxt :=
    let o := latchOf y j
    let whole (g : Nat) : Bool := decide (a ≤ g) && decide (g + 8 ≤ a + b.length)
    if b.isEmpty then y
    else { y with latches := mput j { o with store := memBlock o.store a b, bad := o.bad.filter fun g => !whole g } y.latches }
  let j := l + o / 16384
  let n := 16384 - o % 16384
  put (put x j (o % 16384) (bs.take n)) (j + 1) 0 (bs.drop n)

/-- The code of one element of a group written: other bits of its bytes unchanged. -/
def latchPutAt (x : Ctxt) (l fmt k n code : Nat) : Ctxt :=
  let w := fmtWidth fmt
  let bit := (k * 128 + n) * w
  let len := (bit % 8 + w + 7) / 8
  latchStore x l (bit / 8) (natBytes len (patchBits (bytesNat (latchLoad (latchOf x) l (bit / 8) len)) (bit % 8) w code))

/-- One row of codes written into a group: columns 0 up, other bits of its bytes unchanged. -/
def latchPutRow (x : Ctxt) (l fmt k : Nat) (codes : List Nat) : Ctxt :=
  let w := fmtWidth fmt
  let o := k * 16 * w
  let n := (codes.length * w + 7) / 8
  let old := bytesNat (latchLoad (latchOf x) l o n)
  latchStore x l o (natBytes n (old - old % 2 ^ (codes.length * w) + packElts w codes))

/-- The place of an element's block scale in LSCALE: by line, then block, without gaps; R209 gives the size of LSCALE alone (log 112). -/
def latchBlkAt (col : Bool) (kExt nExt b k n : Nat) : Nat :=
  if col then n * ceilDiv kExt b + k / b else k * ceilDiv nExt b + n / b

/-- The latches a command reads: those it carried to another array, else its home's. -/
def latchesOf (x : Ctxt) (c : MCmd) : Nat → LatchSt := fun j =>
  if c.latch.isEmpty then latchOf x j else mget LatchSt.empty j c.latch

/-! ### The sums (R126-R128, R401) -/

/-- The node format: none where the tree is exact (R127). -/
def nodeFmt (afmt asc lfmt lsc dfmt : Nat) : Option FloatFmt :=
  let ue (sc : Nat) : Bool := scBlock sc != 0 && scBfmt sc == 1
  if fmtIsInt afmt || (decide (fmtPlanes afmt ≤ 4) && decide (fmtPlanes lfmt ≤ 4) && !ue asc && !ue lsc) then none
  else if dfmt = 0x13 then some fmtNode70 else some fmtNode33

/-- One level of the pairwise tree. -/
def treeLevel (node : Option FloatFmt) : List FV → List FV × Word
  | a :: b :: r =>
    let s := fvSum false [a, b]
    let n := match node with | some f => roundFloat f 0 s.1 | none => (s.1, 0#64)
    let t := treeLevel node r
    (n.1 :: t.1, s.2 ||| n.2 ||| t.2)
  | l => (l, 0)

/-- The levels of the tree in turn. -/
def treeLevels (node : Option FloatFmt) : Nat → List FV → List FV × Word
  | 0, l => (l, 0)
  | n + 1, l =>
    let a := treeLevel node l
    let b := treeLevels node n a.1
    (b.1, a.2 ||| b.2)

/-- The flags that the array sets (R128). -/
def arrayFlags : Word := flagInvalid ||| flagOver ||| flagSat

/-- T of R126 from at most 64 leaves. -/
def treeSum (node : Option FloatFmt) (leaves : List FV) : FV × Word :=
  let r := treeLevels node 6 (leaves ++ List.replicate (64 - leaves.length) fvZero)
  (r.1.headD fvZero, r.2)

/-- Products with their flags, in order. -/
def fvMuls (x : FV) (ys : List FV) : FV × Word := ys.foldl (fun a y => let r := fvMul a.1 y; (r.1, a.2 ||| r.2)) (x, 0)

/-- One output element (R126): the leaves' factors, the bands, the terms added exactly one after the other, the accumulator format. R128 names
infinity times zero in a leaf; the model takes a band times T the same way, to a quiet NaN with INVALID (log 44). -/
def mmaElement (node : Option FloatFmt) (neg : Bool) (as ls : List (FV × Option FV)) (bands terms : List FV) (dfmt : Nat) : Nat × Word :=
  let leaf (p : (FV × Option FV) × (FV × Option FV)) : FV × Word :=
    let a := fvMuls p.1.1 p.1.2.toList
    let l := fvMuls p.2.1 p.2.2.toList
    let m := fvMul (if neg then fvNeg a.1 else a.1) l.1
    (m.1, a.2 ||| l.2 ||| m.2)
  let lf := (as.zip ls).map leaf
  let t := treeSum node (lf.map Prod.fst)
  let x := fvMuls t.1 bands
  let y := terms.foldl (fun a d => let r := fvSum false [a.1, d]; (r.1, a.2 ||| r.2)) (x.1, 0#64)
  let r := encodeElt dfmt 0 y.1
  (r.1, (lf.foldl (fun f p => f ||| p.2) (t.2 ||| x.2 ||| y.2 ||| r.2)) &&& arrayFlags)

/-! ### One row of each command -/

/-- The bytes of the tile that an element and its scales lie in. -/
def TileView.spans (v : TileView) (i : List Nat) : List (Nat × Nat) :=
  ((v.fields [(i, 0)]).map fun f => (f.1 / 8, (f.1 % 8 + f.2.1 + 7) / 8)) ++
  (if scBlock (twScale v.w) = 0 then [] else [(v.blkAt i, 1)]) ++ (if scBand (twScale v.w) then [(v.bandAt (i.getD 0 0), 2)] else [])

/-- The first uncorrectable error among the bytes of elements and their scales (R198). -/
def TileView.badAt (v : TileView) (s : State) (is : List (List Nat)) : Option Nat :=
  is.findSome? fun i => (v.spans i).findSome? fun p => v.bad s p.1 p.2

/-- An uncorrectable error that stops a matrix command: at a physical address, in a latch of its home, or in the SRAM of the array that runs it
(R198, R402). -/
inductive MStop where
  | mem (pa : Nat)
  | latch (l : Nat)
  | array
  deriving DecidableEq, Repr

/-- What one row did: the state and the flags. A row reads tiles as the state `rd` has them. -/
abbrev RowRes := State × Word

/-- A core's running context replaced. -/
def setCtxOf (s : State) (core : Nat) (x : Ctxt) : State := setCoreOf s core { coreOf s core with ctx := x }

/-- Row k of MLATCH (R199). -/
def rowMlatch (s rd : State) (home : Nat) (c : MCmd) (k : Nat) : RowRes :=
  let v := viewOf home (mOp c 1)
  let l := fld c.word 14 2
  let n := v.ext 1
  let is := (List.range n).map fun j => [k, j]
  let x := latchPutRow (coreOf s home).ctx l v.fmt k (is.map (v.code rd))
  let st := latchOf x l
  let col := v.layout == 1
  let b := scBlock (twScale v.w)
  let scales :=
    if b = 0 then st.scales
    else is.foldl (fun m i => memSet (latchBlkAt col (v.ext 0) n b k (i.getD 1 0)) (BitVec.ofNat 8 ((v.blk rd i).getD 0)) m) st.scales
  let at' := if b = 0 then [] else is.map fun i => 16384 + latchBlkAt col (v.ext 0) n b k (i.getD 1 0)
  let whole (g : Nat) : Bool := (List.range 8).all fun j => at'.contains (g + j)
  let st' : LatchSt := { st with scales := scales, band := (v.band rd 0).getD st.band, bad := st.bad.filter fun g => !whole g }
  (setCtxOf s home { x with latches := mput l st' x.latches }, 0)

/-- The members that latch row p takes, in the order of the captured context, with their places in the source (R200, R240). -/
def xMembers (x : Ctxt) (c : MCmd) (p : Nat) : List (Nat × Nat × Nat) :=
  let n := twExt (mOp c 1).tw.toNat 0
  let g := { c.ctx with total := c.ctx.outcur + n }
  ((pctxTake x.pgMem g n).mapIdx fun i rc => (i, rc)).filter fun m => m.2.1 == p

/-- Latch row p of MLATCH.X; the first one clears the group's elements (R200). An INT1 element is cleared to code 0, which stands for -1: the format
has no integer 0 (R115, log 111). -/
def rowMlatchX (s rd : State) (home : Nat) (c : MCmd) (p : Nat) : RowRes :=
  let v := viewOf home (mOp c 1)
  let l := fld c.word 14 2
  let x0 := (coreOf s home).ctx
  let lt := (mOp c 2).tw.toNat
  let x := if p = 0 then (List.range (twExt lt 0)).foldl (fun y k => latchPutRow y l v.fmt k (List.replicate (twExt lt 1) 0)) x0 else x0
  (setCtxOf s home ((xMembers x c p).foldl (fun y m => latchPutAt y l v.fmt m.2.1 m.2.2 (v.code rd [m.1])) x), 0)

/-- The first latch of a group with an uncorrectable error among the first n columns of its first k rows (R373, R402). -/
def groupBad (s : State) (home : Nat) (ls : Nat → LatchSt) (l fmt k n : Nat) : Option Nat :=
  let w := fmtWidth fmt
  (List.range k).findSome? fun i => latchBad s home ls (16384 * l + 16 * w * i) ((n * w + 7) / 8)

/-- Whether a latch holds an error under the block scales of those columns, or under its band scale (R402). -/
def scalesBad (ls : Nat → LatchSt) (l lw k n : Nat) : Bool :=
  let bad := (ls l).bad.filter (16384 ≤ ·)
  let b := scBlock (twScale lw)
  let at' (i j : Nat) : Nat := 16384 + latchBlkAt (twLayout lw == 1) (twExt lw 0) (twExt lw 1) b i j
  !bad.isEmpty && ((b != 0 && (List.range k).any fun i => (List.range n).any fun j => bad.any fun g => overlaps g 8 (at' i j) 1) ||
    (scBand (twScale lw) && bad.any fun g => overlaps g 8 17408 2))

/-- The elements of row m of A with their block scales: the left factors of MMA's leaves (R126). -/
def mmaLeft (rd : State) (home : Nat) (c : MCmd) (m : Nat) : List (FV × Option FV) :=
  let a := viewOf home (mOp c 1)
  (List.range (twExt (mOp c 2).tw.toNat 0)).map fun k =>
    (decodeElt a.fmt (a.code rd [m, k]), (a.blk rd [m, k]).map (decodeElt (scaleFmt (twScale a.w))))

/-- The elements of column j of the latch with their block scales: the right factors (R126). -/
def mmaRight (s : State) (home : Nat) (c : MCmd) (j : Nat) : List (FV × Option FV) :=
  let lw := (mOp c 2).tw.toNat
  let l := fld c.word 14 2
  let kn := twExt lw 0
  let b := scBlock (twScale lw)
  let ls := latchesOf (coreOf s home).ctx c
  (List.range kn).map fun k =>
    (decodeElt (twFmt lw) (latchCode ls l (twFmt lw) k j),
     if b = 0 then none
     else some (decodeElt (scaleFmt (twScale lw)) (memGet (ls l).scales (latchBlkAt (twLayout lw == 1) kn (twExt lw 1) b k j)).toNat))

/-- Element (m, j) of MMA's result with its flags, `as` the left factors of the row: the bands of A and of the latch, then D and C as they are asked
for (R126, R203). -/
def mmaCode (s rd : State) (home : Nat) (c : MCmd) (as : List (FV × Option FV)) (m j : Nat) : Nat × Word :=
  let a := viewOf home (mOp c 1)
  let d := viewOf home (mOp c 0)
  let lw := (mOp c 2).tw.toNat
  let bands := ((a.band rd m).map (decodeElt 0x0F)).toList ++
    (if scBand (twScale lw) then [decodeElt 0x0F (latchesOf (coreOf s home).ctx c (fld c.word 14 2)).band] else [])
  let terms := (if fld c.word 0 1 = 1 then [decodeElt d.fmt (d.code s [m, j])] else []) ++
    (if fld c.word 2 1 = 1 then [decodeElt d.fmt ((viewOf home (mOp c 3)).code rd [m, j])] else [])
  mmaElement (nodeFmt a.fmt (twScale a.w) (twFmt lw) (twScale lw) d.fmt) (fld c.word 1 1 == 1) as (mmaRight s home c j) bands terms d.fmt

/-- Row m of MMA (R126, R203). -/
def rowMma (s rd : State) (home : Nat) (c : MCmd) (m : Nat) : RowRes :=
  let d := viewOf home (mOp c 0)
  let n := d.ext 1
  let out := (List.range n).map (mmaCode s rd home c (mmaLeft rd home c m) m)
  (d.put s (((List.range n).map fun j => [m, j]).zip (out.map Prod.fst)), out.foldl (fun f p => f ||| p.2) 0)

/-- Unit u of MZERO (R206, R213). -/
def rowMzero (s : State) (home : Nat) (c : MCmd) (u : Nat) : RowRes :=
  let v := viewOf home (mOp c 0)
  (v.putBytes s (512 * u) (natBytes (min 512 (needBytes v.w v.e - 512 * u)) 0), 0)

/-- Line l of MTRANS, from the element that COL counts up to `hi` (R207, R213). -/
def rowMtrans (s rd : State) (home : Nat) (c : MCmd) (l hi : Nat) : RowRes :=
  let d := viewOf home (mOp c 0)
  let a := viewOf home (mOp c 1)
  (d.put s ((((List.range d.run).map (d.at l)).filter (d.within c.col hi)).map fun i => (i, a.code rd (swap01 i))), 0)

/-- Line l of MCAST, from the element that COL counts up to `hi`; the line converts as a whole, and its scales are written with each part (R208, R213,
log 4). -/
def rowMcast (s rd : State) (home : Nat) (c : MCmd) (l hi : Nat) : RowRes :=
  let d := viewOf home (mOp c 0)
  let a := viewOf home (mOp c 1)
  if bitForBit a.fmt (twScale a.w) a.layout d.fmt (twScale d.w) d.layout then (d.putBits s l (a.code rd) (a.blk rd) (a.band rd) c.col hi, 0)
  else d.putLine s l (fld c.word 9 3) (a.band rd) (((List.range d.run).map (d.at l)).map (a.val rd)) c.col hi

/-- The elements of a line of MTRANS or MCAST. -/
def mRun (c : MCmd) : Nat := if fld c.word 26 6 = 5 ∨ fld c.word 26 6 = 6 then (viewOf 0 (mOp c 0)).run else 0

/-- One row, unit or line of a command, of a line of MTRANS or MCAST the elements up to `hi`. -/
def mRow (s rd : State) (home : Nat) (c : MCmd) (r hi : Nat) : RowRes :=
  match fld c.word 26 6 with
  | 1 => rowMlatch s rd home c r
  | 2 => rowMlatchX s rd home c r
  | 3 => rowMma s rd home c r
  | 4 => rowMzero s home c r
  | 5 => rowMtrans s rd home c r hi
  | 6 => rowMcast s rd home c r hi
  | _ => (s, 0)

/-- What row r of a command reads of tiles: each with the indices of its elements; MTRANS reads what COL leaves of the line. -/
def mReads (x : Ctxt) (home : Nat) (c : MCmd) (r : Nat) : List (TileView × List (List Nat)) :=
  let v (j : Nat) : TileView := viewOf home (mOp c j)
  let row (n : Nat) : List (List Nat) := (List.range n).map fun j => [r, j]
  let line : List (List Nat) := (List.range (v 0).run).map ((v 0).at r)
  match fld c.word 26 6 with
  | 1 => [(v 1, row ((v 1).ext 1))]
  | 2 => [(v 1, (xMembers x c r).map fun m => [m.1])]
  | 3 => [(v 1, row (twExt (mOp c 2).tw.toNat 0))] ++ (if fld c.word 0 1 = 1 then [(v 0, row ((v 0).ext 1))] else []) ++
      (if fld c.word 2 1 = 1 then [(v 3, row ((v 0).ext 1))] else [])
  | 5 => [(v 1, (line.filter fun i => decide (c.col ≤ i.getD (v 0).contig 0)).map swap01)]
  | 6 => [(v 1, line)]
  | _ => []

/-- The first error that row r meets, in a tile or in the latches that it reads; the row then writes nothing (R198, R402). -/
def mRowBad (s : State) (home : Nat) (c : MCmd) (r : Nat) : Option MStop :=
  let x := (coreOf s home).ctx
  (((mReads x home c r).findSome? fun p => p.1.badAt s p.2).map MStop.mem).or
    (if fld c.word 26 6 = 3 then
      let l := fld c.word 14 2
      let lw := (mOp c 2).tw.toNat
      let n := (viewOf home (mOp c 0)).ext 1
      ((groupBad s home (latchesOf x c) l (twFmt lw) (twExt lw 0) n).or
        (if scalesBad (latchesOf x c) l lw (twExt lw 0) n then some l else none)).map MStop.latch
    else none)

/-- The units that a command goes on to read as they stood: those that a row of it had read of before they were written (R258). -/
def mHeld (x : Ctxt) (home : Nat) (c : MCmd) : MCmd :=
  let n := c.rows + (if c.col = 0 then 0 else 1)
  { c with old := c.old.filter fun u => (List.range n).any fun r => (mReads x home { c with col := 0 } r).any fun p => p.2.any fun i =>
      (p.1.spans i).any fun q => overlaps (p.1.off + q.1) q.2 u.1 u.2.length }

/-- Flags of engine work gathered in STICKY (R111, R124, R128). -/
def stickyOf (s : State) (core : Nat) (f : Word) : State :=
  let x := (coreOf s core).ctx
  setCtxOf s core { x with sticky := stickySet x.sticky f }

/-- The core whose array runs a command: a neighbour's, its home's, or in duet mode the owner's (R215, R217). -/
def arrayFor (s : State) (home : Nat) (c : MCmd) : Nat := c.away.getD (arrayOf s home).1

/-- The rest of the row at which a command stands, of a line of MTRANS or MCAST up to `hi`: the state with its flags set and the command with its
counters past it, or the error met (R198, R213, R402). -/
def mRowTo (s : State) (home : Nat) (c : MCmd) (hi : Nat) : Except MStop (State × MCmd) :=
  let x := (coreOf s home).ctx
  let c := mHeld x home c
  if engineBad s (arrayFor s home c) 0 then .error .array
  else match mRowBad s home c c.rows with
    | some e => .error e
    | none =>
      let k := mRow s (asRead s home c.old) home c c.rows hi
      let took := if fld c.word 26 6 = 2 then (xMembers x c c.rows).length else 0
      .ok (stickyOf k.1 home k.2, if hi < mRun c then { c with col := hi } else { c with rows := c.rows + 1, col := 0, depth := c.depth + took })

/-- One row of a command, to its end. -/
def mNextRow (s : State) (home : Nat) (c : MCmd) : Except MStop (State × MCmd) := mRowTo s home c (mRun c)

/-- At most n further rows: the state, the command as it then stands, the error met. -/
def mRows (home : Nat) : Nat → State → MCmd → State × MCmd × Option MStop
  | 0, s, c => (s, c, none)
  | n + 1, s, c =>
    match mNextRow s home c with
    | .error e => (s, c, some e)
    | .ok r => mRows home n r.1 r.2

/-- The self-test that an error met by a matrix command starts (R372, log 97). -/
def mMet (s : State) (home : Nat) (c : MCmd) : MStop → State
  | .mem pa => errorMet s pa
  | .latch l => unitMet s ⟨8, home, l⟩
  | .array => unitMet s ⟨4, arrayFor s home c, 0⟩

/-- FAULTINFO of an error that a matrix command meets: its physical address; free where it has none (R198, log 97). -/
def mStopInfo (s : State) : MStop → Nat
  | .mem pa => pa
  | _ => (freeOf s 2).toNat

/-! ### The queue of a core -/

/-- The queue of a core's running context, replaced. -/
def setMq (s : State) (core : Nat) (q : List MCmd) : State :=
  setCtxOf s core { (coreOf s core).ctx with mq := q }

/-- Latches of the group that a command fills. -/
def mFills (c : MCmd) : Option (Nat × Nat) :=
  if fld c.word 26 6 = 1 ∨ fld c.word 26 6 = 2 then some (fld c.word 14 2, latchGroup (twFmt (mOp c 2).tw.toNat)) else none

/-- The cells after a command has run (R203): kept with .hold, no longer loaded when their latch was filled. -/
def cellsAfter (x : Ctxt) (c : MCmd) : Option Nat :=
  let l := fld c.word 14 2
  match fld c.word 26 6 with
  | 3 => if fld c.word 4 1 = 1 then some l else none
  | 1 | 2 =>
    match x.cells with
    | some k =>
      let g := if (latchOf x k).tw = 0#128 then 1 else latchGroup (twFmt (latchOf x k).tw.toNat)
      if latchMeets k g l (latchGroup (twFmt (mOp c 2).tw.toNat)) then none else some k
    | none => none
  | _ => x.cells

/-- The place of the command that runs on the home array, and of the one that runs on a given neighbour. -/
def mRunning (q : List MCmd) : Option Nat := q.findIdx? fun c => c.running && c.away.isNone
def mAwayAt (q : List MCmd) (n : Nat) : Option Nat := q.findIdx? fun c => c.away == some n

/-- Tests of matrix arrays that wait begin where the queue of every core that feeds the array is empty (R217, R372). -/
def arrayRest (s : State) : State :=
  let rests (t : SelfTest) : Bool := t.kind / 2 == 2 && (coreOf s t.core).foreign.isNone &&
    s.cores.all fun e => (arrayOf s e.1).1 != t.core || e.2.ctx.mq.isEmpty
  (s.house.due.filter rests).foldl testBegin { s with house := { s.house with due := s.house.due.filter fun t => !rests t } }

/-- A command of a home queue runs to its end: its ranges clear; an error leaves a DATAERR for its point (R197, R198). -/
def mFinish (s : State) (home idx : Nat) : State :=
  match (coreOf s home).ctx.mq[idx]? with
  | none => s
  | some c =>
    let r := mRows home (mTotal c - c.rows) s c
    let x := (coreOf r.1 home).ctx
    let x' : Ctxt := { x with
      mq := x.mq.eraseIdx idx
      cells := if c.away.isNone then cellsAfter x c else x.cells
      matErrs := match r.2.2 with
        | some e => x.matErrs ++ [⟨mStopInfo r.1 e, (mRanges c).map fun g => (g.off, g.len, if g.write then 1 else 0)⟩]
        | none => x.matErrs }
    let s' := setCtxOf r.1 home x'
    arrayRest (match r.2.2 with | some e => mMet s' home c e | none => s')

/-- A running command stops at a row boundary: the rows that have entered are written, and it stands stopped with its counter (R210). The
row is free (log 4), but a line that has begun ends. An error met on the way ends the command (R198). -/
def mHalt (s : State) (home idx : Nat) : State :=
  match (coreOf s home).ctx.mq[idx]? with
  | none => s
  | some c =>
    let r := mRows home (max (freeBelow s 0 (mTotal c - c.rows)) (if c.col = 0 then 0 else 1)) (useOne s) c
    match r.2.2 with
    | some _ => mFinish s home idx
    | none => setMq r.1 home ((coreOf r.1 home).ctx.mq.set idx { r.2.1 with running := false, away := none, latch := [] })

/-- The command that the array of a core runs, a neighbour's or its own, does one row, or a free part of its line; its last is left to its completion
(R213, log 4). -/
def mRowTurn (s : State) (core : Nat) : State :=
  let at' : Option (Nat × Nat) := match (coreOf s core).foreign with
    | some (home, _) => (mAwayAt (coreOf s home).ctx.mq core).map fun i => (home, i)
    | none => (mRunning (coreOf s core).ctx.mq).map fun i => (core, i)
  match at' with
  | none => s
  | some (home, i) => match (coreOf s home).ctx.mq[i]? with
    | none => s
    | some c =>
      let hi := if mRun c = 0 then 0 else c.col + freeBelow s 0 (mRun c - c.col) + 1
      if mTotal c ≤ c.rows + 1 && decide (mRun c ≤ hi) then s
      else match mRowTo s home c hi with
        | .error _ => mFinish s home i
        | .ok r => setMq r.1 home ((coreOf r.1 home).ctx.mq.set i r.2)

/-- A command leaves a neighbour's array and stands at its place of the home queue, or at the head, behind the one that runs (R209, R215). -/
def mRecallTo (head : Bool) (s : State) (n : Nat) : State :=
  match (coreOf s n).foreign with
  | none => s
  | some (home, _) =>
    let s1 := setCoreOf s n { coreOf s n with foreign := none }
    match mAwayAt (coreOf s1 home).ctx.mq n with
    | none => s1
    | some i =>
      let len := (coreOf s1 home).ctx.mq.length
      let s2 := mHalt s1 home i
      let q := (coreOf s2 home).ctx.mq
      if q.length < len || !head then s2
      else match q[i]? with
        | none => s2
        | some c =>
          let rest := q.eraseIdx i
          let k := match mRunning rest with | some j => j + 1 | none => 0
          setMq s2 home (rest.take k ++ c :: rest.drop k)

/-- A recall: the command goes to the head of its home queue (R215). -/
def mRecall (s : State) (n : Nat) : State := mRecallTo true s n

/-- Every command of a core that runs on a neighbour is recalled, each to its place in program order, as an image lists them (R209, R211). -/
def mRecallAll (s : State) (core : Nat) : State :=
  ((coreOf s core).ctx.mq.filterMap (·.away)).foldl (mRecallTo false) s

/-- A core's commands stop: what runs elsewhere comes back, what runs here stops at a row boundary (R211). -/
def mHaltAll (s : State) (core : Nat) : State :=
  let s1 := mRecallAll s core
  match mRunning (coreOf s1 core).ctx.mq with
  | some i => mHalt s1 core i
  | none => s1

/-- The size of the image (R209). -/
def mImageBytes : Nat := 73984

/-- The place of a queue's first MSAVE or MRESUME. -/
def mService (q : List MCmd) : Option Nat := q.findIdx? fun c => decide (7 ≤ fld c.word 26 6)

/-- An MSAVE or MRESUME that met an error leaves the queue, and a DATAERR for its point (R198). -/
def mDrop (s : State) (core i : Nat) (c : MCmd) (e : MStop) : State :=
  let x := (coreOf s core).ctx
  mMet (setCtxOf s core { x with
    mq := x.mq.eraseIdx i
    mback := if fld c.word 26 6 = 8 then none else x.mback
    matErrs := x.matErrs ++ [⟨mStopInfo s e, (mRanges c).map fun g => (g.off, g.len, if g.write then 1 else 0)⟩] }) core c e

/-- A write to the scratchpad that was in flight when n bytes from an offset were written over it, as it lands now (R334). -/
def landsUnder (s : State) (core off n : Nat) (fl : Flight) : Flight :=
  match fl.upd with
  | some (.spad o k v) =>
    let byte (i : Nat) : Byte := if off ≤ o + i ∧ o + i < off + n then ((coreLoad s core (o + i) 1).headD 0) else BitVec.ofNat 8 (v / 2 ^ (8 * i))
    { fl with upd := some (.spad o k (bytesNat ((List.range k).map byte))) }
  | _ => fl

/-- MSAVE runs: the commands before it stop, the image with them is written, and they leave the queue; an error in the latches' storage ends it
without an image, and they stay (R198, R211, R402, logs 48, 97). -/
def mSave (s : State) (core : Nat) : State :=
  let s1 := mHaltAll s core
  let x := (coreOf s1 core).ctx
  match mService x.mq with
  | none => s1
  | some i => match x.mq[i]? with
    | none => s1
    | some c => match latchSick s1 core (latchOf x) with
      | some l => mDrop s1 core i c (.latch l)
      | none =>
        let off := bdOff (mOp c 0).bd
        let s2 := coreStore s1 core off (mImage x (x.mq.take i))
        setCtxOf s2 core { x with
          mq := x.mq.drop (i + 1)
          inflight := x.inflight.map (landsUnder s2 core off mImageBytes)
          trapCap := x.trapCap.map (landsUnder s2 core off mImageBytes) }

/-- MRESUME runs: latches and cells are loaded, and the restored commands stand at the head of the queue (R212). The 2,048 cycles of R214 count anew
from here: it says no more than since the command issued (log 106). -/
def mResume (s : State) (core i : Nat) (c : MCmd) : State :=
  let v := viewOf core (mOp c 1)
  let k := coreOf s core
  let now := landed s core
  match v.bad now mHeadBytes (mImageBytes - mHeadBytes) with
  | some pa => mDrop s core i c (.mem pa)
  | none =>
    let b := (k.ctx.mback.getD ⟨[], [], none⟩).fill (coreLoad now core v.off mImageBytes)
    setCtxOf s core { k.ctx with
      latches := b.latches
      cells := b.cells
      mback := none
      mq := k.ctx.mq.take i ++ b.cmds.map (fun k' => { k' with issuedAt := k.cycles }) ++ k.ctx.mq.drop (i + 1) }

/-- The first MSAVE or MRESUME of a core's queue runs. -/
def mServe (s : State) (core : Nat) : State :=
  let q := (coreOf s core).ctx.mq
  match mService q with
  | none => s
  | some i => match q[i]? with
    | none => s
    | some c => arrayRest (if fld c.word 26 6 = 7 then mSave s core else mResume s core i c)

/-- A core's engine is stopped for a curtain: each MSAVE and MRESUME in its queue runs first, and the other commands stop (R211, R212, R361). -/
def mStop (s : State) (core : Nat) : State :=
  mHaltAll ((List.range (coreOf s core).ctx.mq.length).foldl (fun st _ => mServe st core) s) core

/-! ### Start, completion, duet mode -/

/-- Whether a core's array may take a command of that core now: no foreign command, its own window in duet mode (R215, R217), and a core that is
not stopped (R349), and an array in service (R373). -/
def arrayFree (s : State) (core : Nat) : Bool :=
  let a := arrayOf s core
  let c := coreOf s core
  !coreDown c && c.foreign.isNone && !arrayFailed s a.1 && ((duetPartner s core).isNone || (coreOf s a.1).duetSide == a.2) &&
    (match duetPartner s core with | some p => (mRunning (coreOf s p).ctx.mq).isNone | none => true)

/-- Whether every sequencer write to a range that a command reads has landed (R334). -/
def mLanded (x : Ctxt) (c : MCmd) : Bool :=
  !landsFirst x (mRanges c ++ if fld c.word 26 6 = 3 ∧ fld c.word 0 1 = 1 then opRange (mOp c 0) false else [])

/-- Whether no older command that runs on a neighbour reads the latches that a command fills: the array does not start the fill before, so that
a recalled command finds its latch as it was (R204, R215; log 49). -/
def latchSafe (older : List MCmd) (c : MCmd) : Bool :=
  match mFills c with
  | some f => older.all fun o => o.away.isNone || !latchMeets (fld o.word 14 2) (latchGroup (twFmt (mOp o 2).tw.toNat)) f.1 f.2
  | none => true

/-- The place of the next command to start: the first that is neither away nor stopped behind another, its operands landed (R197, R334); none while an
MSAVE or MRESUME is in the queue (R211, R212). -/
def mNext (s : State) (core : Nat) : Option Nat :=
  let x := (coreOf s core).ctx
  if arrayFree s core && (mService x.mq).isNone then
    match x.mq.findIdx? fun c => c.away.isNone with
    | some i => match x.mq[i]? with
      | some c => if c.running || !mLanded x c || !latchSafe (x.mq.take i) c then none else some i
      | none => none
    | none => none
  else none

/-- M_COMMAND_START performed: the command runs, its latch in the cells (R197, R203); its data may fill a bad granule of the array (R402). -/
def mStart (s : State) (core : Nat) : State :=
  match mNext s core with
  | none => s
  | some i =>
    let x := (coreOf s core).ctx
    match x.mq[i]? with
    | none => s
    | some c =>
      setCtxOf (sramFill s (arrayOf s core).1 0) core { x with
        mq := x.mq.set i { c with started := true, running := true }
        cells := if fld c.word 26 6 = 3 then some (fld c.word 14 2) else x.cells }

/-- M_COMMAND_START (R197). -/
def execMCommandStart (core : Nat) (s : State) : Host.Outcome State Fault Refusal :=
  if core < Config.cores then .next (mStart s core) else .fault (.noSuchAgent core)

/-- Whether an MSAVE or MRESUME of a core can run now: the core is not stopped (R349). -/
def mServes (s : State) (core : Nat) : Bool := !coreDown (coreOf s core) && (mService (coreOf s core).ctx.mq).isSome

/-- What the array of a core runs completes: an MSAVE or MRESUME of its queue, a neighbour's command, which is counted as executed for it, or its own
(R112, R197, R211, R212, R215). -/
def mComplete (s : State) (core : Nat) : State :=
  if mServes s core then mServe s core
  else match (coreOf s core).foreign with
  | some (home, _) =>
    let s1 := setCoreOf s core (countEvent { coreOf s core with foreign := none } 0x0B)
    match mAwayAt (coreOf s1 home).ctx.mq core with
    | some i => mFinish s1 home i
    | none => s1
  | none => match mRunning (coreOf s core).ctx.mq with
    | some i => mFinish s core i
    | none => s

/-- M_COMMAND_COMPLETE (R197). -/
def execMCommandComplete (core : Nat) (s : State) : Host.Outcome State Fault Refusal :=
  if core < Config.cores then .next (mComplete s core) else .fault (.noSuchAgent core)

/-- The window of duet mode by the owner's CYCLES: at a change the running command of the side whose window ended stops, and the cells load
again (R217). -/
def duetTick (s : State) (core : Nat) : State :=
  match duetPartner s core with
  | none => s
  | some p =>
    let a := (arrayOf s core).1
    let b := if a = core then p else core
    let side := (coreOf s a).cycles / 64 % 2 == 1
    if (coreOf s a).duetSide = side then s
    else
      let s1 := setCoreOf s a { coreOf s a with duetSide := side }
      let ended := if side then a else b
      let s2 := match mRunning (coreOf s1 ended).ctx.mq with | some i => mHalt s1 ended i | none => s1
      let s3 := setCtxOf s2 a { (coreOf s2 a).ctx with cells := none }
      setCtxOf s3 b { (coreOf s3 b).ctx with cells := none }

/-- DUET_WINDOW_SWITCH (R217). -/
def execDuetWindowSwitch (core : Nat) (s : State) : Host.Outcome State Fault Refusal :=
  if core < Config.cores then .next (duetTick s core) else .fault (.noSuchAgent core)

/-! ### Migration -/

/-- Whether a core could take a command of a home (R214, condition 5). -/
def migTarget (s : State) (n : Nat) : Bool :=
  let c := coreOf s n
  coreUsable s n && !arrayFailed s n && !arrayTesting s n && !coreDown c && c.migctl.getLsbD 3 && c.foreign.isNone && c.ctx.mq.isEmpty &&
    !duetOn c.duetctl && !c.ctx.rehearse

/-- MAXAWAY (R216). -/
def maxAway (v : Word) : Nat := min (fld v.toNat 5 3) 4

/-- Whether command i of a home may move (R214, conditions 1 to 4). -/
def migCommand (c : Core) (i : Nat) : Bool :=
  match c.ctx.mq[i]? with
  | none => false
  | some k =>
    let older := c.ctx.mq.take i
    let l := fld k.word 14 2
    let g := latchGroup (twFmt (mOp k 2).tw.toNat)
    fld k.word 26 6 == 3 && fld k.word 3 1 == 1 && !k.running && (mService c.ctx.mq).isNone && mLanded c.ctx k && k.away.isNone && decide (k.issuedAt + 2048 ≤ c.cycles) &&
      decide (4 ≤ (older.filter fun o => o.away.isNone).length) &&
      older.all fun o => match mFills o with | some f => !latchMeets f.1 f.2 l g | none => true

/-- MIGRATION performed: the oldest command that may move goes to the lowest neighbour that takes it, with a copy of its latch group, and is
counted (R112, R214, R215). Its latch is loaded there, and the neighbour's own cells stay as they were, of which R215 says nothing (log 106). -/
def mMigrate (s : State) (core : Nat) : State :=
  let c := coreOf s core
  let dirs := (List.range 4).filter fun d => c.migctl.getLsbD (8 + d)
  let ns := (dirs.filterMap (meshNeighbour core)).filter (migTarget s)
  if coreDown c || !c.migctl.getLsbD 0 || duetOn c.duetctl || c.ctx.rehearse ||
      decide (maxAway c.migctl ≤ (c.ctx.mq.filter fun k => k.away.isSome).length) then s
  else match ns with
    | [] => s
    | n0 :: rest =>
      let n := rest.foldl min n0
      match (List.range c.ctx.mq.length).find? (migCommand c) with
      | none => s
      | some i => match c.ctx.mq[i]? with
        | none => s
        | some k =>
          let k' := { k with started := true, running := true, away := some n, latch := (List.range 4).map fun j => (j, latchesOf c.ctx k j) }
          let s0 := setMq (sramFill s n 0) core (c.ctx.mq.set i k')
          let s1 := setCoreOf s0 core (countEvent (coreOf s0 core) 0x0A)
          setCoreOf s1 n { coreOf s1 n with foreign := some (core, k') }

/-- MIGRATION (R214). -/
def execMigration (core : Nat) (s : State) : Host.Outcome State Fault Refusal :=
  if core < Config.cores then .next (mMigrate s core) else .fault (.noSuchAgent core)

/-- RECALL: the foreign command of a core's array goes home (R215). -/
def execRecall (core : Nat) (s : State) : Host.Outcome State Fault Refusal :=
  if core < Config.cores then .next (mRecall s core) else .fault (.noSuchAgent core)

end Sys2Proof.Machine
end

