-- ==== Sys2Proof/Machine/Tree.lean ====
section
/-! DEFINITION. The token-tree file (R241-R255). -/

namespace Sys2Proof.Machine

/-- The path from the root to a node, the node last: parents precede their children (R243). -/
def treePath (ns : List Node) : Nat → Nat → List Nat
  | 0, _ => []
  | fuel + 1, n => match ns[n]? with
    | some r => if n = 0 then [0] else treePath ns fuel r.parent ++ [n]
    | none => []

/-- The ancestor mask of a node (R243). -/
def treeMask (t : Tree) (n : Nat) : Nat := ((treePath t.nodes 256 n).map (2 ^ ·)).foldl (· + ·) 0

/-- A node of the file; DATAXL where there is none (R247, R248, R250). -/
def treeNode (s : State) (n : Nat) : Except Stop Node :=
  match (ctx s).tree.nodes[n]? with
  | some r => .ok r
  | none => stopFault 5 (0x100 ||| n)

/-- The file changed at the boundary (R245). -/
def treeEff (t : Tree) : Eff := .land 1 (some (.tree t)) none 0

/-- TREE.CLEAR (R246). -/
def execTreeClear (s : State) : Host.Outcome State Fault Refusal := perform s (.ok [treeEff ⟨[], []⟩])

/-- TREE.ROOT (R246). -/
def execTreeRoot (a b : Nat) (s : State) : Host.Outcome State Fault Refusal :=
  perform s (do
    let p ← rdS s 1 a
    let k ← rdS s 2 b
    if 2 ^ 24 ≤ p.toNat then stopFault 12 p.toNat
    pure [treeEff ⟨[⟨0xFF, 0, p.toNat, k.toNat % 2 ^ 32⟩], []⟩])

/-- TREE.ADD (R247). -/
def execTreeAdd (d a n : Nat) (s : State) : Host.Outcome State Fault Refusal :=
  perform s (do
    let k ← rdS s 1 a
    touchReg s d
    let t := (ctx s).tree
    if t.nodes.length = 256 then stopFault 11 n
    let r ← treeNode s n
    if 2 ^ 24 ≤ r.pos + 1 then stopFault 12 (r.pos + 1)
    let es ← outS s 1 d (BitVec.ofNat 64 t.nodes.length) 0
    pure (treeEff { t with nodes := t.nodes ++ [⟨n, r.depth + 1, r.pos + 1, k.toNat % 2 ^ 32⟩] } :: es))

/-- A row that a tree operation writes: latency 2, tagged, no bypass entry (R245). -/
def treeRow (s : State) (d fmt : Nat) (codes : List Nat) : Except Stop Eff := do
  let r ← vecRow s d
  pure (.land 2 (some (.row r (laneRow fmt codes) (some fmt))) none 0)

/-- The bias lanes of mask bits lo..lo+n-1: zero where the bit is set, minus infinity elsewhere (R248). -/
def biasLanes (mask lo n off : Nat) : List Nat := (List.range n).map fun j => if mask.testBit (lo + j) then 0 else off

/-- TREE.MASK.F32 (R248). -/
def execTreeMaskF32 (d n : Nat) (s : State) : Host.Outcome State Fault Refusal :=
  perform s (do
    vecStall s d 0 true
    vecStall s (d + 1) 0 true
    let _ ← treeNode s n
    let m := treeMask (ctx s).tree n
    let a ← treeRow s d 0x12 (biasLanes m 0 128 0xFF800000)
    let b ← treeRow s (d + 1) 0x12 (biasLanes m 128 128 0xFF800000)
    pure [a, b])

/-- TREE.MASK.BF16 (R248). -/
def execTreeMaskBf16 (d n : Nat) (s : State) : Host.Outcome State Fault Refusal :=
  perform s (do
    vecStall s d 0 true
    let _ ← treeNode s n
    let a ← treeRow s d 0x0F (biasLanes (treeMask (ctx s).tree n) 0 256 0xFF80)
    pure [a])

/-- TREE.MASKK (R248). -/
def execTreeMaskk (k n : Nat) (s : State) : Host.Outcome State Fault Refusal :=
  perform s (do
    let _ ← treeNode s n
    pure [.land 2 (some (.kmask k (BitVec.ofNat 512 (treeMask (ctx s).tree n)) 256)) none 0])

/-- Positions of the nodes from an index on, zero where there is no node (R249). -/
def treePositions (t : Tree) (lo : Nat) : List Nat := (List.range 128).map fun i => ((t.nodes[lo + i]?).map (·.pos)).getD 0

/-- TREE.POS.LO (R249). -/
def execTreePosLo (d : Nat) (s : State) : Host.Outcome State Fault Refusal :=
  perform s (do
    vecStall s d 0 true
    let a ← treeRow s d 8 (treePositions (ctx s).tree 0)
    pure [a])

/-- TREE.POS.HI (R249). -/
def execTreePosHi (d : Nat) (s : State) : Host.Outcome State Fault Refusal :=
  perform s (do
    vecStall s d 0 true
    let a ← treeRow s d 8 (treePositions (ctx s).tree 128)
    pure [a])

/-- The tree that keeps the path to a node, with its map (R250). -/
def treePrune (t : Tree) (n : Nat) : Tree :=
  let path := treePath t.nodes 256 n
  let keep (i o : Nat) : Node :=
    let r := t.nodes.getD o ⟨0, 0, 0, 0⟩
    ⟨if i = 0 then 0xFF else i - 1, i, r.pos, r.token⟩
  ⟨path.mapIdx keep, path⟩

/-- The cycles that a prune or load stalls for the masks, once the file has its new state (R250, R254, R255). -/
def treeSpend (t : Tree) : Eff := .act (.spend (treeCycles t))

/-- TREE.PRUNE (R250). -/
def execTreePrune (n : Nat) (s : State) : Host.Outcome State Fault Refusal :=
  perform s (do
    let _ ← treeNode s n
    let t := treePrune (ctx s).tree n
    pure [treeEff t, treeSpend t])

/-- TREE.MAP (R251). -/
def execTreeMap (d : Nat) (s : State) : Host.Outcome State Fault Refusal :=
  perform s (do
    vecStall s d 0 true
    let a ← treeRow s d 7 ((List.range 256).map fun i => (ctx s).tree.map.getD i 0xFFFF)
    pure [a])

/-- The image of a tree (R252). -/
def treeImage (t : Tree) : List Byte :=
  natBytes 4 0x54524545 ++ natBytes 4 1 ++ natBytes 4 t.nodes.length ++ natBytes 4 t.map.length ++ natBytes 48 0 ++
  (List.range 256).map (fun i => BitVec.ofNat 8 (t.map.getD i 0)) ++
  (List.range 256).flatMap fun i => natBytes 16 (match t.nodes[i]? with | some r => nodeWord r | none => 0)

/-- A node record read back, unchecked. -/
def nodeOfWord (w : Nat) : Node := ⟨fld w 64 8, fld w 56 8, fld w 32 24, fld w 0 32⟩

/-- A record of a live node that breaks R242 or R243. -/
def nodeBad (ns : List Node) (i w : Nat) : Bool :=
  let r := nodeOfWord w
  let root := ns.getD 0 r
  w / 2 ^ 72 != 1 || r.pos != root.pos + r.depth ||
  (if i = 0 then r.parent != 0xFF || r.depth != 0 else decide (i ≤ r.parent) || r.depth != (ns.getD r.parent r).depth + 1)

/-- The first field of a tree image that fails R254, by byte offset. -/
def treeImageBad (bs : List Byte) : Option Nat :=
  let q (o n : Nat) : Nat := bytesNat ((bs.drop o).take n)
  let n := q 8 4
  let m := q 0x0C 4
  let node (i : Nat) : Nat := q (0x140 + 16 * i) 16
  let ns := (List.range (min n 256)).map fun i => nodeOfWord (node i)
  if q 0 4 ≠ 0x54524545 then some 0
  else if q 4 4 ≠ 1 then some 4
  else if 256 < n then some 8
  else if n < m then some 0x0C
  else if q 0x10 48 ≠ 0 then some 0x10
  else match (List.range 256).find? fun i => decide (m ≤ i) && q (0x40 + i) 1 != 0 with
    | some i => some (0x40 + i)
    | none => ((List.range 256).find? fun i => if i < n then nodeBad ns i (node i) else node i != 0).map fun i => 0x140 + 16 * i

/-- The tree of a checked image. -/
def treeOfImage (bs : List Byte) : Tree :=
  let q (o n : Nat) : Nat := bytesNat ((bs.drop o).take n)
  ⟨(List.range (q 8 4)).map fun i => nodeOfWord (q (0x140 + 16 * i) 16), (List.range (q 0x0C 4)).map fun i => q (0x40 + i) 1⟩

/-- TREE.SAVE (R253). -/
def execTreeSave (a : Nat) (s : State) : Host.Outcome State Fault Refusal :=
  perform s (do
    let va ← rdS s 1 a
    needData s va.toNat 64
    storeV s va.toNat (treeImage (ctx s).tree))

/-- TREE.LOAD (R254). -/
def execTreeLoad (a : Nat) (s : State) : Host.Outcome State Fault Refusal :=
  perform s (do
    let va ← rdS s 1 a
    loadWait s va.toNat 0x1140
    needData s va.toNat 64
    let bs ← loadV s va.toNat 0x1140
    let notes := readNotes s va.toNat 0x1140
    afterRead notes (match treeImageBad bs with
      | some o => stopFault 5 o
      | none => pure (treeEff (treeOfImage bs) :: treeSpend (treeOfImage bs) :: notes)))

end Sys2Proof.Machine
end

