-- ==== Sys2Proof/Machine/Context.lean ====
section
/-! DEFINITION. The context image of a curtain (R362, R365-R367), what a save and a resume do to a context (R361, R363, R368-R370), and what
an uncorrectable error in the save area costs (R369). -/

namespace Sys2Proof.Machine

/-! ### The image (R366, R367) -/

/-- The physical base of a die's save areas; 0 for none (R365). -/
def saveRoot (s : State) (die : Nat) : Nat := fld (dieOf s die).savebase.toNat 27 14 * 2 ^ 27

/-- The save area of a core and class (R365). -/
def saveArea (s : State) (core cls : Nat) : Nat := saveRoot s (dieOfCore core) + (core % 64 * 8 + cls) * 0x40000

/-- Bytes filled up with zeros to a length. -/
def padTo (n : Nat) (bs : List Byte) : List Byte := (bs ++ natBytes (n - bs.length) 0).take n

/-- A port's record and indices (R174); the four ports stand 128 bytes apart (log 16). -/
def portImage (p : Port) : List Byte :=
  padTo 128 (if p.set then
    natBytes 8 p.base ++ natBytes 4 ((if p.write then 1 else 0) + p.fmt * 2) ++ natBytes 4 0 ++
      ((List.range 4).flatMap fun l => natBytes 4 (p.counts.getD l 0) ++ natBytes 4 (intCode 32 (p.strides.getD l 0))) ++ natBytes 16 0 ++
      (List.range 4).flatMap fun l => natBytes 4 (p.idx.getD l 0)
  else [])

/-- The register block. -/
def regBlock (c : Core) (x : Ctxt) : List Byte :=
  let bit (b : Bool) (n : Nat) : Nat := if b then 2 ^ n else 0
  let w (v : Word) : List Byte := natBytes 8 v.toNat
  let state := bit (x.mode == .stageManager) 0 + bit (live x) 1 + bit (x.cause.getLsbD 63) 2 + bit x.delay.isSome 3 +
    (match x.delay with | some d => d.1 * 2 ^ 4 | none => 0) + bit x.wait.isSome 6 + x.trapCap.length % 128 * 2 ^ 8 +
    x.inflight.length % 128 * 2 ^ 16
  let busy := ((List.range 32).map fun n => bit (c.pend.any fun a => a.dst == n && a.home.isNone && n != 0) n).foldl (· + ·) 0
  let win := (match x.window with | some b => b + 2 ^ 16 | none => 0) + x.wfmt * 2 ^ 11 + x.rot * 2 ^ 20 + heldCount x * 2 ^ 32
  let wait : MarkWait := x.wait.getD ⟨0, 0, 0⟩
  padTo 0x100 (natBytes 4 0x43544E58 ++ natBytes 4 1 ++ natBytes 8 state ++ w x.pc ++
    w (match x.delay with | some d => d.2 | none => 0) ++ w x.cause ++ w x.faultpc ++ w x.faultinfo ++ w x.shapeinfo ++ w x.esave ++ w x.sticky ++
    natBytes 8 (match x.nopre with | some n => 1 + n * 2 ^ 32 | none => 0) ++ natBytes 8 (bit x.rehearse 0) ++ natBytes 8 x.preds.toNat ++
    natBytes 8 win ++ padTo 16 (natBytes 4 wait.home ++ natBytes 4 wait.mark ++ natBytes 4 wait.gen) ++ natBytes 32 x.held.toNat ++
    padTo 16 (x.ens.flatMap (natBytes 2)) ++ natBytes 8 x.ens.length ++ natBytes 8 x.pitTraps.length ++ natBytes 8 busy) ++
  (List.range 32).flatMap (fun n => w (sregOf x n)) ++ (List.range 8).flatMap (fun n => w (bregOf x n)) ++
  (List.range 8).flatMap (fun n => natBytes 64 (kmaskOf x n).1.toNat ++ natBytes 8 (kmaskOf x n).2) ++
  (List.range 32).flatMap (fun n => natBytes 16 (tileOf x n).tw.toNat ++ w (tileOf x n).bd) ++
  (List.range 16).flatMap (fun n => natBytes 8 (dimWord (dimOf x n))) ++ (List.range 4).flatMap (fun z => portImage (portOf x z)) ++
  padTo 0x600 (x.pitTraps.flatMap fun t => natBytes 8 t.code ++ w t.info)

/-- VALUE of a capture entry (R362). -/
def updBytes : Upd → List Byte
  | .sreg _ v => natBytes 8 v.toNat
  | .pred _ v => [if v then 1 else 0]
  | .breg _ v => natBytes 8 v.toNat
  | .kmask _ b n => natBytes 64 b.toNat ++ natBytes 8 n
  | .row _ v _ => natBytes 512 v.toNat
  | .spad _ n v => natBytes n v
  | _ => []

/-- The descriptor of a capture entry: R362 names its fields and gives no layout, so its bytes are free (log 3). -/
def captureDescriptor (s : State) (k : Nat) : List Byte := (List.range 8).flatMap fun i => natBytes 8 (freeOf s (8192 + 8 * k + i)).toNat

/-- A capture of 64 entries. -/
def captureImage (s : State) (from' : Nat) (fs : List Flight) : List Byte :=
  padTo 0x9000 ((fs.mapIdx fun k f =>
    padTo 512 (match f.upd, f.byp with | some u, _ => updBytes u | none, some b => natBytes 512 b.1.toNat | none, none => []) ++
      captureDescriptor s (from' + k)).flatten)

/-- The parts of an image with their offsets; reserved bytes between them are zero. -/
def ctxImage (s : State) (c : Core) (x : Ctxt) : List (Nat × List Byte) :=
  [(0, regBlock c x), (0x1000, captureImage s 0 x.trapCap), (0xA000, captureImage s 64 x.inflight), (0x13000, padTo 0x13000 (mImage x x.mq)),
   (0x26000, padTo 0x2000 (kImage x.kq0)), (0x28000, padTo 0x2000 (kImage x.kq1)),
   (0x2A000, (List.range 256).flatMap fun w => natBytes 4 (mget 0 w x.pgMem)),
   (0x2A400, padTo 0xC00 ((List.range 4).flatMap fun g => pctxImage x.pgMem (pctxOf x g))),
   (0x2B000, padTo 0x1140 (treeImage x.tree))]

/-- A captured value with the bytes that cannot be read as zero. -/
def hurtUpd (f : List Byte → List Byte) : Upd → Upd
  | .sreg n v => .sreg n (BitVec.ofNat 64 (bytesNat (f (natBytes 8 v.toNat))))
  | .pred n v => .pred n (bytesNat (f [if v then 1 else 0]) == 1)
  | .breg n v => .breg n (BitVec.ofNat 64 (bytesNat (f (natBytes 8 v.toNat))))
  | .kmask n b k =>
    let bs := f (natBytes 64 b.toNat ++ natBytes 8 k)
    .kmask n (BitVec.ofNat 512 (bytesNat (bs.take 64))) (bytesNat (bs.drop 64))
  | .row r v t => .row r (BitVec.ofNat 4096 (bytesNat (f (natBytes 512 v.toNat)))) t
  | .spad o n v => .spad o n (bytesNat (f (natBytes n v)))
  | u => u

/-- A result whose entry of the snapshot latch bank holds an error: it reads as zero. -/
def snapLost (f : Flight) : Flight :=
  { f with upd := f.upd.map (hurtUpd fun bs => natBytes bs.length 0), byp := f.byp.map fun b => (0, b.2) }

/-- Whether a self-test has marked a core's snapshot latch bank failed, so that every entry reads as an error (R373, R402). -/
def snapFailed (s : State) (core : Nat) : Bool := s.house.failed.any fun t => t.kind / 2 == 5 && t.core == core

/-- Whether entry k of a core's trap capture holds an uncorrectable error (R362, R402). -/
def snapSick (s : State) (core k : Nat) : Bool := snapFailed s core || (coreOf s core).snapBad.contains k

/-- Whether what is read from the snapshot latch bank holds an error: the trap capture, and at a curtain the curtain's own, whose entries it has just
written whole (R362, R402). -/
def snapHurt (s : State) (core : Nat) (x : Ctxt) (curtain : Bool) : Bool :=
  (List.range x.trapCap.length).any (snapSick s core) || (curtain && snapFailed s core && !x.inflight.isEmpty)

/-- The captures as they are read from the snapshot latch bank: a result whose entry holds an error is read as zero, and a DATAERR of no known
address waits for the next boundary: R402 names the bank and no rule the error of this reader (log 97). -/
def snapRead (s : State) (core : Nat) (x : Ctxt) (curtain : Bool) : Ctxt :=
  if snapHurt s core x curtain then
    { x with
      trapCap := x.trapCap.mapIdx fun k f => if snapSick s core k then snapLost f else f
      inflight := if curtain && snapFailed s core then x.inflight.map snapLost else x.inflight
      resumeErr := x.resumeErr.or (some (freeOf s 13)) }
  else x

/-- An error met in the snapshot latch bank starts a self-test of it (R372). -/
def snapMet (s : State) (core : Nat) (x : Ctxt) (curtain : Bool) : State :=
  if snapHurt s core x curtain then unitMet s ⟨10, core, 0⟩ else s

/-! ### Saving (R361) -/

/-- Commands of an engine as they re-enter: not started, a faulted one to retry its page (R277). -/
def kReturned (q : List KCmd) : List KCmd := q.map fun k => { k with started := false, parked := none, failed := none, old := [] }

/-- Commands of an engine as they leave: what their image does not hold is done again, and their flags are set (log 93). -/
def kLeaving (q : List KCmd) : List KCmd := q.map fun k => { k with started := false, ahead := [], flags := 0, old := [] }

/-- Errors in latches whose storage is read start self-tests (R372, R402). -/
def latchesMet (s : State) (core : Nat) (ls : Nat → LatchSt) : State :=
  ((List.range 4).filter fun l => latchFailed s core l || !(ls l).bad.isEmpty).foldl (fun st l => unitMet st ⟨8, core, l⟩) s

/-- Freeze, drain and save: engines stop between two units, a neighbour's command leaves the core's array, the context leaves the core for its save
area under its class, the scalar accesses in flight keep its name (R215, R361-R363); a dispatched PIT.ATTN no longer marks its tile (R299). Results
that have landed at this boundary stay in their latches, here and at the resume (R41, R400; log 104). Errors in what the save reads start self-tests
(R372). -/
def curtainSave (s : State) (core : Nat) : State :=
  let s0 := unmarkAttn (mRecall (mStop s core) core) core [0, 1]
  let x0 := (coreOf s0 core).ctx
  let s1 := latchesMet (snapMet s0 core x0 true) core (latchOf x0)
  let c := coreOf s1 core
  let cls := c.ctx.cls
  let area := saveArea s1 core cls
  let x : Ctxt := lateSwitch { snapRead s1 core c.ctx true with saveBase := some area, spent := 0, owed := if c.ctx.owed = 0 then 0 else treeCycles c.ctx.tree }
  let x' : Ctxt := { x with
    sticky := stickySet x.sticky ((x.kq0 ++ x.kq1).foldl (fun f k => f ||| k.flags) 0#64)
    kq0 := kLeaving x.kq0
    kq1 := kLeaving x.kq1 }
  let s2 := (ctxImage s1 c x').foldl (fun st p => physWrite st (area + p.1) p.2) s1
  let c' := countEvent (coreOf s2 core) 12
  setCoreOf s2 core { c' with
    status := .idle
    kbuf := []
    ctx := Ctxt.start
    saved := mput cls x' c'.saved
    pend := c'.pend.map fun a => if a.home.isNone then { a with home := some cls } else a }

/-! ### Resuming (R368-R370) -/

/-- The fields of the register block as (offset, size, the field read as zero). -/
def regFields : List (Nat × Nat × (Ctxt → Ctxt)) :=
  [(0x008, 8, fun x =>
      { x with mode := .cue, cause := x.cause &&& 0xFF#64, delay := none, wait := none, trapCap := [], inflight := [] }),
   (0x010, 8, fun x => { x with pc := 0 }), (0x018, 8, fun x => { x with delay := x.delay.map fun d => (d.1, 0) }),
   (0x020, 8, fun x => { x with cause := x.cause &&& BitVec.ofNat 64 (2 ^ 63 + 2 ^ 62) }), (0x028, 8, fun x => { x with faultpc := 0 }),
   (0x030, 8, fun x => { x with faultinfo := 0 }), (0x038, 8, fun x => { x with shapeinfo := 0 }), (0x040, 8, fun x => { x with esave := 0 }),
   (0x048, 8, fun x => { x with sticky := 0 }), (0x050, 8, fun x => { x with nopre := none }), (0x058, 8, fun x => { x with rehearse := false }),
   (0x060, 8, fun x => { x with preds := 1 }), (0x068, 8, fun x => { x with window := none, wfmt := 0, rot := 0 }),
   (0x070, 16, fun x => { x with wait := x.wait.map fun _ => ⟨0, 0, 0⟩ }), (0x080, 32, fun x => { x with held := 0 }),
   (0x0A0, 24, fun x => { x with ens := [] }), (0x0B8, 8, fun x => { x with pitTraps := [] })] ++
  (List.range 32).map (fun n => (0x100 + 8 * n, 8, fun x => setSreg x n 0)) ++
  (List.range 8).map (fun n => (0x200 + 8 * n, 8, fun x => { x with bregs := mput n 0 x.bregs })) ++
  (List.range 8).map (fun n => (0x240 + 72 * n, 72, fun x => { x with kmasks := mput n (0, 0) x.kmasks })) ++
  (List.range 32).map (fun n => (0x480 + 24 * n, 24, fun x => { x with tiles := mput n ⟨0, 0⟩ x.tiles })) ++
  (List.range 16).map (fun n => (0x780 + 8 * n, 8, fun x => { x with dims := mput n ⟨0, none⟩ x.dims })) ++
  (List.range 4).map (fun z => (0x800 + 128 * z, 80, fun x => { x with ports := mput z Port.unset x.ports })) ++
  (List.range 16).map fun i => (0xA00 + 16 * i, 16, fun x => { x with pitTraps := x.pitTraps.mapIdx fun j t => if j = i then ⟨0, 0, t.own, t.tag⟩ else t })

/-- Bytes of a saved part with those that cannot be read as zero. -/
def hurtBytes (s : State) (pa : Nat) (bs : List Byte) : List Byte := bs.mapIdx fun i b => if isBad s (pa + i) 1 then 0 else b

/-- A capture as read back: an entry whose descriptor cannot be read is none. -/
def hurtCapture (s : State) (pa : Nat) (fs : List Flight) : List Flight :=
  (fs.mapIdx fun k f => (k, f)).filterMap fun p =>
    let at' := pa + 576 * p.1
    if isBad s (at' + 512) 64 then none
    else some { p.2 with
      upd := p.2.upd.map (hurtUpd (hurtBytes s at'))
      byp := p.2.byp.map fun b => (BitVec.ofNat 4096 (bytesNat (hurtBytes s at' (natBytes 512 b.1.toNat))), b.2) }

/-- A context as read back from a save area with errors in it (R369). -/
def hurtCtx (s : State) (area : Nat) (x : Ctxt) : Ctxt :=
  let lost (o n : Nat) : Bool := isBad s (area + o) n
  let x1 := regFields.foldl (fun y f => if lost f.1 f.2.1 then f.2.2 y else y) x
  let x2 : Ctxt := { x1 with trapCap := hurtCapture s (area + 0x1000) x1.trapCap, inflight := hurtCapture s (area + 0xA000) x1.inflight }
  let m := mOfImage (hurtBytes s (area + 0x13000) (mImage x x.mq))
  let x3 : Ctxt := if lost 0x13000 0x12100 then { x2 with mq := m.cmds, latches := m.latches, cells := m.cells } else x2
  let kq (o : Nat) (q : List KCmd) : List KCmd :=
    if lost o 0x1040 then
      let bs := hurtBytes s (area + o) (kImage q)
      (List.range (bytesNat ((bs.drop 8).take 4))).map fun i =>
        let old := q.getD i (kOfRecord s bs (0x40 + 256 * i))
        { kOfRecord s bs (0x40 + 256 * i) with sm := old.sm, tag := old.tag, serial := old.serial, seq := old.seq }
    else q
  let word (w : Nat) : Nat × Nat := (w, bytesNat (hurtBytes s (area + 0x2A000 + 4 * w) (natBytes 4 (mget 0 w x.pgMem))))
  let pctx (g : Nat) : Nat × PCtx :=
    (g, { pctxOfImage (hurtBytes s (area + 0x2A400 + 64 * g) (pctxImage x.pgMem (pctxOf x g))) with counting := (pctxOf x g).counting })
  { x3 with
    kq0 := kq 0x26000 x.kq0
    kq1 := kq 0x28000 x.kq1
    pgMem := if lost 0x2A000 0x400 then (List.range 256).map word else x.pgMem
    pgCtxs := if lost 0x2A400 0x100 then (List.range 4).map pctx else x.pgCtxs
    tree := if lost 0x2B000 0x1140 then treeOfImage (hurtBytes s (area + 0x2B000) (treeImage x.tree)) else x.tree }

/-- The bytes of an image that a resume reads: offset and length of each part (R366). -/
def imageParts : List (Nat × Nat) :=
  [(0, 0x13000), (0x13000, 0x12100), (0x26000, 0x1040), (0x28000, 0x1040), (0x2A000, 0x400), (0x2A400, 0x100), (0x2B000, 0x1140)]

/-- Every reply owed to a saved context has arrived; the verdict of an audition may still be on its way (R363, R368). -/
def repliesIn (c : Core) (cls : Nat) : Bool := c.pend.all fun a =>
  a.home != some cls || (match a.kind with | .audition _ => true | .reply => a.dst == 0 | _ => false)

/-- A saved context re-enters its core (R368): engines, their commands in program order (R209), captures and accesses as they stood, the first bundle
a group switch; the trap capture is written back into its bank; an error in the save area starts self-tests (R372) and leaves a DATAERR for the
boundary before that bundle, and so does an image whose MAGIC or VERSION reads wrong, its fields as they were saved (R369, logs 17, 79). -/
def resumeCtx (s : State) (core cls : Nat) (x : Ctxt) : State :=
  let area := x.saveBase.getD (saveArea s core cls)
  let bad := imageParts.findSome? fun p => badAddr s (area + p.1) p.2
  let y := match bad with
    | some pa => { hurtCtx s area x with resumeErr := some (BitVec.ofNat 64 pa) }
    | none => if physNat s area 8 = 0x43544E58 + 2 ^ 32 then x else { x with resumeErr := some (BitVec.ofNat 64 area) }
  let s := piecesMet s (imageParts.map fun p => (area + p.1, p.2))
  let c := coreOf s core
  let y' : Ctxt := { lateSwitch y with
    saveBase := none
    mq := (mOrdered y.mq).map fun k => { k with issuedAt := c.cycles, old := [] }
    kq0 := kReturned y.kq0
    kq1 := kReturned y.kq1 }
  setCoreOf s core { c with
    status := .running
    ctx := y'
    snapBad := c.snapBad.filter (y.trapCap.length ≤ ·)
    saved := c.saved.filter fun e => e.1 != cls
    pend := c.pend.map fun a => if a.home = some cls then { a with home := none } else a }

end Sys2Proof.Machine
end

