-- ==== Sys2Proof/Machine/Cue.lean ====
section
/-! DEFINITION. Cues, ensembles, marks and waits of the C slot (R300-R305, R317-R331). -/

namespace Sys2Proof.Machine

/-! ### Ensembles and marks -/

/-- The member count of an ensemble (R322). -/
def ensCount (s : State) (e : Nat) : Nat := mget 0 e s.house.ensembles

/-- The homes that bind an ensemble, in core order. -/
def ensHomes (s : State) (e : Nat) : List Nat :=
  (s.cores.filter fun c => c.2.marks.any fun m => m.2.bound && m.2.inited && m.2.expect == e).map Prod.fst

/-- A count changes, and every home that binds the ensemble is told before anything else happens (R325). -/
def ensSet (s : State) (e n : Nat) : State :=
  { s with
    house := { s.house with ensembles := mput e n s.house.ensembles }
    agenda := (ensHomes s e).map (fun h => Turn.event (.ensembleCountNotice h e)) ++ s.agenda }

/-- The running cue of a core joins an ensemble (R323). -/
def ensJoin (s : State) (core e : Nat) : State :=
  let c := coreOf s core
  if c.ctx.ens.contains e then s
  else ensSet (setCoreOf s core { c with ctx := { c.ctx with ens := c.ctx.ens ++ [e] } }) e (ensCount s e + 1)

/-- The running cue of a core leaves an ensemble (R323). -/
def ensLeave (s : State) (core e : Nat) : State :=
  let c := coreOf s core
  if c.ctx.ens.contains e then
    ensSet (setCoreOf s core { c with ctx := { c.ctx with ens := c.ctx.ens.erase e } }) e (ensCount s e - 1)
  else s

/-- The running cue leaves every ensemble it belongs to (R320). -/
def ensLeaveAll (s : State) (core : Nat) : State := (coreOf s core).ctx.ens.foldl (fun st e => ensLeave st core e) s

/-- Whether a mark's phase is complete (R325). -/
def markDone (s : State) (m : Mark) : Bool := if m.bound then decide (ensCount s m.expect ≤ m.arrived) else decide (m.expect ≤ m.arrived)

/-- A mark whose phase is complete starts the next one; a sleeper wakes because GEN differs (R325, R329). -/
def markTest (s : State) (home n : Nat) : State :=
  let c := coreOf s home
  let m := markOf c n
  if m.inited && markDone s m then
    setCoreOf s home { c with marks := mput n { m with arrived := 0, gen := (m.gen + 1) % 65536 } c.marks }
  else s

/-- An arrival at a home (R325, R328). -/
def markArrive (s : State) (home n : Nat) : State :=
  let c := coreOf s home
  let m := markOf c n
  markTest (setCoreOf s home { c with marks := mput n { m with arrived := m.arrived + 1 } c.marks }) home n

/-- MARK.INIT performed (R327). -/
def markSet (s : State) (home n : Nat) (bound : Bool) (v : Nat) : State :=
  let c := coreOf s home
  setCoreOf s home { c with marks := mput n { markOf c n with inited := true, bound := bound, expect := v, arrived := 0 } c.marks }

/-- The waits that a core's contexts keep open: the running one's, one a trap keeps, and those of saved contexts (R329, R370). -/
def openWaits (c : Core) : List MarkWait :=
  let of (x : Ctxt) : List MarkWait := x.wait.toList ++ x.trapWait.toList
  (if c.status == .running then of c.ctx else []) ++ c.saved.flatMap fun e => of e.2

/-- Whether a mark has a sleeping waiter (R330). -/
def markSlept (s : State) (home n : Nat) : Bool :=
  let g := (markOf (coreOf s home) n).gen
  s.cores.any fun c => (openWaits c.2).any fun w => w.home == home && w.mark == n && w.gen == g

/-- ENSEMBLE_COUNT_NOTICE: a home tests its marks that are bound to the ensemble (R325). -/
def execEnsembleCountNotice (home ens : Nat) (s : State) : Host.Outcome State Fault Refusal :=
  if home < Config.cores then
    let ms := ((coreOf s home).marks.filter fun m => m.2.bound && m.2.inited && m.2.expect == ens).map Prod.fst
    .next (ms.foldl (fun st n => markTest st home n) s)
  else .fault (.noSuchAgent home)

/-! ### The join step (R319) -/

/-- The counter decremented, and the continuation enqueued at zero; `jpa` and `rpa` are the pieces of J and of J + 64. Reads that find nothing are
logged (R9), and an error under the continuation starts a self-test (R372). -/
def joinStep (s : State) (die : Nat) (smOk : Bool) (j : Nat) (jpa rpa : List (Nat × Nat)) : State :=
  let v := (bytesNat (readPieces s jpa) + (2 ^ 64 - 1)) % 2 ^ 64
  let s' := jpa.foldl (fun st p => released st p.1 p.2 0 3) (writePieces (notePieces s jpa) jpa (natBytes 8 v))
  if v = 0 then
    if rpa.any fun p => isBad s' p.1 p.2 then logErr (piecesMet s' rpa) .contLost die j 0
    else hwEnqueue (notePieces s' rpa) die smOk (readPieces s' rpa)
  else if 2 ^ 63 ≤ v then logErr s' .joinNegative die j 0
  else s'

/-- Whether the join step can run: no write that only the die has seen so far lies there, and its enqueue, if it comes to one, finds room (R305,
R332). -/
def joinRoom (s : State) (die : Nat) (smOk : Bool) (jpa rpa : List (Nat × Nat)) : Bool :=
  !dieHeld s die (jpa ++ rpa) &&
    (bytesNat (readPieces s jpa) != 1 || (rpa.any fun p => isBad s p.1 p.2) || hwRoom s die (recClass (readPieces s rpa)) smOk)

/-! ### CUE.PUSH and CUE.FORK -/

/-- A program enqueue into a wing; a disabled wing discards it (R303, R305). -/
def cuePush (s : State) (die w : Nat) (r : List Byte) : State :=
  if wingBase (wingOf s die w) = 0 then logErr s .disabledWing die w 1 else wingAppend s die w r

/-- PRIV when cue code names a stage-manager wing (R304). -/
def wingAllowed (s : State) (w : Nat) : Except Stop Unit :=
  if wingSm (wingOf s (dieOfCore s.focus) w) then needStageManager s else .ok ()

/-- The PRIV of an enqueue, which comes before every stall, where its two registers can be read (R58, R304); its stalls come next, and what the
registers themselves raise after them. -/
def privFirst (s : State) (a b : Nat) (f : Nat → Nat → Except Stop Unit) : Except Stop Unit := do
  freeRegs s [a, b]
  match rdS s 0 a, rdS s 1 b with
  | .ok r, .ok c => f r.toNat c.toNat
  | _, _ => pure ()

/-- CUE.PUSH (R318). -/
def execCuePush (a b : Nat) (s : State) : Host.Outcome State Fault Refusal :=
  perform s (do
    privFirst s a b fun r c => if r % 64 = 0 ∧ c ≤ 7 then wingAllowed s c else pure ()
    loadWait s (sregOf (ctx s) a).toNat 64
    waitFor (accessesDone s s.focus)
    let r ← rdS s 0 a
    let c ← rdS s 1 b
    let die := dieOfCore s.focus
    needAligned s r.toNat 64
    if 7 < c.toNat then stopFault 5 c.toNat
    needData s r.toNat 64
    let rec' ← loadV s r.toNat 64
    let notes := readNotes s r.toNat 64
    if !programRoom (wingOf s die c.toNat) 1 then afterRead notes (stopFault 8 (0x100 + c.toNat))
    pure (notes ++ [.act (.cuePush c.toNat (recSetClass rec' c.toNat))]))

/-- PRIV of a fork's wing, raised before its bundle stalls, as far as the template can be read (R58, R304). -/
def forkPriv (s : State) (r n : Nat) : Except Stop Unit :=
  if r % 64 = 0 ∧ n ≠ 0 ∧ n ≤ 65536 then
    match loadV s r 64 with
    | .ok t => wingAllowed s (recClass t)
    | .error _ => .ok ()
  else .ok ()

/-- CUE.FORK: n copies of the template with FORK ascending, after the join counter rose by n; a fork of zero enqueues the continuation at
once (R319). -/
def execCueFork (a b : Nat) (s : State) : Host.Outcome State Fault Refusal :=
  perform s (do
    let x := ctx s
    let die := dieOfCore s.focus
    let smOk := x.mode == .stageManager
    privFirst s a b (forkPriv s)
    loadWait s (sregOf x a).toNat 64
    waitFor (sregOf x b == 0#64 || accessesDone s s.focus)
    let r ← rdS s 0 a
    let n ← rdS s 1 b
    needAligned s r.toNat 64
    if 65536 < n.toNat then stopFault 5 n.toNat
    needData s r.toNat 64
    let t ← loadV s r.toNat 64
    let notes := readNotes s r.toNat 64
    let w := recClass t
    let j := recWord t 2
    afterRead notes (
      if n.toNat = 0 then
        if j = 0 then pure notes
        else do
          loadWait s (j + 64) 64
          waitFor (accessesDone s s.focus)
          let k ← loadV s (j + 64) 64
          if !hwRoom s die (recClass k) smOk then stopStall .wait
          pure (notes ++ readNotes s (j + 64) 64 ++ [.act (.cueFork (recClass k) 0 none k)])
      else do
        let join := if j = 0 then none else some (xlate s s.focus x.mode (rootPa x.droot) j true true)
        match join with
        | some (.ok q) => if dieHeld s die [(q.1, 8)] then stopStall .wait
        | _ => pure ()
        if !programRoom (wingOf s die w) n.toNat then stopFault 8 (0x100 + w)
        match join with
        | none => pure (notes ++ [.act (.cueFork w n.toNat none t)])
        | some (.error e) => stopXl s j 8 true true (j, e)
        | some (.ok q) =>
          let ns := issueNotes s j 8 true true
          if isBad s q.1 8 then stopMet ⟨14, BitVec.ofNat 64 j, none⟩ (ns ++ [(q.1, 1)])
          else pure (notes ++ (if ns.isEmpty then [] else [.act (.met ns)]) ++ [.act (.cueFork w n.toNat (some q.1) t)])))

/-- The children of a fork appended in ascending order. -/
def forkChildren (s : State) (die w : Nat) (t : List Byte) : Nat → State
  | 0 => s
  | i + 1 =>
    let s' := forkChildren s die w t i
    cuePush s' die w (recWith t 7 (recWord t 7 % 2 ^ 32 + i % 2 ^ 32 * 2 ^ 32))

/-- CUE.FORK performed. -/
def cueFork (s : State) (core w n : Nat) (join : Option Nat) (t : List Byte) : State :=
  let die := dieOfCore core
  if n = 0 then hwEnqueue s die ((coreOf s core).ctx.mode == .stageManager) t
  else
    let s' := match join with
      | some pa => physWrite (noteRead s pa) pa (natBytes 8 ((physNat s pa 8 + n) % 2 ^ 64))
      | none => s
    forkChildren s' die w t n

/-! ### CUE.EXIT, CUE.SELF -/

/-- The pieces of J and J + 64 of the running cue (R320). -/
def exitPieces (s : State) (core : Nat) : Except (Nat × Nat) (List (Nat × Nat) × List (Nat × Nat)) := do
  let x := (coreOf s core).ctx
  let j := x.joinAddr.toNat
  if j = 0 then pure ([], [])
  else do
    let a ← xlateSpan s core x.mode (rootPa x.droot) j 8 true true
    let b ← xlateSpan s core x.mode (rootPa x.droot) (j + 64) 64 true false
    pure (a, b)

/-- What the walks of J and J + 64 leave (R9, R372). -/
def exitNotes (s : State) (core : Nat) : List (Nat × Nat) :=
  let x := (coreOf s core).ctx
  let j := x.joinAddr.toNat
  if j = 0 then []
  else spanNotes s core x.mode (rootPa x.droot) true true (pieces j 8 2) ++ spanNotes s core x.mode (rootPa x.droot) true false (pieces (j + 64) 64 2)

/-- The held errors that CUE.EXIT raises: a parked or failed copy command, a matrix DATAERR, a scalar access's DATAERR, in a handler that of an
access without a register too (R297, R320). -/
def exitErrors (x : Ctxt) : Option Stop :=
  match engineFault x 0, engineFault x 1, x.matErrs, x.regErrs with
  | some e, _, _, _ => some e.2
  | none, some e, _, _ => some e.2
  | none, none, e :: _, _ => some (.held ⟨14, BitVec.ofNat 64 e.pa, none⟩ (.mat e))
  | none, none, [], e :: _ => some (.held ⟨14, BitVec.ofNat 64 e.va, none⟩ (.reg e.dst))
  | none, none, [], [] => (x.pitTraps.find? (·.own)).map fun t => .held ⟨14, t.info, none⟩ .note

/-- CUE.EXIT (R320): its checks and waits; the steps that follow them are taken as its bundle issues. An error in the join counter is raised after the
cue has left its ensembles: that one effect goes with the stop. -/
def execCueExit (s : State) : Host.Outcome State Fault Refusal :=
  let x := ctx s
  let c := cur s
  let stop (r : Except Stop (List Eff)) := perform s r
  if heldCount x ≠ 0 then stop (stopFault 9 (heldCount x))
  else match exitErrors x with
    | some t => stop (.error t)
    | none =>
      if !x.mq.isEmpty || !x.kq0.isEmpty || !x.kq1.isEmpty || c.pend.any (·.home.isNone) || !accessesDone s s.focus then stop (stopStall .wait)
      else match exitPieces s s.focus with
        | .error e => stop (stopMet ⟨5, xlInfo e.1 e.2, none⟩ (exitNotes s s.focus))
        | .ok (jpa, _) =>
          if jpa.any fun p => isBad s p.1 p.2 then
            perform (settle s (.ok (x.ens.map fun e => .act (.ensLeave e))))
              (stopMet ⟨14, x.joinAddr, none⟩ (exitNotes s s.focus ++ [((jpa.findSome? fun p => badAddr s p.1 p.2).getD 0, 1)]))
          else stop (.ok [.ctl .exit])

/-- What a cue leaves in flight: the accesses of its last bundle, whose values reach no register any more (R320). -/
def exitPend (l : List Access) : List Access := l.filterMap fun a =>
  if a.home.isSome then some a else match a.kind with | .reply | .audition _ => none | _ => some { a with dst := 0 }

/-- CUE.EXIT issues: the cue leaves its ensembles, and what its bundles have in flight is discarded (R320). -/
def exitBegin (s : State) (core : Nat) : State :=
  let s' := ensLeaveAll s core
  let c := coreOf s' core
  setCoreOf s' core { c with ctx := { c.ctx with draining := some .exit, inflight := [], trapCap := [] }, pend := exitPend c.pend }

/-- Whether the cue that exits can run its join step: what its last bundle still stalls for is over, and there is room (R255, R305, R320). -/
def exitReady (s : State) (core : Nat) : Bool :=
  let x := (coreOf s core).ctx
  x.owed == 0 && (x.joinAddr == 0#64 ||
    match exitPieces s core with
    | .ok (jpa, rpa) => joinRoom s (dieOfCore core) (x.mode == .stageManager) jpa rpa
    | .error _ => true)

/-- A cue that has ended leaves its core idle; its context stands until the next one starts (R88, R320). Staged lines it never took are discarded and
counted (R112, R313), and the house die counts the trap records it leaves (R297). -/
def cueEnd (s : State) (core : Nat) : State :=
  let x := (coreOf s core).ctx
  let s1 := match exitPieces s core with
    | .ok (jpa, rpa) => if x.joinAddr = 0#64 then s else joinStep (noteMet s (exitNotes s core)) (dieOfCore core) (x.mode == .stageManager) x.joinAddr.toNat jpa rpa
    | .error _ => s
  let s2 := x.pitTraps.foldl (fun st t => logErr4 st .pitGone core x.serial t.tag t.code) s1
  let d := dieOf s2 (dieOfCore core)
  let mine (l : PreLine) : Bool := l.owner.map Prod.fst == some core && l.owner.map Prod.snd == some x.serial
  let s3 := setDie s2 (dieOfCore core) { d with prestage := d.prestage.filter fun l => !mine l }
  let c := (d.prestage.filter fun l => mine l && !l.used).foldl (fun c _ => countEvent c 9) (coreOf s3 core)
  setCoreOf s3 core { c with
    status := .idle
    ctx := { c.ctx with
      delay := none, shadow := 0, trapDelay := none, wait := none, trapWait := none, draining := none, spent := 0, owed := 0, pitTraps := []
      kaway := [] } }

/-- What a cue that exits meets where its join step would read by the time it can run: the fault of its CUE.EXIT (R320). -/
def exitFault (s : State) (core : Nat) : Option (Trap × Option Held) :=
  let j := (coreOf s core).ctx.joinAddr
  match exitPieces s core with
  | .error e => some (⟨5, xlInfo e.1 e.2, none⟩, some (.met (exitNotes s core)))
  | .ok (jpa, _) => (jpa.findSome? fun p => badAddr s p.1 p.2).map fun pa => (⟨14, j, none⟩, some (.met (exitNotes s core ++ [(pa, 1)])))

/-- The end of a cue that exits, once its join step can run (R320). -/
def exitMove (s : State) (core : Nat) : Option State := if exitReady s core then some (cueEnd s core) else none

/-- CUE.SELF (R321). -/
def execCueSelf (a : Nat) (s : State) : Host.Outcome State Fault Refusal := perform s (outS s 1 a (ctx s).slotAddr 0)

/-! ### ENS -/

/-- Whether the releases of ensembles and marks may act: every earlier store has performed at mod scope, and every earlier acquire (R323, R328, R337,
R338). -/
def releaseReady (s : State) : Bool := storesDone s s.focus 2 && !acquirePending (cur s)

/-- The identifier of an ensemble instruction; DATAXL from 4,096 up (R323). -/
def ensId (s : State) (opnd n : Nat) : Except Stop Nat := do
  let e ← rdS s opnd n
  if 4096 ≤ e.toNat then stopFault 5 e.toNat else pure e.toNat

/-- ENS.JOIN (R323). -/
def execEnsJoin (a : Nat) (s : State) : Host.Outcome State Fault Refusal :=
  perform s (do
    freeRegs s [a]
    waitFor (releaseReady s)
    let e ← ensId s 0 a
    if (ctx s).ens.contains e then pure []
    else if 8 ≤ (ctx s).ens.length then stopFault 8 (0x200 ||| e)
    else if 2 ^ 20 - 1 ≤ ensCount s e then stopFault 8 (0x400 ||| e)
    else pure [.act (.ensJoin e)])

/-- ENS.LEAVE (R323). -/
def execEnsLeave (a : Nat) (s : State) : Host.Outcome State Fault Refusal :=
  perform s (do
    freeRegs s [a]
    waitFor (releaseReady s)
    let e ← ensId s 0 a
    pure [.act (.ensLeave e)])

/-- ENS.SIZE (R323). -/
def execEnsSize (a b : Nat) (s : State) : Host.Outcome State Fault Refusal :=
  perform s (do
    freeRegs s [a, b]
    let e ← ensId s 1 b
    replyTo s a (ensCount s e))

/-! ### MARK -/

/-- MARKERR (R330). -/
def markErr {α : Type} (reason home m : Nat) : Except Stop α := stopFault 15 (reason * 2 ^ 24 + home % 512 * 2 ^ 12 + m)

/-- MARK.INIT (R327, R330). -/
def execMarkInit (a m : Nat) (s : State) : Host.Outcome State Fault Refusal :=
  perform s (do
    let v ← rdS s 0 a
    if v.toNat = 0 ∨ 2 ^ 20 ≤ v.toNat then markErr 3 s.focus m
    else if markSlept s s.focus m then markErr 4 s.focus m
    else pure [.act (.markInit m false v.toNat)])

/-- MARK.INIT.ENS (R327, R330). -/
def execMarkInitEns (a m : Nat) (s : State) : Host.Outcome State Fault Refusal :=
  perform s (do
    let v ← rdS s 0 a
    if 4096 ≤ v.toNat then markErr 3 s.focus m
    else if markSlept s s.focus m then markErr 4 s.focus m
    else if 64 ≤ ((cur s).marks.filter fun k => k.2.bound).length then markErr 5 s.focus m
    else pure [.act (.markInit m true v.toNat)])

/-- The home that sa names (R328). -/
def markHome (s : State) (a m : Nat) : Except Stop Nat := do
  let v ← rdS s 0 a
  let home := if a = 0 then s.focus else v.toNat
  if Config.cores ≤ home ∨ !enabled s home then markErr 2 home m
  else if !(markOf (coreOf s home) m).inited then markErr 1 home m
  else pure home

/-- MARK.ARRIVE (R328). -/
def execMarkArrive (a m : Nat) (s : State) : Host.Outcome State Fault Refusal :=
  perform s (do
    freeRegs s [a]
    waitFor (releaseReady s)
    let home ← markHome s a m
    pure [.act (.markArrive home m)])

/-- MARK.WAIT (R328, R329). -/
def execMarkWait (a m : Nat) (s : State) : Host.Outcome State Fault Refusal :=
  perform s (do
    let home ← markHome s a m
    pure [.ctl (.sleep ⟨home, m, (markOf (coreOf s home) m).gen⟩)])

/-- MARK.AWAIT: the GEN returned held before this arrival (R328, R329). -/
def execMarkAwait (a m : Nat) (s : State) : Host.Outcome State Fault Refusal :=
  perform s (do
    freeRegs s [a]
    waitFor (releaseReady s)
    let home ← markHome s a m
    pure [.act (.markArrive home m), .ctl (.sleep ⟨home, m, (markOf (coreOf s home) m).gen⟩)])

/-! ### WAITA -/

/-- The comparisons of WAITA and of a guard (R61, R301, R331). -/
def waitHolds (cc : Nat) (x y : Int) : Bool :=
  match cc with
  | 0 => x == y
  | 1 => x != y
  | 2 => decide (y ≤ x)
  | _ => decide (x < y)

/-- The fault of an engine whose parked or failed head has its completion word here, or whose later SIGNAL has it: one behind it, or one of a later
bundle on the other engine (R267, R331). -/
def waitFault (x : Ctxt) (va : Nat) : Option Stop :=
  let here (c : KCmd) : Bool := fld c.word 26 6 == 9 && c.sig == some va
  let own (q o : List KCmd) (e : Option (KCmd × Stop)) : Option Stop := (e.filter fun e =>
    e.1.sig == some va || (q.drop 1).any here || o.any fun c => here c && decide (bundleOf e.1.seq < bundleOf c.seq)).map (·.2)
  match own x.kq0 x.kq1 (engineFault x 0), own x.kq1 x.kq0 (engineFault x 1) with
  | some t, _ => some t
  | none, o => o

/-- What WAITA reads: the word as loads find it; the control range answers it with nothing (R331, R375). -/
def waitWord (s : State) (pa : Nat) : Int := (BitVec.ofNat 64 (physNat s pa 8)).toInt

/-- WAITA (R331): satisfied, it is an acquire at the scope of the release that it reads (R337), and the wait of its read is counted as a busy scalar
register's (R150); each test of a word that is not there is logged (R9, R375). -/
def execWaita (a b cc : Nat) (s : State) : Host.Outcome State Fault Refusal :=
  let x := ctx s
  let r : Except Stop (Nat × Int) := do
    freeRegs s [a, b]
    loadWait s (sregOf x a).toNat 8
    let va ← rdS s 0 a
    let y ← rdS s 1 b
    needAligned s va.toNat 8
    match xlate s s.focus x.mode (rootPa x.droot) va.toNat true false with
    | .error e => stopXl s va.toNat 8 true false (va.toNat, e)
    | .ok q =>
      match waitFault x va.toNat with
      | some t => .error t
      | none => do
        let _ ← loadV s va.toNat 8
        pure (q.1, y.toInt)
  match r with
  | .error e => perform s (.error e)
  | .ok (pa, y) =>
    let notes := readNotes s (sregOf x a).toNat 8
    if waitHolds cc (waitWord s pa) y then perform s (.ok (notes ++ [.act (.observe (acquireLevel s s.focus pa 8))]))
    else perform (settle s (.ok notes)) (stopStall .wait)

/-- WAITA_RETEST: a write has reached the line, and the core's sequencer acts next (R331). -/
def execWaitaRetest (core : Nat) (s : State) : Host.Outcome State Fault Refusal :=
  if core < Config.cores then .next { s with agenda := .core core :: s.agenda } else .fault (.noSuchAgent core)

end Sys2Proof.Machine
end

