-- ==== Sys2Proof/Machine/Transc.lean ====
section
/-! DEFINITION. The functions of R180, R188 and R189, rounded once: an enclosure in fixed point at growing precision until both its ends round
alike (log 7: that the last precision suffices is UNVERIFIED; the arguments of the manual's formats need far less). -/

namespace Sys2Proof.Machine

/-- ln 2 in units of 2^-640, rounded down. -/
def ln2Fix : Nat := 0xb17217f7d1cf79abc9e3b39803f2f6af40f343267298b62d8a0d175b8baafa2be7b876206debac98559552fb4afa1b10ed2eae35c138214427573b291169b8253e96ca16224ae8c51acbda11317c387e
/-- pi in units of 2^-640, rounded down. -/
def piFix : Nat := 0x3243f6a8885a308d313198a2e03707344a4093822299f31d0082efa98ec4e6c89452821e638d01377be5466cf34e90c6cc0ac29b7c97c50dd3f84d5b5b54709179216d5d98979fb1bd1310ba698dfb5ac

/-- A constant in units of 2^-640 at p bits. -/
def constAt (c p : Nat) : Nat := c / 2 ^ (640 - p)

/-- The precisions tried, in order. -/
def precisions : List Nat := [128, 256, 512]

/-- The first enclosure whose ends convert alike decides; the last one tried decides otherwise. -/
def ladder (enc : FV → Nat × Word) (f : Nat → FV × FV) : List Nat → Nat × Word
  | [] => (0, 0)
  | [p] => enc (f p).1
  | p :: ps => let b := f p
    if enc b.1 = enc b.2 then enc b.1 else ladder enc f ps

/-- Terms y^k / k! in units of 2^-p, from the term t of index k on. -/
def expLoop (p y : Nat) : Nat → Nat → Nat → Nat
  | 0, _, _ => 0
  | fuel + 1, k, t => if t = 0 then 0 else t + expLoop p y fuel (k + 1) (t * y / 2 ^ p / (k + 1))

/-- An enclosure of 2^f, 0 ≤ f < 1 with f = num / 2^den, in units of 2^-p; the error of the truncated terms is below 2^12 units. -/
def exp2Frac (p num den : Nat) : Nat × Nat :=
  let y := num * constAt ln2Fix p / 2 ^ den
  let s := expLoop p y 400 0 (2 ^ p)
  (s, s + 4096)

/-- A positive real between the ends lo and hi of an enclosure in units of 2^-p, each end as a number strictly inside it. -/
def between (neg : Bool) (p : Nat) (shift : Int) (b : Nat × Nat) : FV × FV :=
  (.fin neg (2 * b.1 + 1) (shift - (p : Int) - 1), .fin neg (2 * b.2 - 1) (shift - (p : Int) - 1))

/-- 2^x for a number x, through a conversion (R180, R189). From 2^16 in magnitude on every format overflows or underflows. -/
def exp2Fin (enc : FV → Nat × Word) (neg : Bool) (m : Nat) (e : Int) : Nat × Word :=
  if m = 0 then enc (fvInt 1)
  else if 16 ≤ (Nat.log2 m : Int) + e then (if neg then enc (.fin false 1 (-100000)) else enc (.fin false 1 100000))
  else if 0 ≤ e then
    let n : Int := ((m * pow2 e : Nat) : Int)
    enc (.fin false 1 (if neg then -n else n))
  else
    let den := (-e).toNat
    let z : Int := if neg then -(m : Int) else (m : Int)
    let n := z / ((2 ^ den : Nat) : Int)
    let f := (z % ((2 ^ den : Nat) : Int)).toNat
    if f = 0 then enc (.fin false 1 n)
    else ladder enc (fun p => between false p n (exp2Frac p f den)) precisions

/-- The terms of atanh t in units of 2^-p: t^(2k+1) / (2k+1), with t2 = t^2. -/
def atanhLoop (p t2 : Nat) : Nat → Nat → Nat → Nat
  | 0, _, _ => 0
  | fuel + 1, k, t => if t = 0 then 0 else t / (2 * k + 1) + atanhLoop p t2 fuel (k + 1) (t * t2 / 2 ^ p)

/-- An enclosure of log2 z for 1 < z < 2, z = m / 2^s, in units of 2^-p. -/
def log2Frac (p m s : Nat) : Nat × Nat :=
  let t := (m - 2 ^ s) * 2 ^ p / (m + 2 ^ s)
  let l := atanhLoop p (t * t / 2 ^ p) 400 0 t
  let lo := 2 * l * 2 ^ p / (constAt ln2Fix p + 1)
  (lo - 8192, lo + 8192)

/-- log2 of a positive number through a conversion (R180). -/
def log2Fin (enc : FV → Nat × Word) (m : Nat) (e : Int) : Nat × Word :=
  let s := Nat.log2 m
  let n : Int := (s : Int) + e
  if m = 2 ^ s then enc (fvInt n)
  else ladder enc (fun p =>
    let b := log2Frac p m s
    if 0 ≤ n then between false p 0 (b.1 + n.toNat * 2 ^ p, b.2 + n.toNat * 2 ^ p)
    else between true p 0 ((-n).toNat * 2 ^ p - b.2, (-n).toNat * 2 ^ p - b.1)) precisions

/-- tanh x for a positive number below 32, as a number between its lower and upper ends at 192 bits: 1 - 2 / (2^(2x log2 e) + 1). -/
def tanhFrac (m : Nat) (e : Int) : Nat × Nat :=
  let p : Nat := 256
  -- y = 2x in units of 2^-p, split as n ln 2 + r
  let y := if 0 ≤ e + 1 + (p : Int) then m * pow2 (e + 1 + (p : Int)) else m / pow2 (-(e + 1 + (p : Int)))
  let l := constAt ln2Fix p
  let n := y / l
  let s := expLoop p (y % l) 400 0 (2 ^ p) * 2 ^ n
  let one := 2 ^ p
  let lo := (s - one) * one / (s + one)
  (lo - 2 ^ 64, lo + 2 ^ 64)

/-- The lower of the two codes between which tanh of a positive number lies. From 16 on, for FP64 from 32 on, tanh x lies above 1 less one unit
in the last place; below 2^-13, for FP64 2^-27, it lies within one unit below x. -/
def tanhLower (f : FloatFmt) (m : Nat) (e : Int) : Nat :=
  let top := (Nat.log2 m : Int) + e
  if (if f.mb ≤ 23 then 4 else 5) ≤ top then (encodeFloat f 2 (fvInt 1)).1 - 1
  else if top < (if f.mb ≤ 23 then -13 else -27) then (encodeFloat f 2 (.fin false m e)).1 - 1
  else (encodeFloat f 2 (.fin false (2 * (tanhFrac m e).1 + 1) (-257))).1

/-- The transcendental named by its fn3 code (R64), on a value, into a format: result code and flags (R180). -/
def transc (fmt op code : Nat) : Nat × Word :=
  let enc := encodeElt fmt 0
  let nan (w : Word) : Nat × Word := let r := enc (.nan false); (r.1, r.2 ||| w)
  match op, decodeElt fmt code with
  | _, .nan s => nan (flagIf s flagInvalid)
  | 0, .inf n => enc (.fin n 0 0)
  | 0, .fin n 0 _ => enc (.inf n)
  | 0, .fin n m e => enc (fvQuot n 1 0 m e)
  | 1, .fin n 0 _ => enc (.inf n)
  | 1, .inf false => enc fvZero
  | 1, .inf true | 1, .fin true _ _ => nan flagInvalid
  | 1, .fin false m e =>
    match fvRoot m e with
    | .fin _ r er => enc (fvQuot false 1 0 r er)
    | v => enc v
  | 2, .fin n 0 _ => enc (.fin n 0 0)
  | 2, .inf false => enc (.inf false)
  | 2, .inf true | 2, .fin true _ _ => nan flagInvalid
  | 2, .fin false m e => enc (fvRoot m e)
  | 3, .inf n => enc (if n then fvZero else .inf false)
  | 3, .fin n m e => exp2Fin enc n m e
  | 4, .fin _ 0 _ => enc (.inf true)
  | 4, .inf false => enc (.inf false)
  | 4, .inf true | 4, .fin true _ _ => nan flagInvalid
  | 4, .fin false m e => log2Fin enc m e
  | _, .inf n => enc (.fin n 1 0)
  | _, .fin n 0 _ => enc (.fin n 0 0)
  | _, .fin n m e => match floatFmt? fmt with
      | some f => (tanhLower f m e + (if Config.tanhOuter fmt code then 1 else 0) + (if n then 2 ^ (f.eb + f.mb) else 0), flagInexact)
      | none =>
        let top := (Nat.log2 m : Int) + e
        let r := enc (if 5 ≤ top then .fin n 1 0 else if top < -27 then .fin n m e else .fin n (2 * (tanhFrac m e).1 + 1) (-257))
        (r.1, r.2 ||| flagInexact)

/-- exp2 of an exact value through a conversion (R189, R291). -/
def exp2Val (enc : FV → Nat × Word) : FV → Nat × Word
  | .nan s => enc (.nan s)
  | .inf n => enc (if n then fvZero else .inf false)
  | .fin n m e => exp2Fin enc n m e

/-- 10000^(1/2^k) in units of 2^-320, by square roots. -/
def rootTenThousand : Nat → Nat
  | 0 => 10000 * 2 ^ 320
  | k + 1 => isqrt (rootTenThousand k * 2 ^ 320)

/-- The product of the roots that the bits of j select: 10000^(j / 2^n), bit b of j taking the root of index n - b. -/
def powTenThousand (n j : Nat) : Nat → Nat
  | 0 => 2 ^ 320
  | b + 1 => let r := powTenThousand n j b
    if j / 2 ^ b % 2 = 1 then r * rootTenThousand (n - b) / 2 ^ 320 else r

/-- F_j of R188 in units of 2^-40, for P = 2^n pairs: rne(10000^(-j/P) / 2 pi). -/
def ropeFactor (n j : Nat) : Nat :=
  let den := 2 * (piFix / 2 ^ 320) * powTenThousand n j n / 2 ^ 320
  let num := 2 ^ 360
  let q := num / den
  let r := num % den
  if 2 * r > den || (2 * r == den && q % 2 == 1) then q + 1 else q

/-- The alternating terms of sine or cosine in units of 2^-p from the term t of degree k on, x2 = x^2. -/
def trigLoop (p x2 : Nat) : Nat → Nat → Nat → Int
  | 0, _, _ => 0
  | fuel + 1, k, t => if t = 0 then 0 else (t : Int) - trigLoop p x2 fuel (k + 2) (t * x2 / 2 ^ p / ((k + 1) * (k + 2)))

/-- An enclosure of the sine (k = 1) or cosine (k = 0) of 2 pi r / 2^40 for 0 < r < 2^38, in units of 2^-p. -/
def trigFrac (p k r : Nat) : Nat × Nat :=
  let x := 2 * constAt piFix p * r / 2 ^ 40
  let v := (trigLoop p (x * x / 2 ^ p) 400 k (if k = 1 then x else 2 ^ p)).toNat
  (v - 4096, v + 4096)

/-- cos (k = 0) and sin (k = 1) of phi / 2^40 turns, rounded into E11M33 (R188). -/
def trigTurn (k phi : Nat) : FV :=
  let q := phi / 2 ^ 38 % 4
  let r := phi % 2 ^ 38
  -- cos(q/4 + r): cos r, -sin r, -cos r, sin r; sin: sin r, cos r, -sin r, -cos r
  let useSin := if k = 0 then q % 2 == 1 else q % 2 == 0
  let neg := if k = 0 then (q == 1 || q == 2) else (q == 2 || q == 3)
  if r = 0 then (if useSin then .fin false 0 0 else .fin neg 1 0)
  else
    let c := ladder (encodeFloat fmtNode33 0) (fun p => between neg p 0 (trigFrac p (if useSin then 1 else 0) r)) precisions
    decodeFloat fmtNode33 c.1

end Sys2Proof.Machine
end

