-- ==== Sys2Proof/Machine/Pit.lean ====
section
/-! DEFINITION. Pit commands: records, typing and queueing (R286-R288), dispatch (R287), the pit engines and their translation memories
(R289-R298), statuses and the traps they call for (R285, R296, R297). -/

namespace Sys2Proof.Machine

/-! ### Issue -/

/-- A field of a record: offset, size, and the values it may hold. -/
abbrev PitField := Nat × Nat × (Nat → Bool)

/-- The first field outside its limits, or reserved word that is not zero, by offset (R287). The reserved bytes of R288 have no fields of their own:
the offset of the first 4-byte word that is not zero is reported (log 102). -/
def pitRecordBad (bs : List Byte) (fs : List PitField) : Option Nat :=
  let q (o n : Nat) : Nat := bytesNat ((bs.drop o).take n)
  (List.range 16).findSome? fun k =>
    let o := 4 * k
    match fs.find? (fun f => f.1 == o) with
    | some f => if f.2.2 (q o f.2.1) then none else some o
    | none => if fs.any (fun f => decide (f.1 < o) && decide (o < f.1 + f.2.1)) || q o 4 == 0 then none else some o

/-- A record read and checked at issue (R287). -/
def pitRecord (s : State) (w : Nat) (fs : List Byte → List PitField) : Except Stop (List Byte × List Eff) := do
  let a ← rdS s 1 w
  needData s a.toNat 64
  let bs ← loadV s a.toNat 64
  let notes := readNotes s a.toNat 64
  match pitRecordBad bs (fs bs) with
  | some o => afterRead notes (stopFault 5 o)
  | none => pure (bs, notes)

/-- The fields of each record (R288). -/
def fieldsScaleadd : List PitField := [(0, 4, fun n => decide (1 ≤ n) && decide (n ≤ 64)), (4, 4, fun _ => true), (8, 8, fun y => y % 1024 == 0)]
def fieldsAtomadd : List PitField := [(8, 8, fun b => b % 4 == 0), (0x10, 4, fun l => decide (1 ≤ l))]
def fieldEngine : PitField := (0, 4, fun e => decide (e < 192))
def fieldsAttn (bs : List Byte) : List PitField :=
  let q (o : Nat) : Nat := bytesNat ((bs.drop o).take 4)
  [fieldEngine, (4, 4, fun _ => true), (8, 4, fun q => decide (q < 65536)), (0x0C, 4, fun b => decide (b < 262144)),
   (0x10, 4, fun n => decide (1 ≤ n) && decide (64 * q 0x0C + n ≤ 2 ^ 24)), (0x14, 4, fun h => decide (1 ≤ h) && decide (h ≤ 128)),
   (0x18, 4, fun h => h % 1024 == 0 && decide (h + 256 * q 0x14 ≤ 65536))]
/-- The fields of PIT.XLOCK and PIT.XUNLOCK, for SEQ and BLK0 the limits of PIT.ATTN's row, as ENGINE has for PIT.XLOAD too: R288 gives theirs none
(log 118). -/
def fieldsLock : List PitField :=
  [fieldEngine, (4, 4, fun q => decide (q < 65536)), (8, 4, fun b => decide (b < 262144)),
   (0x0C, 4, fun n => decide (1 ≤ n) && decide (n ≤ 4096))]

/-- The typing rule of a pit tile, in the order of its table (R288): ROW, a format, rank 2, no scale, EXT0 unified or at most 4096, a fixed EXT1. -/
def pitTile (s : State) (t fmt e1 : Nat) (e0 : Option Nat) : Except Stop (Opnd × Local) := do
  let reg := tileOf (ctx s) t
  let tw := reg.tw.toNat
  checkType s [] 0 reg.tw
  need s 0 2 0 (twLayout tw) (twLayout tw == 0)
  need s 0 1 fmt (twFmt tw) (twFmt tw == fmt)
  need s 0 0 1 (twRank tw) (twRank tw == 1)
  need s 0 3 0 (twScale tw) (twScale tw == 0)
  let x0 := extOf (twExt tw 0)
  let l0 ← match e0 with
    | some n => unify s [] 0 4 x0 (.const n)
    | none => if (extVal s [] x0).isSome then unify s [] 0 4 x0 (.const 4096) true else pure []
  let l1 ← unify s l0 0 5 (extOf (twExt tw 1)) (.const e1)
  let e ← extsNeeded s l1 0 reg.tw
  checkFit s 0 reg.tw e reg.bd
  pure (kOpnd reg e, l1)

/-- The common course of a pit command with a record, and with a tile unless `tile` is none: format, EXT1, EXT0 by the record. -/
def pitIssue (s : State) (i : Instr) (t w g : Nat) (write : Bool) (fs : List Byte → List PitField)
    (tile : Option (Nat × Nat × (List Byte → Option Nat))) : Except Stop (List Eff) := do
  let reg := tileOf (ctx s) t
  kBefore s (if tile.isSome then kRange reg write else []) [w, g] (loadWait s (sregOf (ctx s) w).toNat 64)
  let sig ← kSig s g
  let bs ← pitRecord s w fs
  let o ← match tile with
    | some p => afterRead bs.2 (pitTile s t p.1 p.2.1 (p.2.2 bs.1))
    | none => pure (⟨0, 0⟩, [])
  pure (bs.2 ++ bindEffs o.2 ++ [.kcmd (kEngine s) { kCmd s i sig with tile := o.1, wrec := bs.1 ++ natBytes 64 0 }])

/-- PIT.SCALEADD (R286-R288). -/
def execPitScaleadd (t w g : Nat) (s : State) : Host.Outcome State Fault Refusal :=
  perform s (pitIssue s (.pitScaleadd t w g) t w g false (fun _ => fieldsScaleadd) (some (0x12, 256, fun bs => some (bytesNat (bs.take 4)))))

/-- PIT.ATOMADD (R286-R288). -/
def execPitAtomadd (t w g : Nat) (s : State) : Host.Outcome State Fault Refusal :=
  perform s (pitIssue s (.pitAtomadd t w g) t w g false (fun _ => fieldsAtomadd) (some (8, 2, fun _ => none)))

/-- PIT.ATTN (R286-R288). -/
def execPitAttn (t w g : Nat) (s : State) : Host.Outcome State Fault Refusal :=
  perform s (pitIssue s (.pitAttn t w g) t w g true fieldsAttn (some (0x12, 128, fun _ => some 2)))

/-- PIT.XLOAD (R286-R288). -/
def execPitXload (t w g : Nat) (s : State) : Host.Outcome State Fault Refusal :=
  perform s (pitIssue s (.pitXload t w g) t w g false (fun _ => [fieldEngine]) (some (8, 4, fun _ => none)))

/-- PIT.XLOCK (R286-R288). -/
def execPitXlock (w g : Nat) (s : State) : Host.Outcome State Fault Refusal :=
  perform s (pitIssue s (.pitXlock w g) 0 w g false (fun _ => fieldsLock) none)

/-- PIT.XUNLOCK (R286-R288). -/
def execPitXunlock (w g : Nat) (s : State) : Host.Outcome State Fault Refusal :=
  perform s (pitIssue s (.pitXunlock w g) 0 w g false (fun _ => fieldsLock) none)

/-- PIT.FENCE (R292): a command that starts once the earlier pit commands of the core are done. -/
def execPitFence (g : Nat) (s : State) : Host.Outcome State Fault Refusal :=
  perform s (do
    kBefore s [] [g]
    let sig ← kSig s g
    pure [.kcmd (kEngine s) (kCmd s (.pitFence g) sig)])

/-! ### Dispatch (R287) -/

/-- The stack, channel and pit engine of an HBM address (R282, R283). -/
def hbmStack (pa : Nat) : Nat := pa / 65536 % 12
def hbmChannel (pa : Nat) : Nat := pa / 65536 / 12 % 32
def hbmEngine (pa : Nat) : Nat := hbmStack pa * 16 + hbmChannel pa / 2

/-- A pit command as sent, its operands still to be filled in. -/
def pitOfK (core eng : Nat) (k : KCmd) : PitCmd :=
  { op := fld k.word 26 6, core := core, serial := k.serial, seq := k.seq, tag := k.tag, keng := eng, sig := none, group := 0, pars := [],
    addrs := [], vals := [], places := [], tileOff := bdOff k.tile.bd, tileLen := bdLen k.tile.bd, status := 0, statusAt := 0, flags := 0, rows := 0,
    acc := [], ran := false,
    home := k.home
    marked := fld k.word 26 6 == 0x22 }

/-- A status met at a place of the command; the first in command order is the one reported (R288). -/
def pitMeet (c : PitCmd) (st place : Nat) : PitCmd :=
  if c.status = 0 ∨ place < c.statusAt then { c with status := st, statusAt := place } else c

/-- The address of memory that a pit engine will read and write (R284, R287). -/
def pitAddr (s : State) (core eng : Nat) (k : KCmd) (va n : Nat) : Except KStop Nat :=
  (kPieces s core eng k true true false true 3 [(va, n)]).map fun ps => (ps.headD (0, 0)).1

/-- INT32 and FP32 codes of a row of the tile, n lanes. -/
def pitRowCodes (s : State) (v : TileView) (row lanes n : Nat) : Except KStop (List Nat) :=
  (kLocal s v (4 * lanes * row) (4 * n)).map fun bs => (List.range n).map fun i => bytesNat ((bs.drop (4 * i)).take 4)

/-- SCALEADD: every row of y in HBM, in the engine of row 0; all rows are translated before their engines are compared, so that a row which does not
translate parks the command even behind one of another engine (R289, log 119). -/
def sendScaleadd (s : State) (core : Nat) (k : KCmd) (base : PitCmd) : Except KStop (List (Nat × PitCmd)) := do
  let n := bytesNat (k.wrec.take 4)
  let y := bytesNat ((k.wrec.drop 8).take 8)
  let v := viewOf core k.tile
  let pas ← (List.range n).mapM fun i => pitAddr s core base.keng k (y + 1024 * i) 1024
  let e := hbmEngine (pas.headD 0)
  match (List.range n).find? (fun i => hbmEngine (pas.getD i 0) != e) with
  | some i => .error (.park (parkWord (y + 1024 * i) 3))
  | none => pure ()
  let xs ← (List.range n).mapM fun i => pitRowCodes s v i 256 256
  pure [(e, { base with pars := [bytesNat ((k.wrec.drop 4).take 4)], addrs := pas, vals := xs.flatten, places := List.range n })]

/-- One element of ATOMADD added to the parts: to its engine's part, or to a new one. -/
def atomPart (base : PitCmd) (ps : List (Nat × PitCmd)) (e pa v i : Nat) : List (Nat × PitCmd) :=
  let add (c : PitCmd) : PitCmd := { c with addrs := c.addrs ++ [pa], vals := c.vals ++ [v], places := c.places ++ [i] }
  if ps.any (fun p => p.1 == e) then ps.map fun p => if p.1 = e then (e, add p.2) else p else ps ++ [(e, add base)]

/-- ATOMADD: one command for each pit engine that the elements reach (R287, R290). -/
def sendAtomadd (s : State) (core : Nat) (k : KCmd) : List Nat → PitCmd → List (Nat × PitCmd) → Except KStop (PitCmd × List (Nat × PitCmd))
  | [], base, ps => .ok (base, ps)
  | i :: is, base, ps => do
    let v := viewOf core k.tile
    let cs ← pitRowCodes s v i 2 2
    let j := cs.getD 0 0
    if j = 0xFFFFFFFF then sendAtomadd s core k is base ps
    else if bytesNat ((k.wrec.drop 0x10).take 4) ≤ j then sendAtomadd s core k is (pitMeet base 2 i) ps
    else do
      let pa ← pitAddr s core base.keng k (bytesNat ((k.wrec.drop 8).take 8) + 4 * j) 4
      sendAtomadd s core k is base (atomPart base ps (hbmEngine pa) pa (cs.getD 1 0) i)

/-- ATTN: the query read from row 0 (R291). -/
def sendAttn (s : State) (core : Nat) (k : KCmd) (base : PitCmd) : Except KStop (List (Nat × PitCmd)) := do
  let q (o : Nat) : Nat := bytesNat ((k.wrec.drop o).take 4)
  let xs ← pitRowCodes s (viewOf core k.tile) 0 128 (q 0x14)
  pure [(q 0, { base with pars := [q 0, q 4, q 8, q 0x0C, q 0x10, q 0x14, q 0x18], vals := xs })]

/-- The unit that the eight pages of an address map to, if they map to one unit of an engine in order; a page in the loft or on another module
parks the command (R284, R294, R377). -/
def xloadUnit (s : State) (core : Nat) (k : KCmd) (engine va : Nat) : Except KStop (Option Nat) := do
  let pas ← (List.range 8).mapM fun i =>
    match xlate s core (if k.sm then .stageManager else .cue) (rootPa (coreOf s core).ctx.droot) (va + 8192 * i) true false with
    | .error r => .error (.park (parkWord (va + 8192 * i) r))
    | .ok q => if !tierOk 4 q.1 then .error (.park (parkWord (va + 8192 * i) 3)) else pure q.1
  let p0 := pas.headD 0
  pure (if va % 65536 = 0 ∧ p0 % 65536 = 0 ∧ isHbm p0 ∧ hbmEngine p0 = engine ∧ pas = (List.range 8).map (fun i => p0 + 8192 * i)
    then some (p0 / 65536) else none)

/-- XLOAD: each entry's unit, or the status that skips it (R294). -/
def sendXload (s : State) (core : Nat) (k : KCmd) (base : PitCmd) : Except KStop (List (Nat × PitCmd)) := do
  let engine := bytesNat (k.wrec.take 4)
  let v := viewOf core k.tile
  let es ← (List.range (v.ext 0)).mapM fun i => do
    let cs ← pitRowCodes s v i 4 4
    let sq := cs.getD 0 0
    let bl := cs.getD 1 0
    if 2 ^ 16 ≤ sq ∨ 2 ^ 18 ≤ bl then pure (0, [sq, bl, 2])
    else do
      let u ← xloadUnit s core k engine (cs.getD 2 0 + 2 ^ 32 * cs.getD 3 0)
      pure (match u with | some u => (u, [sq, bl, 0]) | none => (0, [sq, bl, 0x14]))
  pure [(engine, { base with addrs := es.map Prod.fst, vals := es.flatMap Prod.snd, places := List.range es.length })]

/-- The parts of a command, with what the command is as a whole. -/
def pitParts (s : State) (core eng : Nat) (k : KCmd) : Except KStop (PitCmd × List (Nat × PitCmd)) :=
  let base := pitOfK core eng k
  let q (o : Nat) : Nat := bytesNat ((k.wrec.drop o).take 4)
  match fld k.word 26 6 with
  | 0x20 => (sendScaleadd s core k base).map fun ps => (base, ps)
  | 0x21 => sendAtomadd s core k (List.range ((viewOf core k.tile).ext 0)) base []
  | 0x22 => (sendAttn s core k base).map fun ps => (base, ps)
  | 0x24 => (sendXload s core k base).map fun ps => (base, ps)
  | _ => .ok (base, [(q 0, { base with pars := [q 0, q 4, q 8, q 0x0C] })])

/-- The completion word's translated address, not in the loft nor on another module; a fault there parks the command before it is sent, and the core's
earlier accesses to the word and what the engine sent there perform first (R267, R284, R287, R335, R377). -/
def pitSig (s : State) (core eng : Nat) (k : KCmd) : Except KStop (Option Nat) :=
  match k.sig with
  | none => .ok none
  | some va => do
    let ps ← kPieces s core eng k false true false false 4 [(va, 8)]
    let pa := (ps.headD (0, 0)).1
    if engineWaits s core eng k.seq pa 8 true then .error .wait else pure (some pa)

/-- The addresses that a dispatch translates, in order: those of its rows, elements or units, then its completion word (R287, R289, R290, R294). -/
def pitVas (s : State) (core : Nat) (k : KCmd) : List Nat :=
  let v := viewOf core k.tile
  let q (o n : Nat) : Nat := bytesNat ((k.wrec.drop o).take n)
  let w (o n : Nat) : Nat := bytesNat (coreLoad s core (v.off + o) n)
  (match fld k.word 26 6 with
    | 0x20 => (List.range (q 0 4)).map fun i => q 8 8 + 1024 * i
    | 0x21 => (List.range (v.ext 0)).filterMap fun i => if q 0x10 4 ≤ w (8 * i) 4 then none else some (q 8 8 + 4 * w (8 * i) 4)
    | 0x24 => (List.range (v.ext 0)).flatMap fun i =>
      if 2 ^ 16 ≤ w (16 * i) 4 ∨ 2 ^ 18 ≤ w (16 * i + 4) 4 then [] else (List.range 8).map fun p => w (16 * i + 8) 8 + 8192 * p
    | _ => []) ++ k.sig.toList

/-- The walks of a dispatch leave their notes, up to the page that parks it (R9, R372). -/
def pitWalked (s : State) (core : Nat) (k : KCmd) (stop : Option Nat) : State :=
  ((pitVas s core k).takeWhile fun va => stop != some (va / 8192)).foldl
    (fun st va => walkMet st core false (rootPa (coreOf s core).ctx.droot) va) s

/-- Flags set in the STICKY of the cue that issued a command: on its core, be it stopped or halted, or saved (R289). -/
def pitFlags (s : State) (core serial : Nat) (f : Word) : State :=
  let c := coreOf s core
  let put (x : Ctxt) : Ctxt := { x with sticky := stickySet x.sticky (f &&& (flagOver ||| flagInexact ||| flagInvalid)) }
  if runsCue c serial then setCoreOf s core { c with ctx := put c.ctx }
  else setCoreOf s core { c with saved := c.saved.map fun e => if e.2.serial = serial then (e.1, put e.2) else e }

/-- A pit command is done: its flags, then its completion word, a release at mod scope (R286, R288, R289, R337). -/
def pitDone (s : State) (c : PitCmd) : State :=
  let s' := pitFlags s c.core c.serial c.flags
  match c.sig with
  | some pa =>
    let s'' := physWrite s' pa (natBytes 8 (if c.status = 0 then 1 else c.status))
    if windowBusy s' pa 8 then s'' else released s'' pa 8 c.core 3
  | none => s'

/-- PIT_DISPATCH performed: the running pit command of an engine is sent, parks, fails or waits for room (R287, R402). -/
def pitDispatch (s : State) (core eng : Nat) : State :=
  match kRunning s core eng with
  | none => s
  | some k =>
    if !kIsPit k then s
    else
      let sent : Except KStop (PitCmd × List (Nat × PitCmd)) := do
        kSound s core eng
        let p ← pitParts s core eng k
        let sig ← pitSig s core eng k
        if (p.2.any fun e => decide (64 ≤ (pitOf s e.1).queue.length)) || (p.2.isEmpty && sig.isSome && owes s core 3) then .error .wait
        let fin (c : PitCmd) : PitCmd := { c with sig := sig, group := s.house.nextGroup, status := p.1.status, statusAt := p.1.statusAt }
        pure (fin p.1, p.2.map fun e => (e.1, fin e.2))
      match sent with
      | .error e =>
        let s0 := match e with | .park w => pitWalked s core k (some (w.toNat / 8192)) | _ => s
        setKq (kMet s0 core eng e) core eng (kStopped k e :: (kQueue (coreOf s core).ctx eng).drop 1)
      | .ok p =>
        let s1 := setKq (pitWalked s core k none) core eng ((kQueue (coreOf s core).ctx eng).drop 1)
        let s2 : State := { s1 with house := { s1.house with nextGroup := s1.house.nextGroup + 1 } }
        let s3 := p.2.foldl (fun st e => setPit st e.1 { pitOf st e.1 with queue := (pitOf st e.1).queue ++ [e.2] }) s2
        if p.2.isEmpty then pitDone s3 p.1 else s3

/-- PIT_DISPATCH (R287). -/
def execPitDispatch (core eng : Nat) (s : State) : Host.Outcome State Fault Refusal :=
  if core < Config.cores then .next (pitDispatch s core (eng % 2)) else .fault (.noSuchAgent core)

/-! ### Rows (R285, R289-R295) -/

/-- A status that calls for a trap is on its way (R296, R297). -/
def pitReport (s : State) (c : PitCmd) (code info : Nat) : State :=
  { s with house := { s.house with statuses := s.house.statuses ++ [⟨c.core, c.serial, c.tag, code, BitVec.ofNat 64 info⟩] } }

/-- How many units a command runs through; PIT.ATTN reads its K rows twice, and its last unit writes the result (R291). -/
def pitTotal (c : PitCmd) : Nat :=
  match c.op with
  | 0x20 | 0x21 | 0x24 => c.places.length
  | 0x22 => 2 * c.pars.getD 4 0 + 1
  | _ => c.pars.getD 3 0

/-- A x + y rounded once (R289); x alone for an addition (R290). -/
def pitFma (a : Option FV) (x y : Nat) : Nat × Word :=
  let p : FV × Word := match a with | some v => fvMul v (decodeElt 0x12 x) | none => (decodeElt 0x12 x, 0)
  let t := fvSum false [p.1, decodeElt 0x12 y]
  let r := encodeElt 0x12 0 t.1
  (r.1, p.2 ||| t.2 ||| r.2)

/-- Row operation k of SCALEADD or addition k of ATOMADD: n lanes at an address (R289, R290); an uncorrectable error ends the command there (R285). -/
def pitAdd (s : State) (c : PitCmd) (a : Option FV) (k n : Nat) : State × PitCmd :=
  let pa := c.addrs.getD k 0
  match badAddr s pa (4 * n) with
  | some a => (pitReport (errorMet s a) c 14 a, { pitMeet c 0x12 (c.places.getD k 0) with rows := pitTotal c })
  | none =>
    let rs := (List.range n).map fun i => pitFma a (c.vals.getD (n * k + i) 0) (physNat s (pa + 4 * i) 4)
    (physWrite s pa (rs.flatMap fun r => natBytes 4 r.1), { c with rows := k + 1, flags := rs.foldl (fun f r => f ||| r.2) c.flags })

/-- The unit of a key in a translation memory (R293). -/
def tmFind (tm : List TmEnt) (sq bl : Nat) : Option TmEnt := tm.find? fun e => e.seq == sq && e.blk == bl

/-- Entry k of XLOAD placed (R294); the list keeps the order of loading. -/
def xloadEntry (s : State) (pit : Nat) (c : PitCmd) (k : Nat) : State × PitCmd :=
  let p := pitOf s pit
  let sq := c.vals.getD (3 * k) 0
  let bl := c.vals.getD (3 * k + 1) 0
  let st := c.vals.getD (3 * k + 2) 0
  let u := c.addrs.getD k 0
  let c' := { c with rows := k + 1 }
  if st ≠ 0 then (s, pitMeet c' st k)
  else match tmFind p.tm sq bl with
    | some e => (setPit s pit { p with tm := p.tm.filter (fun o => o != e) ++ [{ e with unit := u }] }, c')
    | none =>
      if p.tm.length < 4096 then (setPit s pit { p with tm := p.tm ++ [⟨sq, bl, u, false⟩] }, c')
      else match p.tm.find? (fun e => !e.locked) with
        | some e => (setPit s pit { p with tm := p.tm.erase e ++ [⟨sq, bl, u, false⟩] }, c')
        | none => (s, pitMeet c' 0x11 k)

/-- Key k of XLOCK or XUNLOCK (R295). -/
def lockEntry (s : State) (pit : Nat) (c : PitCmd) (k : Nat) : State × PitCmd :=
  let p := pitOf s pit
  let sq := c.pars.getD 1 0
  let bl := c.pars.getD 2 0 + k
  let c' := { c with rows := k + 1 }
  match tmFind p.tm sq bl with
  | some _ => (setPit s pit { p with tm := p.tm.map fun e => if e.seq = sq ∧ e.blk = bl then { e with locked := c.op == 0x25 } else e }, c')
  | none => (s, pitMeet c' 0x13 k)

/-- A sum rounded to FP32, with the flags of its terms and of the rounding. -/
def pitSum (ts : List (FV × Word)) : Nat × Word :=
  let t := fvSum false (ts.map Prod.fst)
  let r := encodeElt 0x12 0 t.1
  (r.1, ts.foldl (fun f t => f ||| t.2) (t.2 ||| r.2))

/-- FP32 codes as bytes, padded with +0 to 128 lanes. -/
def attnLanes (cs : List Nat) : List Byte := (cs ++ List.replicate (128 - cs.length) 0).flatMap (natBytes 4)

/-- n BF16 codes at an address. -/
def bf16Codes (s : State) (pa n : Nat) : List Nat := (List.range n).map fun d => physNat s (pa + 2 * d) 2

/-- The score of a K row: the exact dot product, scaled, rounded once (R291). -/
def attnScore (c : PitCmd) (k : List Nat) : Nat × Word :=
  let ts := (c.vals.zip k).map fun p => fvMul (decodeElt 0x12 p.1) (decodeElt 0x0F p.2)
  let t := fvSum false (ts.map Prod.fst)
  let x := fvMul (decodeElt 0x12 (c.pars.getD 1 0)) t.1
  let r := encodeElt 0x12 0 x.1
  (r.1, ts.foldl (fun f t => f ||| t.2) (t.2 ||| x.2 ||| r.2))

/-- The greatest of the scores, with its flags. -/
def attnMax (c : PitCmd) : FV × Word := fvPickList true ((c.acc.take (c.pars.getD 4 0)).map (decodeElt 0x12))

/-- The weight of a score under the greatest one (R291). -/
def attnWeight (m : FV) (sc : Nat) : Nat × Word :=
  let d := fvSum false [decodeElt 0x12 sc, fvNeg m]
  let e := exp2Val (encodeElt 0x12 0) d.1
  (e.1, d.2 ||| e.2)

/-- The result rows from what the rows gathered: `acc` holds the scores, then for each token its weight and its V row (R291). -/
def attnResult (c : PitCmd) : List Byte × Word :=
  let n := c.pars.getD 4 0
  let h := c.pars.getD 5 0
  let m := attnMax c
  let at' (t d : Nat) : Nat := c.acc.getD (n + (h + 1) * t + d) 0
  let pv := (List.range n).map fun t => decodeElt 0x12 (at' t 0)
  let l := pitSum (pv.map (·, 0#64))
  let sums := (List.range h).map fun d => pitSum (pv.mapIdx fun t p => fvMul p (decodeElt 0x0F (at' t (d + 1))))
  (attnLanes (sums.map Prod.fst) ++ attnLanes [(encodeElt 0x12 0 m.1).1, l.1], sums.foldl (fun f r => f ||| r.2) (m.2 ||| l.2))

/-- The result of PIT.ATTN reaches its tile: the core's own storage while it is marked, else as a remote write, which may wait there (R288, R299). -/
def attnWrite (s : State) (c : PitCmd) (bs : List Byte) : State :=
  if c.marked && runsCue (coreOf s c.core) c.serial then coreStore s c.core c.tileOff bs else windowWrite s c.core c.tileOff bs (some c.group)

/-- A pit command aborts with a status, which its core is told of (R285, R296). -/
def pitAbort (s : State) (c : PitCmd) (code info status : Nat) : State × PitCmd :=
  (pitReport s c code info, { pitMeet c status c.rows with rows := pitTotal c })

/-- The lookups of PIT.ATTN, before any data is read: its units, or the first block without one (R291, R293). -/
def attnUnits (s : State) (pit : Nat) (c : PitCmd) : Except Nat (List Nat) :=
  let p (k : Nat) : Nat := c.pars.getD k 0
  ((List.range ((p 4 + 63) / 64)).map (p 3 + ·)).mapM fun b =>
    match tmFind (pitOf s pit).tm (p 2) b with | some e => .ok e.unit | none => .error b

/-- What a row of PIT.ATTN waits for: the issuing core's earlier scalar accesses to its bytes, what its copy engine sent there before it, and
writes that the core is ordered after and that have performed at a narrow scope only (R335, R340, R344). -/
def attnWaits (s : State) (c : PitCmd) (pa n : Nat) : Bool :=
  earlierMeets s c.core c.seq pa n ||
    (coreOf s c.core).pend.any (fun a => a.kind == .posted c.keng && decide (a.seq ≤ c.seq) && a.meets pa n) ||
    scopeHeld s c.core pa n false fun _ => true

/-- Row k of PIT.ATTN: the K rows for the scores, the K and V rows for the sums, then the result (R291). A row with an error aborts the command
(R285). -/
def attnRow (s : State) (c : PitCmd) (k : Nat) : State × PitCmd :=
  let n := c.pars.getD 4 0
  let h := c.pars.getD 5 0
  let t := k % n
  let ka := c.addrs.getD (t / 64) 0 * 65536 + c.pars.getD 6 0 + 2 * h * (t % 64)
  let va := ka + 128 * h
  let step (xs : List Nat) (f : Word) : State × PitCmd := (s, { c with rows := k + 1, acc := c.acc ++ xs, flags := c.flags ||| f })
  if 2 * n ≤ k then
    let r := attnResult c
    (attnWrite s c r.1, { c with rows := k + 1, flags := c.flags ||| r.2 })
  else if attnWaits s c ka (2 * h) || (decide (n ≤ k) && attnWaits s c va (2 * h)) then (s, c)
  else match (badAddr s ka (2 * h)).or (if n ≤ k then badAddr s va (2 * h) else none) with
    | some a => pitAbort (errorMet s a) c 14 a 0x12
    | none =>
      let sc := attnScore c (bf16Codes s ka h)
      if k < n then step [sc.1] sc.2
      else
        let w := attnWeight (attnMax c).1 sc.1
        step (w.1 :: bf16Codes s va h) (sc.2 ||| w.2)

/-- Unit k of PIT.ATTN: before the first, the lookups; a miss aborts the command (R291, R296). -/
def attnRun (s : State) (pit : Nat) (c : PitCmd) (k : Nat) : State × PitCmd :=
  if k ≠ 0 then attnRow s c k
  else match attnUnits s pit c with
    | .error b => pitAbort s c 13 (c.tag % 256 * 2 ^ 56 + b % 2 ^ 18 * 2 ^ 38 + c.pars.getD 2 0 * 2 ^ 22 + pit * 2 ^ 14 + c.keng * 2 ^ 13) 0x10
    | .ok us => attnRow s { c with addrs := us } 0

/-- Unit k of a command. -/
def pitUnit (s : State) (pit : Nat) (c : PitCmd) (k : Nat) : State × PitCmd :=
  match c.op with
  | 0x20 => pitAdd s c (some (decodeElt 0x12 (c.pars.getD 0 0))) k 256
  | 0x21 => pitAdd s c none k 1
  | 0x22 => attnRun s pit c k
  | 0x24 => xloadEntry s pit c k
  | _ => lockEntry s pit c k

/-- Up to n further units of a command; the completed ones are never repeated, nor what went ahead of its turn (R298, R336). -/
def pitRows (pit : Nat) : Nat → State → PitCmd → State × PitCmd
  | 0, s, c => (s, c)
  | n + 1, s, c => 
    if pitTotal c ≤ c.rows then (s, c)
    else
      let r := if c.ahead.contains c.rows then (s, { c with rows := c.rows + 1 }) else pitUnit s pit c c.rows
      pitRows pit n r.1 r.2

/-- The head of a pit engine's queue goes on by up to n units. -/
def pitAdvance (s : State) (pit n : Nat) : State :=
  match (pitOf s pit).queue with
  | [] => s
  | c :: cs => if c.ran then let r := pitRows pit n s c; setPit r.1 pit { pitOf r.1 pit with queue := r.2 :: cs } else s

/-- Whether the head of a pit engine runs with its channel granted. -/
def pitGoing (s : State) (pit : Nat) : Bool := match (pitOf s pit).queue with | c :: _ => c.ran && !(pitOf s pit).suspended | [] => false

/-- Row operation or addition k of the running SCALEADD or ATOMADD performs before those that come first in its order, where it shares no byte with
one of them and no error ends the command among them (R285, R336). -/
def pitAddAhead (s : State) (pit k : Nat) : State :=
  match (pitOf s pit).queue with
  | [] => s
  | c :: cs =>
    let n := if c.op = 0x20 then 1024 else 4
    let at' (j : Nat) : Nat := c.addrs.getD j 0
    let before := ((List.range (k - c.rows)).map (c.rows + ·)).filter fun j => !c.ahead.contains j
    if pitGoing s pit && (c.op == 0x20 || c.op == 0x21) && decide (c.rows < k) && decide (k < pitTotal c) && !c.ahead.contains k &&
        (k :: before).all (fun j => (badAddr s (at' j) n).isNone) && !before.any (fun j => overlaps (at' j) n (at' k) n) then
      let r := pitUnit s pit c k
      setPit r.1 pit { pitOf r.1 pit with queue := { r.2 with rows := c.rows, ahead := k :: c.ahead } :: cs }
    else s

/-- PIT_COMMAND_RUN performed: the oldest command begins (R287). -/
def pitStart (s : State) (pit : Nat) : State :=
  match (pitOf s pit).queue with
  | [] => s
  | c :: cs => setPit s pit { pitOf s pit with queue := { c with ran := true } :: cs }

/-- A part leaves its engine: merged into another part of its command that still runs or waits, or, as the last one, the command is done
(R286-R288, R344). -/
def pitLeave (s : State) (c : PitCmd) : State :=
  let same (d : PitCmd) : Bool := d.group == c.group
  if s.pits.any fun p => (p.2.queue ++ p.2.sent).any same then
    let join (d : PitCmd) : PitCmd :=
      if same d then { (if c.status = 0 then d else pitMeet d c.status c.statusAt) with flags := d.flags ||| c.flags } else d
    { s with pits := s.pits.map fun p => (p.1, { p.2 with queue := p.2.queue.map join, sent := p.2.sent.map join }) }
  else pitDone s c

/-- Whether a part of a command's result waits where it goes to (R258), or its completion word for what its core is ordered after, which it
releases at mod scope (R286, R338). -/
def pitHeld (s : State) (c : PitCmd) : Bool :=
  (coreOf s c.core).remote.any (fun h => h.pit == some c.group) || (c.sig.isSome && owes s c.core 3)

/-- The parts of a pit engine whose last write has performed leave it (R286, R299). -/
def pitArrived (s : State) (pit : Nat) : State :=
  let p := pitOf s pit
  let here (c : PitCmd) : Bool := !pitHeld s c
  (p.sent.filter here).foldl pitLeave (setPit s pit { p with sent := p.sent.filter fun c => !here c })

/-- PIT_COMMAND_COMPLETE performed: the rest of the running command's units, then its end; a command whose result waits leaves its engine. -/
def pitComplete (s0 : State) (pit : Nat) : State :=
  let s := pitArrived s0 pit
  if !pitGoing s pit then s
  else match (pitOf s pit).queue with
    | [] => s
    | c :: _ =>
      let s1 := pitAdvance s pit (pitTotal c - c.rows)
      match (pitOf s1 pit).queue with
      | [] => s1
      | d :: ds =>
        if d.rows < pitTotal d then s1
        else if pitHeld s1 d then setPit s1 pit { pitOf s1 pit with queue := ds, sent := (pitOf s1 pit).sent ++ [d] }
        else pitLeave (setPit s1 pit { pitOf s1 pit with queue := ds }) d

/-- PIT_COMMAND_RUN (R287). -/
def execPitCommandRun (pit : Nat) (s : State) : Host.Outcome State Fault Refusal :=
  if pit < 192 then .next (pitStart s pit) else .fault (.noSuchAgent pit)

/-- PIT_COMMAND_COMPLETE (R286-R295). -/
def execPitCommandComplete (pit : Nat) (s : State) : Host.Outcome State Fault Refusal :=
  if pit < 192 then .next (pitComplete s pit) else .fault (.noSuchAgent pit)

/-- How far the running command has come when its channel is taken: free within what is left (R298, log 4). -/
def pitFree (s : State) (pit : Nat) : Nat :=
  match (pitOf s pit).queue with | c :: _ => freeBelow s 0 (pitTotal c - c.rows + 1) | [] => 0

/-- PIT_SUSPEND: the command stops at the end of a row operation (R298). -/
def execPitSuspend (pit : Nat) (s : State) : Host.Outcome State Fault Refusal :=
  if pit < 192 then
    .next (if pitGoing s pit then
      let s1 := pitAdvance s pit (pitFree s pit)
      setPit s1 pit { pitOf s1 pit with suspended := true }
    else s)
  else .fault (.noSuchAgent pit)

/-- PIT_RESUME: the command goes on where it stopped (R298). -/
def execPitResume (pit : Nat) (s : State) : Host.Outcome State Fault Refusal :=
  if pit < 192 then .next (setPit s pit { pitOf s pit with suspended := false }) else .fault (.noSuchAgent pit)

/-- PIT_WINDOW_END: the command gives its channel up and arbitrates again (R298). -/
def execPitWindowEnd (pit : Nat) (s : State) : Host.Outcome State Fault Refusal :=
  if pit < 192 then
    .next (if pitGoing s pit then
      let s1 := pitAdvance s pit (pitFree s pit)
      setPit s1 pit { pitOf s1 pit with windows := (pitOf s1 pit).windows + 1 }
    else s)
  else .fault (.noSuchAgent pit)

/-! ### Statuses (R296, R297) -/

/-- A status reaches the core it names. -/
def statusArrive (s : State) (idx : Nat) : State :=
  match s.house.statuses[idx]? with
  | some t =>
    deliverTrap { s with house := { s.house with statuses := s.house.statuses.eraseIdx idx } } t.core t.serial ⟨t.code, t.info, false, t.tag⟩
  | none => s

/-- PIT_STATUS_ARRIVAL (R296, R297). -/
def execPitStatusArrival (idx : Nat) (s : State) : Host.Outcome State Fault Refusal := .next (statusArrive s idx)

end Sys2Proof.Machine
end

