-- ==== Sys2Proof/Machine/Prompter.lean ====
section
/-! DEFINITION. The prompter: guards, checks, drops, picks and starts (R306-R311), pre-staging (R312, R313), pre-emption (R314-R316, R361),
resumes (R368), and the enqueue buffer (R305). -/

namespace Sys2Proof.Machine

/-! ### Heads of wings -/

/-- The mode in which a wing's addresses are used: that of its cues (R304). -/
def wingMode (w : Wing) : Mode := if wingSm w then .stageManager else .cue

/-- The roots of a wing's cues (R303, R356). -/
def wingIroot (w : Wing) : Word := BitVec.ofNat 64 (fld w.qroot.toNat 32 28 * 2 ^ 13)
def wingDroot (w : Wing) : Word := BitVec.ofNat 64 (fld w.qroot.toNat 0 28 * 2 ^ 13)

/-- What the guard of a head says (R302, R307). -/
inductive Guard where | go | pending | refuted | unreadable
  deriving DecidableEq, Repr

/-- A span translated under a wing's DROOT by its die; the walk uses the die's TLBs (R307, R358). -/
def wingSpan (s : State) (die w va n : Nat) (rd wr : Bool) : Option (List (Nat × Nat)) :=
  let x := wingOf s die w
  match xlateSpan s (die * 64) (wingMode x) (rootPa (wingDroot x)) va n rd wr with
  | .ok ps => some ps
  | .error _ => none

/-- The walks of a span under a wing's DROOT leave their notes (R9, R372). -/
def wingMet (s : State) (die w va n : Nat) : State :=
  (pieces va n (n / 8192 + 2)).foldl (fun st p => walkMet st (die * 64) false (rootPa (wingDroot (wingOf s die w))) p.1) s

/-- GKIND of a record (R301). -/
def recGkind (r : List Byte) : Nat := fld (recWord r 6) 62 2

/-- The guard of a record, read now as its die sees it (R307, R332); a word that an atomic operation has changed at die scope alone counts as not yet
written (R99, log 11). -/
def guardOf (s : State) (die w : Nat) (r : List Byte) : Guard :=
  let g := recWord r 5
  if g = 0 then .go
  else if g % 8 ≠ 0 then .unreadable
  else match wingSpan s die w g 8 true false with
    | none => .unreadable
    | some ps =>
      if ps.any fun p => isBad s p.1 p.2 then .unreadable
      else if ps.any fun p => dieAmo s die p.1 p.2 then .pending
      else
        let v := bytesNat (diePieces s die ps)
        if fld v 63 1 = 0 then .pending
        else if waitHolds (recGkind r) (sextNat 32 (v % 2 ^ 32)) (sextNat 32 (recWord r 7 % 2 ^ 32)) then .go else .refuted

/-- Statuses 1 and 2 of R308; 0 passes. -/
def recStatus (r : List Byte) : Nat :=
  let d := BitVec.ofNat 64 (recWord r 6)
  if declMalformed false d || declExceeds d then 1
  else if recWord r 0 % 32 ≠ 0 ∨ fld (recWord r 6) 46 14 ≠ 0 then 2
  else 0

/-- The record slot of a core and class, under the wing's DROOT (R309). -/
def slotVa (s : State) (core w : Nat) : Nat := (dieOf s (dieOfCore core)).ctab.toNat + (core % 64 * 8 + w) * 64

/-- Where the record is written at a start; the prompter's own access is refused by no SM bit (R308 status 4; log 18). -/
def slotPieces (s : State) (core w : Nat) : Option (List (Nat × Nat)) :=
  match xlateSpan s core .stageManager (rootPa (wingDroot (wingOf s (dieOfCore core) w))) (slotVa s core w) 64 false true with
  | .ok ps => some ps
  | .error _ => none

/-- The walk to a record's slot leaves its notes (R372). -/
def slotMet (s : State) (core w : Nat) : State := walkMet s core false (rootPa (wingDroot (wingOf s (dieOfCore core) w))) (slotVa s core w)

/-- The pieces of J and J + 64 for a dropped cue's join step: none where the step fails (R319). -/
def dropPieces (s : State) (die w j : Nat) : Option (List (Nat × Nat) × List (Nat × Nat)) :=
  match wingSpan s die w j 8 true true, wingSpan s die w (j + 64) 64 true false with
  | some a, some b => if a.any fun p => isBad s p.1 p.2 then none else some (a, b)
  | _, _ => none

/-- A head dropped by a false guard: its join step, then it leaves (R307, R313, R319). Nothing while its continuation finds no room (R305). An error
under the counter loses the step and starts a self-test (R372). -/
def dropHead (s0 : State) (die w : Nat) (r : List Byte) : Option State :=
  let x := wingOf s0 die w
  let j := recWord r 2
  let s := if j = 0 then s0 else wingMet (wingMet s0 die w j 8) die w (j + 64) 64
  if j = 0 then some (wingPop s die w)
  else match dropPieces s die w j with
    | none => some (logErr (piecesMet (wingPop s die w) ((wingSpan s die w j 8 true true).getD [])) .joinLost die j 0)
    | some (a, b) => if joinRoom s die (wingSm x) a b then some (joinStep (wingPop s die w) die (wingSm x) j a b) else none

/-- A head that fails its check (R308): its fault continuation, or the error log; then it leaves. An error under the continuation starts a
self-test (R372). -/
def failHead (s : State) (die w status : Nat) (r : List Byte) : Option State :=
  let x := wingOf s die w
  let j := recWord r 2
  let gone := if fld (recWord r 6) 61 1 = 1 ∧ j ≠ 0 then wingMet (wingPop s die w) die w (j + 128) 64 else wingPop s die w
  let cont := if fld (recWord r 6) 61 1 = 1 ∧ j ≠ 0 then wingSpan s die w (j + 128) 64 true false else none
  match cont with
  | none => some (logErr gone .cueFailed die w status)
  | some ps =>
    if ps.any fun p => isBad s p.1 p.2 then some (logErr (piecesMet gone ps) .cueFailed die w status)
    else
      let k := recWith (recWith (diePieces s die ps) 3 status) 4 (recWord r 6)
      if hwRoom s die (recClass k) (wingSm x) then some (hwEnqueue (notePieces gone ps) die (wingSm x) k) else none

/-- The wings of a die that hold an entry. -/
def liveWings (s : State) (die : Nat) : List Nat :=
  (List.range 8).filter fun w => wingBase (wingOf s die w) != 0 && decide (0 < wingOcc (wingOf s die w))

/-- An error under the guard of a head starts a self-test (R372). -/
def guardMet (s : State) (die w : Nat) (r : List Byte) : State :=
  piecesMet s ((wingSpan s die w (recWord r 5) 8 true false).getD [])

/-- The prompter reads a die's heads and their guards; a read of a disabled core's window is logged, and an error in a head starts a self-test
(R9, R307, R372). -/
def guardNotes (s : State) (die : Nat) : State := (liveWings s die).foldl (fun st w =>
  let g := recWord (wingHead s die w) 5
  let head := [(wingHeadPa s die w, 64)]
  let st := piecesMet (notePieces st head) head
  if g = 0 ∨ g % 8 ≠ 0 then st else notePieces (wingMet st die w g 8) ((wingSpan s die w g 8 true false).getD [])) s

/-- A head that a false or unreadable guard settles without a core (R307). -/
def settleHead (s : State) (die w : Nat) : Option State :=
  let r := wingHead s die w
  match guardOf s die w r with
  | .refuted => dropHead s die w r
  | .unreadable => failHead (guardMet s die w r) die w (if recStatus r = 0 then 3 else recStatus r) r
  | _ => none

/-! ### Picks (R306, R310) -/

/-- The effective class of a head (R310). -/
def effClass (w : Wing) (c : Nat) : Nat := if c < 2 then c else max 1 (c - w.age)

/-- A candidate: its class, a head after a saved context, the order of becoming head, its number. -/
structure Cand where
  cls : Nat
  head : Nat
  since : Nat
  num : Nat
  deriving DecidableEq, Repr

/-- The order of candidates (R306). -/
def candBefore (a b : Cand) : Bool :=
  decide (a.cls < b.cls) || (a.cls == b.cls && (decide (a.head < b.head) || (a.head == b.head &&
    (decide (a.since < b.since) || (a.since == b.since && decide (a.num < b.num))))))

/-- A core that can take a cue: enabled, in service, idle, not held by the debug port (R9, R306, R371, R373). -/
def coreIdle (s : State) (core : Nat) : Bool :=
  enabled s core && !coreRetired s core && (coreOf s core).status == .idle && !(coreOf s core).debugStop

/-- The lowest class saved on a core; 8 for none. -/
def savedLow (c : Core) : Nat := c.saved.foldl (fun m e => min m e.1) 8

/-- A ready head: its guard resolved true, and its cue either sound, with no write to its slot that only the die has seen so far, or able to fail
(R305, R306, R332). -/
def headReady (s : State) (core w : Nat) : Bool :=
  let die := dieOfCore core
  let r := wingHead s die w
  guardOf s die w r == .go &&
    (let slot := slotPieces s core w
     let st := if recStatus r ≠ 0 then recStatus r else if slot.isSome then 0 else 4
     if st = 0 then !dieHeld s die (slot.getD []) else (failHead s die w st r).isSome)

/-- The candidates of a core. -/
def candidates (s : State) (core : Nat) : List Cand :=
  let c := coreOf s core
  let die := dieOfCore core
  let heads := (liveWings s die).filter fun w => decide (w < savedLow c) && headReady s core w
  (c.saved.map fun e => ⟨e.1, 0, 0, e.1⟩) ++
    heads.map fun w => ⟨effClass (wingOf s die w) w, 1, (wingOf s die w).since, w⟩

/-- The candidate that the prompter takes. -/
def bestCand : List Cand → Option Cand
  | [] => none
  | c :: cs => some (cs.foldl (fun m x => if candBefore x m then x else m) c)

/-! ### Starting (R88, R309) -/

/-- The context of a cue that starts. R88 and R309 do not name REHEARSE, ESAVE, CAUSE, FAULTPC, FAULTINFO and SHAPEINFO, which the model
clears too (log 98). -/
def startCtx (s : State) (core w : Nat) (r : List Byte) : Ctxt :=
  let x := wingOf s (dieOfCore core) w
  let slot := BitVec.ofNat 64 (slotVa s core w)
  { Ctxt.start with
    pc := BitVec.ofNat 64 (recWord r 0)
    sregs := mput 2 slot (mput 1 (BitVec.ofNat 64 (recWord r 1)) [])
    mode := wingMode x
    cls := w
    decl := BitVec.ofNat 64 (recWord r 6)
    slotAddr := slot
    serial := ((coreOf s core).started + 1) % 2 ^ 32
    joinAddr := BitVec.ofNat 64 (recWord r 2)
    iroot := wingIroot x
    droot := wingDroot x }

/-- A record starts on a core: the record into its slot, the registers, the lines staged for it its own (R309, R313), the core ordered after what
its die has seen (R338, log 101). The record has left its wing by then. -/
def startCue (s : State) (core w : Nat) (r : List Byte) : State :=
  let r' := recSetClass r w
  let s1 := match slotPieces s core w with
    | some ps => writePieces s ps r'
    | none => s
  let s1 := observe s1 core 3
  let c := coreOf s1 core
  setCoreOf s1 core { c with status := .running, ctx := startCtx s1 core w r', started := (c.started + 1) % 2 ^ 32 }

/-- The lines staged for a wing's head become those of the cue that starts on a core. -/
def claimLines (s : State) (core w : Nat) : State :=
  let die := dieOfCore core
  let d := dieOf s die
  let serial := ((coreOf s core).started + 1) % 2 ^ 32
  setDie s die { d with prestage := d.prestage.map fun l => if l.wing = w ∧ l.owner = none then { l with owner := some (core, serial) } else l }

/-- A head taken for a core: started, or failed by its check (R308, R309). -/
def takeHead (s0 : State) (core w : Nat) : State :=
  let die := dieOfCore core
  let r := wingHead s0 die w
  let s := if recStatus r = 0 then slotMet s0 core w else s0
  let st := if recStatus r ≠ 0 then recStatus r else if (slotPieces s core w).isSome then 0 else 4
  if st ≠ 0 then (failHead s die w st r).getD s
  else startCue (wingPop (claimLines s core w) die w) core w r

/-- One pick for a core. -/
def pickFor (s : State) (core : Nat) : Option State :=
  if coreIdle s core then
    match bestCand (candidates s core) with
    | none => none
    | some k =>
      if k.head = 0 then
        let c := coreOf s core
        if repliesIn c k.num then some (resumeCtx s core k.num (mget Ctxt.start k.num c.saved)) else none
      else some (takeHead s core k.num)
  else none

/-- PROMPTER_PICK performed: the guards are read; a head that needs no core is settled; else the lowest idle core with a candidate is served (R306,
R307). -/
def prompterPick (s0 : State) (die : Nat) : State :=
  let s := guardNotes s0 die
  match (liveWings s die).findSome? (settleHead s die) with
  | some s' => s'
  | none => ((List.range 64).findSome? fun i => pickFor s (die * 64 + i)).getD s

/-- PROMPTER_PICK (R306-R309). -/
def execPrompterPick (die : Nat) (s : State) : Host.Outcome State Fault Refusal :=
  if die < 8 then .next (prompterPick s die) else .fault (.noSuchAgent die)

/-- CONTEXT_RESUME: an idle core's saved context, where it is the core's candidate (R368). -/
def execContextResume (core : Nat) (s : State) : Host.Outcome State Fault Refusal :=
  if core < Config.cores then
    .next (match bestCand (candidates s core) with
      | some k => if k.head = 0 then (pickFor s core).getD s else s
      | none => s)
  else .fault (.noSuchAgent core)

/-- AGE_STEP: another 65,536 cycles at the head (R310). -/
def execAgeStep (die wing : Nat) (s : State) : Host.Outcome State Fault Refusal :=
  if die < 8 then
    let w := wing % 8
    let x := wingOf s die w
    .next (if wingOcc x = 0 then s else setWing s die w { x with age := x.age + 1 })
  else .fault (.noSuchAgent die)

/-! ### Host pushes (R305, R376) -/

/-- A push that reaches its wing: appended, or discarded and counted. -/
def pushEnter (s : State) (die wing n data : Nat) : State :=
  let w := wingOf s die wing
  let drop (st : State) : State := pushstatSet st die wing (w.dropped + 1)
  if wingBase w = 0 then drop (logErr s .disabledWing die wing 2)
  else if n ≠ 64 ∨ programRoom w 1 = false then drop s
  else wingAppend s die wing (recSetClass (natBytes 64 data) wing)

/-- Whether a push waits: a write that its host posted earlier is still held at a core (R258), or an earlier push to its wing waits. -/
def pushWaits (s : State) (p : HeldPush) : Bool :=
  s.cores.any (fun e => e.2.remote.any fun h => h.host == some p.host) || s.house.pushes.any fun q => q.die == p.die && q.wing == p.wing

/-- A push arrives: a release of its host's earlier writes, it enters its wing once they have performed (R376). -/
def pushArrive (s : State) (p : HeldPush) : State :=
  if pushWaits s p then { s with house := { s.house with pushes := s.house.pushes ++ [p] } } else pushEnter s p.die p.wing p.size p.data

/-- The pushes that wait are tried again, in their order of arrival. -/
def pushesGo (s : State) : State := s.house.pushes.foldl pushArrive { s with house := { s.house with pushes := [] } }

/-- A held write of an outside agent performs at a core, and pushes that waited for it enter their wings (R258, R376). -/
def heldMove (s : State) (core : Nat) : State := pushesGo (heldPerform s core)

/-- ENQUEUE_BUFFER_DRAIN (R305). -/
def execEnqueueBufferDrain (die : Nat) (s : State) : Host.Outcome State Fault Refusal :=
  if die < 8 then .next (bufferDrain s die) else .fault (.noSuchAgent die)

/-! ### Pre-emption (R314, R361) -/

/-- The victim of a ready head of a class; a core with an SRAM marked failed is given no further cue, and a cue that has begun to exit is none (R314,
R373; log 32). -/
def victimOf (s : State) (die w : Nat) : Option Nat :=
  let ok (core : Nat) : Bool :=
    let c := coreOf s core
    enabled s core && !coreRetired s core && c.status == .running && c.ctx.draining != some .exit && !c.debugStop && decide (w < c.ctx.cls) && c.ctx.nopre.isNone
  ((List.range 64).map (die * 64 + ·)).foldl (fun best core =>
    if ok core then
      match best with
      | none => some core
      | some b => if (coreOf s b).ctx.cls < (coreOf s core).ctx.cls then some core else some b
    else best) none

/-- CURTAIN performed: the lowest class with a ready head and a victim; no idle core on the die, and a save area (R314, R361, R365). -/
def curtainFall (s0 : State) (die : Nat) : State :=
  let s := guardNotes s0 die
  if saveRoot s die = 0 || (List.range 64).any fun i => coreIdle s (die * 64 + i) then s
  else
    let find (w : Nat) : Option (Nat × Nat) :=
      match victimOf s die w with
      | some v => if headReady s v w then some (w, v) else none
      | none => none
    match (liveWings s die).findSome? find with
    | none => s
    | some (w, v) =>
      let r := wingHead s die w
      if recStatus r = 0 && (slotPieces s v w).isSome then
        let s1 := wingPop (claimLines (slotMet s v w) v w) die w
        startCue (curtainSave s1 v) v w r
      else takeHead s v w

/-- CURTAIN (R314-R316, R361). -/
def execCurtain (die : Nat) (s : State) : Host.Outcome State Fault Refusal :=
  if die < 8 then .next (curtainFall s die) else .fault (.noSuchAgent die)

/-! ### Pre-staging (R312) -/

/-- Lines of the die's pre-stage area: 256 KiB. -/
def prestageLimit : Nat := 4096

/-- The record at an address through the window-record cache, with the state in which a miss has filled it with the bytes as the die sees them
(R312, R332); an error there starts a self-test (R372). -/
def stageRecord (s0 : State) (die w va : Nat) : Option (List Byte) × State :=
  let s := wingMet s0 die w va 128
  if va % 128 ≠ 0 then (none, s0)
  else match wingSpan s die w va 128 true false with
    | some [p] =>
      let d := dieOf s die
      match d.wcache.find? (fun e => e.1 == p.1) with
      | some e => (some e.2, s)
      | none =>
        if isBad s p.1 128 then (none, piecesMet s [p])
        else
          let bs := dieRead s die p.1 128
          (some bs, notePieces (setDie s die { d with wcache := d.wcache ++ [(p.1, bs)] }) [p])
    | _ => (none, s)

/-- The virtual span of a record at origin 0, if the record passes R261 and R262, its extents are constants, and it is at most 64 KiB. -/
def stageSpan (s : State) (va : Nat) (bs : List Byte) : Option (Nat × Nat) :=
  match recCheck s va 1 bs with
  | .error _ => none
  | .ok r =>
    let es := (List.range 4).map fun k => if r.rank < k then 1 else r.ext.getD k 1
    if es.any fun e => decide (2 ^ 31 ≤ e) then none
    else match winCheck s va r [0, 0, 0, 0] es with
      | .error _ => none
      | .ok _ =>
        let sp := winSpan r [0, 0, 0, 0] es
        if sp.2 - sp.1 ≤ 65536 then some (((r.base : Int) + sp.1).toNat, (sp.2 - sp.1).toNat) else none

/-- One line filled, unless it is there, and whether the fill goes on: a line that cannot be read ends the fill of its entry, an error starting a
self-test (R372). In a full area another line is evicted, and the fill that would take its place is dropped, to be issued again (R312; which line
goes is free, log 95). -/
def stageLine (die w recAddr version : Nat) (s : State) (line : Nat) : State × Bool :=
  let d := dieOf s die
  let root := rootPa (wingDroot (wingOf s die w))
  if d.prestage.any fun l => l.wing == w && l.owner.isNone && l.recAddr == recAddr && l.line == line then (s, true)
  else
    let s := wingMet s die w line 64
    match wingSpan s die w line 64 true false with
    | none => (s, false)
    | some ps =>
      if ps.any fun p => isBad s p.1 p.2 then (piecesMet s ps, false)
      else if prestageLimit ≤ d.prestage.length then
        let k := (freeOf s 4).toNat % d.prestage.length
        let s1 := useOne (setDie s die { d with prestage := d.prestage.eraseIdx k })
        (match (d.prestage[k]?).bind fun l => if l.used then none else l.owner with
          | some o => setCoreOf s1 o.1 (countEvent (coreOf s1 o.1) 9)
          | none => s1, true)
      else
        let l : PreLine := ⟨w, none, recAddr, version, root, line, diePieces s die ps, false⟩
        (notePieces (setDie s die { d with prestage := d.prestage ++ [l] }) ps, true)

/-- Lines filled until one ends the entry. -/
def stageLines (die w recAddr version : Nat) : State → List Nat → State
  | s, [] => s
  | s, l :: ls =>
    let r := stageLine die w recAddr version s l
    if r.2 then stageLines die w recAddr version r.1 ls else r.1

/-- One record of the stage list. -/
def stageEntry (die w : Nat) (s : State) (va : Nat) : State :=
  let r := stageRecord s die w va
  match r.1 with
  | none => r.2
  | some bs => match stageSpan r.2 va bs with
    | none => r.2
    | some (a, n) =>
      stageLines die w va (winRec bs).version r.2 ((List.range ((a % 64 + n + 63) / 64)).map fun k => a / 64 * 64 + 64 * k)

/-- PRESTAGE_FILL performed: the stage list of a pending head, up to its zero address (R312). -/
def prestageFill (s0 : State) (die w : Nat) : State :=
  let s := guardNotes s0 die
  let r := wingHead s die w
  let list := recWord r 4
  if !(liveWings s die).contains w || fld (recWord r 6) 60 1 = 0 || guardOf s die w r != .pending || list % 32 ≠ 0 then s
  else
    let s := wingMet s die w list 32
    match wingSpan s die w list 32 true false with
    | none => s
    | some ps =>
      if ps.any fun p => isBad s p.1 p.2 then piecesMet s ps
      else
        let bs := diePieces s die ps
        let as := (List.range 4).map fun k => bytesNat ((bs.drop (8 * k)).take 8)
        (as.takeWhile (· != 0)).foldl (stageEntry die w) (notePieces s ps)

/-- PRESTAGE_FILL (R312). -/
def execPrestageFill (die wing : Nat) (s : State) : Host.Outcome State Fault Refusal :=
  if die < 8 then .next (prestageFill s die (wing % 8)) else .fault (.noSuchAgent die)

end Sys2Proof.Machine
end

