-- ==== Sys2Proof/Machine/Outside.lean ====
section
/-! DEFINITION. What reaches the module from outside: remote accesses (R258, R259), host ports (R360, R374-R376), configuration, boot and
attestation (R19, R380-R385), power (R17, R386), links and the all-reduce (R378, R379), self-test (R372, R373). -/

namespace Sys2Proof.Machine

/-! ### Remote accesses -/

/-- Writes by naturally aligned 64-byte units, which perform independently (R258). -/
def unitWrites (s : State) (pa : Nat) : Nat → List Byte → State
  | 0, _ => s
  | fuel + 1, bs =>
    if bs.isEmpty then s
    else
      let k := 64 - pa % 64
      unitWrites (physWrite s pa (bs.take k)) (pa + k) fuel (bs.drop k)

/-- n bytes of a number written by units. -/
def unitStore (s : State) (pa n data : Nat) : State := unitWrites s pa (n / 64 + 2) (natBytes n data)

/-- REMOTE_WRITE (R258, R259). -/
def execRemoteWrite (pa n data : Nat) (s : State) : Host.Outcome State Fault Refusal := .next (unitStore s pa n data)

/-- A read from outside: its value in `reply`; each 64-byte unit that reads as nothing is logged, and an error met starts a self-test (R9, R258,
R259, R372). -/
def outsideRead (s : State) (pa n : Nat) : State :=
  { piecesMet (notePieces s (units64 pa n (n / 64 + 2))) [(pa, n)] with reply := physNat s pa n }

/-- REMOTE_READ (R9, R258, R259). -/
def execRemoteRead (pa n : Nat) (s : State) : Host.Outcome State Fault Refusal := .next (outsideRead s pa n)

/-- REMOTE_WRITE_PERFORM: a held write of a core whose range has cleared (R258). -/
def execRemoteWritePerform (idx : Nat) (s : State) : Host.Outcome State Fault Refusal :=
  if idx < Config.cores then .next (heldMove s idx) else .fault (.noSuchAgent idx)

/-! ### Hosts -/

/-- Host 0 is A, host 1 is B; the configuration record gives each die to one (R374). -/
def hostOwns (s : State) (host die : Nat) : Bool := s.house.owners.getLsbD die == (host == 1)

/-- An event of a host that exists. -/
def hostEvent (host : Nat) (s : State) : Host.Outcome State Fault Refusal :=
  if host < 2 then .next s else .fault (.noSuchAgent host)

/-- A host's own block. -/
def hostBlk (s : State) (host : Nat) : HostBlock := mget HostBlock.reset host s.house.hosts
def setHostBlk (s : State) (host : Nat) (b : HostBlock) : State := { s with house := { s.house with hosts := mput host b s.house.hosts } }

/-- A BAR0 offset in a die's control block or a core's debug block: the die it belongs to (R375). -/
def bar0Die (off : Nat) : Option Nat :=
  if 0x100000 ≤ off ∧ off < 0x180000 then some ((off - 0x100000) / 0x10000)
  else if 0x1000000 ≤ off ∧ off < 0x1200000 then some ((off - 0x1000000) / 0x1000 / 64)
  else none

/-- A host may not reach this offset (R374). -/
def bar0Denied (s : State) (host off : Nat) : Bool := match bar0Die off with | some d => !hostOwns s host d | none => false

/-- HOST_PUSH (R374, R376). -/
def execHostPush (host die wing n data : Nat) (s : State) : Host.Outcome State Fault Refusal :=
  if 8 ≤ die then .fault (.noSuchAgent die)
  else hostEvent host (if hostOwns s host die then pushArrive s ⟨host, die, wing % 8, n, data⟩ else logErr s .hostRefused host die wing)

/-- QBASE_WRITE (R303, R374). -/
def execQbaseWrite (host die wing val : Nat) (s : State) : Host.Outcome State Fault Refusal :=
  if 8 ≤ die then .fault (.noSuchAgent die)
  else hostEvent host (if hostOwns s host die then qbaseSet s die (wing % 8) val else logErr s .hostRefused host die wing)

/-- PUSHSTAT_WRITE (R374, R376). -/
def execPushstatWrite (host die wing val : Nat) (s : State) : Host.Outcome State Fault Refusal :=
  if 8 ≤ die then .fault (.noSuchAgent die)
  else hostEvent host (if hostOwns s host die then pushstatSet s die (wing % 8) val else logErr s .hostRefused host die wing)

/-! ### Configuration (R380, R381, R384) -/

/-- STAGESTAT. -/
def stProposed : Word := 1
def stNeedBoth : Word := 2
def stApproved (host : Nat) : Word := BitVec.ofNat 64 (2 ^ (2 + host))
def stMismatch (host : Nat) : Word := BitVec.ofNat 64 (2 ^ (4 + host))
def stCommitted : Word := 0x40

/-- The approvals that R381 asks for are present. -/
def approvalsIn (st : Word) : Bool :=
  if st.getLsbD 1 then st.getLsbD 2 && st.getLsbD 3 else st.getLsbD 2 || st.getLsbD 3

/-- The proposal commits once its approvals are in: flash keeps it as the current record and the former one as the previous. -/
def commitRecord (s : State) : State :=
  let h := s.house
  if approvalsIn h.stagestat && !h.stagestat.getLsbD 6 then
    { s with house := { h with stagestat := h.stagestat ||| stCommitted, previous := h.record, record := h.proposal } }
  else s

/-- An aligned 8-byte write of APPROVE; the word that completes the 64 bytes decides. Any other write is discarded and logged (R375). -/
def approveSet (s : State) (host off val : Nat) : State :=
  if off % 8 ≠ 0 ∨ 64 ≤ off then logErr s .hostRefused host (0x2080 + off) 1
  else if !s.house.stagestat.getLsbD 0 then s
  else
    let b := hostBlk s host
    let ws := mput (off / 8) (val % 2 ^ 64) b.approve
    if ws.length < 8 then setHostBlk s host { b with approve := ws }
    else
      let d := packElts 64 (ws.map (·.2))
      let s' := setHostBlk s host { b with approve := [] }
      let bit := if d = s.house.digest then stApproved host else stMismatch host
      commitRecord { s' with house := { s'.house with stagestat := s'.house.stagestat ||| bit } }

/-- APPROVE_WRITE (R381, R384). -/
def execApproveWrite (host off val : Nat) (s : State) : Host.Outcome State Fault Refusal := hostEvent host (approveSet s host off val)

/-- ENABLE, OWNER and COUNTER of a record image (R384). -/
def recordEnables (img : List Byte) : BitVec 512 := BitVec.ofNat 512 (imageNat img 8 64)
def recordOwners (img : List Byte) : BitVec 8 := BitVec.ofNat 8 (imageNat img 72 1)
def recordCounter (img : List Byte) : Nat := imageNat img 0 8

/-- CONFIG_PROPOSAL: refused unless its COUNTER exceeds the current one's and it fits PRECORD (R380, R381, R384). Both hosts are asked where it
changes the division of the dies that is in force; R19 does not say whether that or the division of a committed record that waits for its reset
is meant (log 96). -/
def proposeRecord (s : State) (img : List Byte) : State :=
  let h := s.house
  if 2048 < img.length ∨ recordCounter img ≤ recordCounter h.record ∧ h.record ≠ [] then logErr s .hostRefused 2 img.length 0
  else { s with house := { h with
    proposal := img
    pcounter := recordCounter img
    digest := (Config.sha512 (img.take (img.length - 64))).toNat
    stagestat := if recordOwners img = h.owners then stProposed else stProposed ||| stNeedBoth
    hosts := h.hosts.map fun e => (e.1, { e.2 with approve := [] }) } }

/-- CONFIG_PROPOSAL (R381). -/
def execConfigProposal (len image : Nat) (s : State) : Host.Outcome State Fault Refusal := .next (proposeRecord s (natBytes len image))

/-! ### Attestation (R383, R385) -/

/-- An aligned 8-byte write to NONCE, discarded while REQUEST reads 1. Any other write is discarded and logged (R375). -/
def nonceSet (s : State) (host off val : Nat) : State :=
  let b := hostBlk s host
  if off % 8 ≠ 0 ∨ 32 ≤ off then logErr s .hostRefused host (0x3000 + off) 1
  else if b.request then s
  else
    let o := 8 * off
    setHostBlk s host { b with nonce := b.nonce - fld b.nonce o 64 * 2 ^ o + val % 2 ^ 64 * 2 ^ o }

/-- NONCE_WRITE (R385). -/
def execNonceWrite (host off val : Nat) (s : State) : Host.Outcome State Fault Refusal := hostEvent host (nonceSet s host off val)

/-- REQUEST written 1: READY clears, the nonce is taken. -/
def attestStart (s : State) (host : Nat) : State :=
  let b := hostBlk s host
  setHostBlk s host { b with request := true, ready := false, atRequest := b.nonce }

/-- ATTEST_REQUEST (R385). -/
def execAttestRequest (host : Nat) (s : State) : Host.Outcome State Fault Refusal := hostEvent host (attestStart s host)

/-- Firmware images in flash, 1 to 4 (R385). -/
def imageCount : Nat := max 1 (min 4 Config.imageCount)

/-- A record's digest, over every byte before its signature (R384). -/
def recordDigest (img : List Byte) : Nat := (Config.sha512 (img.take (img.length - 64))).toNat

/-- The report (R385). -/
def attestReport (s : State) (nonce : Nat) : List Byte :=
  let body := natBytes 32 nonce ++ natBytes 4 imageCount ++
    natBytes 4 (fld s.house.modid.toNat 0 5 + fld s.house.modid.toNat 8 8 * 2 ^ 8) ++ natBytes 8 (recordCounter s.house.record) ++ natBytes 16 0 ++
    ((List.range 4).flatMap fun i => natBytes 64 (if i < imageCount then (Config.imageDigest (i + 1)).toNat else 0)) ++
    natBytes 64 (recordDigest s.house.record)
  body ++ natBytes 64 (Config.sign (natBytes 64 (Config.sha512 body).toNat)).toNat

/-- The report is there: READY, and REQUEST reads 0. -/
def attestReady (s : State) (host : Nat) : State :=
  let b := hostBlk s host
  if b.request then setHostBlk s host { b with request := false, ready := true, report := attestReport s b.atRequest } else s

/-- ATTEST_REPORT_READY (R383, R385). -/
def execAttestReportReady (host : Nat) (s : State) : Host.Outcome State Fault Refusal := hostEvent host (attestReady s host)

/-! ### BAR0 and BAR2 -/

/-- The die of a PUSH at a BAR0 offset, and its wing (R375). -/
def pushAt (off : Nat) : Option (Nat × Nat) :=
  let o := off % 0x10000
  if 0x100000 ≤ off ∧ off < 0x180000 ∧ 0x1000 ≤ o ∧ o < 0x1200 then some ((off - 0x100000) / 0x10000, (o - 0x1000) / 0x40) else none

/-- An 8-byte write of a host to BAR0, elsewhere than an aligned register discarded and logged (R360, R374, R375); into a PUSH it is none of 64 bytes,
which the wing counts (R376). -/
def hostRegWrite (s : State) (host off val : Nat) : State :=
  match if bar0Denied s host off then none else pushAt off with
  | some p => pushArrive s ⟨host, p.1, p.2, 8, val⟩
  | none =>
  if bar0Denied s host off || off % 8 ≠ 0 then logErr s .hostRefused host off 1
  else if 0x2080 ≤ off ∧ off < 0x20C0 then approveSet s host (off - 0x2080) val
  else if 0x3000 ≤ off ∧ off < 0x3020 then nonceSet s host (off - 0x3000) val
  else if off = 0x3020 then (if val % 2 = 1 then attestStart s host else s)
  else if 0x3040 ≤ off ∧ off < 0x3200 then s
  else if bar0Occupied off then bar0Write s off val
  else logErr s .hostRefused host off 1

/-- An aligned 8-byte read of a host from BAR0. -/
def hostRegRead (s : State) (host off : Nat) : State :=
  if bar0Denied s host off || off % 8 ≠ 0 then { logErr s .hostRefused host off 0 with reply := 0 }
  else if 0x3000 ≤ off ∧ off < 0x3200 then { s with reply := attestWord (hostBlk s host) (off - 0x3000) }
  else if bar0Occupied off then { s with reply := bar0Read s off }
  else { logErr s .hostRefused host off 0 with reply := 0 }

/-- REGISTER_WRITE (R375). -/
def execRegisterWrite (host off val : Nat) (s : State) : Host.Outcome State Fault Refusal := hostEvent host (hostRegWrite s host off (val % 2 ^ 64))

/-- THROTTLE_WRITE (R386). -/
def execThrottleWrite (val : Nat) (s : State) : Host.Outcome State Fault Refusal := .next (throttleSet s val)

/-- PSTATE_WRITE (R386). -/
def execPstateWrite (val : Nat) (s : State) : Host.Outcome State Fault Refusal := .next (pstateSet s val)

/-- A host access to the control range by any size (R374-R376). -/
def hostControl (s : State) (host wr off n data : Nat) : State :=
  if wr = 1 then
    match pushAt off with
    | some p =>
      if bar0Denied s host off then logErr s .hostRefused host off 1
      else pushArrive s ⟨host, p.1, p.2, if off % 64 = 0 then n else 0, data⟩
    | none => if n = 8 then hostRegWrite s host off (data % 2 ^ 64) else logErr s .hostRefused host off 1
  else if n = 8 then hostRegRead s host off
  else { logErr s .hostRefused host off 0 with reply := 0 }

/-- The parts of an access by naturally aligned 64-byte units, of which every region of the map and every core's window is made (R15, R258). -/
def busUnits (pa : Nat) : Nat → Nat → List (Nat × Nat)
  | 0, _ => []
  | fuel + 1, n => if n = 0 then [] else let k := min n (64 - pa % 64); (pa, k) :: busUnits (pa + k) fuel (n - k)

/-- What keeps a host from a unit: a window of a die that is not its own, or an address outside the map, the control range being reached by aligned
8-byte accesses alone (R360, R374, R375). The state with the access logged. -/
def hostBarred (s : State) (host wr : Nat) (u : Nat × Nat) : Option State :=
  if (isWindow u.1 && !hostOwns s host (dieOfCore (windowCore u.1))) || isControl u.1 then some (logErr s .hostRefused host u.1 wr)
  else if isPeer u.1 || !(isStore u.1 || isWindow u.1) then some (logErr s .unmapped u.1 u.2 wr)
  else none

/-- One unit of a host's write, which a window may hold for its range (R258). -/
def hostPut (s : State) (host : Nat) (u : Nat × Nat) (bs : List Byte) : State :=
  match hostBarred s host 1 u with
  | some t => t
  | none => if isWindow u.1 then windowWrite s (windowCore u.1) (windowOff u.1) bs none (some host) else physWrite s u.1 bs

/-- One unit of a host's read, with its bytes. -/
def hostGet (s : State) (host : Nat) (u : Nat × Nat) : State × List Byte :=
  match hostBarred s host 0 u with
  | some t => (t, natBytes u.2 0)
  | none => (piecesMet (noteRead s u.1) [u], physRead s u.1 u.2)

/-- A host access through BAR2: offset x is physical address x; each unit fares by its own place (R360, R374). -/
def hostAccess (s : State) (host wr pa n data : Nat) : State :=
  if isControl pa then hostControl s host wr (pa - controlBase) n data
  else
    let us := busUnits pa (n / 64 + 2) n
    if wr = 1 then us.foldl (fun st u => hostPut st host u (natBytes u.2 (data / 2 ^ (8 * (u.1 - pa))))) s
    else
      let r := us.foldl (fun (a : State × List Byte) u => let g := hostGet a.1 host u; (g.1, a.2 ++ g.2)) (s, [])
      { r.1 with reply := bytesNat r.2 }

/-- HOST_MEMORY_ACCESS (R360, R374). -/
def execHostMemoryAccess (host wr pa n data : Nat) (s : State) : Host.Outcome State Fault Refusal := hostEvent host (hostAccess s host wr pa n data)

/-! ### Reset and boot (R19, R382) -/

/-- The boot stage that fails, if one does: image n, or 0xFF for the record (R382, R384). -/
def bootFails (record : List Byte) : Option Nat :=
  match ((List.range imageCount).map (· + 1)).find? fun n => !Config.verify n [] with
  | some n => some n
  | none => if record ≠ [] && !Config.verify 0xFF record then some 0xFF else none

/-- MODULE_RESET: flash keeps the records; HBM and the loft keep their bytes (log 19). The units that the spare maps of the record in force hold
are retired (R19, R372, R373). -/
def moduleReset (s : State) : State :=
  let h := s.house
  let left (l : List SelfTest) : List SelfTest := l.filter fun t => !Config.spared h.record (t.kind / 2) t.core t.idx
  { State.reset with
    uses := s.uses
    mem := s.mem
    bad := s.bad.filter isStore
    house := { House.reset with
      record := h.record
      previous := h.previous
      failed := left h.failed
      retired := left h.retired } }

/-- The house die is still booting (R384). -/
def booting (s : State) : Bool := s.house.bootstat.toNat % 256 == 0

/-- Boot: the images and the record verified, the record applied and the cores enabled; or BOOTSTAT says which check failed, and no core
runs. Without a record every core is enabled (R382, R384, log 9). -/
def bootUp (s : State) : State :=
  let h := s.house
  match bootFails h.record with
  | some n => { s with house := { h with bootstat := BitVec.ofNat 64 (0x0E + n * 2 ^ 8), enables := 0 } }
  | none => { s with house := { h with
      bootstat := 1
      enables := if h.record = [] then BitVec.allOnes 512 else recordEnables h.record
      owners := if h.record = [] then h.owners else recordOwners h.record } }

/-- MODULE_RESET (R19, R382). -/
def execModuleReset (s : State) : Host.Outcome State Fault Refusal := .next (moduleReset s)

/-! ### Clock and links -/

/-- CLOCK_STEP: a new core clock, and one throttling event (R11, R17, R386). -/
def execClockStep (mhz : Nat) (s : State) : Host.Outcome State Fault Refusal :=
  .next { s with house := { s.house with clock := mhz % 4096, throttle := (s.house.throttle + 1) % 2 ^ 32 } }

/-- LINK_FAILURE (R378). -/
def execLinkFailure (link : Nat) (s : State) : Host.Outcome State Fault Refusal :=
  .next { s with house := { s.house with links := s.house.links &&& ~~~(BitVec.ofNat 16 (2 ^ (link % 16))) } }

/-- LINK_RETRAIN_COMPLETE (R378). -/
def execLinkRetrainComplete (link : Nat) (s : State) : Host.Outcome State Fault Refusal :=
  .next { s with house := { s.house with links := s.house.links ||| BitVec.ofNat 16 (2 ^ (link % 16)) } }

/-- The join address of the cue that a ROUTE.CLOSE names, as it stands in memory (R281). -/
def closeJoin (s : State) (core : Nat) (c : KCmd) : Nat :=
  match kPieces s core 0 c true false false false 0 (kPages (routeCue c.wrec) 64) with
  | .ok ps => recWord (readPieces s ps) 2
  | .error _ => 0

/-- What the next unit of a running command asks of memory at virtual addresses, the writes that it sends apart (R271-R274, R279, R281). -/
def kAsks (s : State) (core : Nat) (c : KCmd) : List (Nat × Nat) :=
  let v := viewOf core c.tile
  let p := c.progress
  let e := routeE c.wrec
  let spans (its : List (Nat × KItem)) : List (Nat × Nat) := its.map fun e => (e.2.mem / 8, ceilDiv (e.2.mem % 8 + e.2.bits) 8)
  let red := fld c.word 4 2
  let typed (load : Bool) : List (Nat × Nat) :=
    spans (nextItems v load (if load then 0 else red) ((kLeft c).map fun q => (q, typedItem c v q)))
  let indexed (load : Bool) : List (Nat × Nat) := if (indexedItem s core c v p).isNone then [] else
    spans (nextItems v load (if load then 0 else red) ((kLeft c).filterMap fun q => (indexedItem s core c v q).map fun x => (q, x)))
  let entry (i : Nat) : Nat × Nat := (routeTable c.wrec + 16 * i, 16)
  if kTotal c ≤ p then []
  else match fld c.word 26 6 with
    | 0x01 => typed true
    | 0x02 => typed false
    | 0x03 | 0x04 => indexed true
    | 0x05 => indexed false
    | 0x06 => [(c.src + p, min (64 - (c.dst + p) % 64) (c.value - p))]
    | 0x08 => [(c.dst + 64 + p, min (64 - p % 64) (kTotal c - p))]
    | 0x0E => [entry (p % e)]
    | 0x0F => if p < e then [entry p] else if p = e then (routeCue c.wrec, 64) :: (if closeJoin s core c = 0 then [] else [(closeJoin s core c, 8)]) else [(routeCue c.wrec, 64), entry (p - e - 1)]
    | _ => []

/-- The requests of a running command on another module: the writes it has sent, and what its next unit asks for (R377). -/
def kPeers (s : State) (core eng : Nat) (k : KCmd) : List (Nat × Nat) :=
  let sent := (coreOf s core).pend.filter fun a => a.kind == .posted eng && a.seq == k.seq && isPeer a.pa
  let asks := ((kAsks s core k).flatMap fun p => kPages p.1 p.2).filterMap fun p =>
    match kXlate s core k p.1 true false with
    | .ok q => if isPeer q.1 then some (q.1, p.2) else none
    | .error _ => none
  sent.map (fun a => (a.pa, a.size)) ++ asks

/-- The head of an engine with a request on another module stops as R268 states (R378): which of its requests had no reply, and which byte of it
FAULTINFO names, is open (log 3). -/
def kTimeout (s : State) (core eng : Nat) : State :=
  match kRunning s core eng with
  | some k =>
    let ps := kPeers s core eng k
    match ps[freeBelow s 2 ps.length]? with
    | some p => setKq s core eng ({ k with failed := some (p.1 + freeBelow s 1 p.2) } :: (kQueue (coreOf s core).ctx eng).drop 1)
    | none => s
  | none => s

/-- A remote request without a reply: kind 0 a scalar read, 1 a K command, 2 a write, which is lost and logged, 3 the next read that an instruction
makes at issue on another module (R150, R378). -/
def remoteTimeout (s : State) (core kind idx : Nat) : State :=
  if kind = 1 then kTimeout s core (idx % 2)
  else if kind = 3 then setCoreOf s core { coreOf s core with noReply := true }
  else match (coreOf s core).pend[idx]? with
    | none => s
    | some a =>
      if !isPeer a.pa || !memoryAccess a then s
      else match a.kind with
        | .load | .amo _ => if kind = 0 then accessError s core idx a else s
        | _ => if kind = 2 then logErr (deliver s core idx a 0) .lostWrite core a.pa a.size else s

/-- REMOTE_TIMEOUT (R378). -/
def execRemoteTimeout (core kind idx : Nat) (s : State) : Host.Outcome State Fault Refusal :=
  if core < Config.cores then .next (remoteTimeout s core kind idx) else .fault (.noSuchAgent core)

/-- REDUCE_CONTRIBUTION: n FP32 lanes from another module, one contribution (R379). -/
def execReduceContribution (slot lane n data : Nat) (s : State) : Host.Outcome State Fault Refusal :=
  let cs := (List.range n).map fun i => fld data (32 * i) 32
  .next (if redOn s && decide (slot < 64) && decide (lane + n ≤ 256) then (redArrive (redAdd s slot lane cs) slot).1 else s)

/-! ### Self-test (R372, R373) -/

/-- SELF_TEST_START: the spare serves every access; an array is tested only while its queue is empty, so its test may have to wait. -/
def testStart (s : State) (kind core idx : Nat) : State :=
  let t : SelfTest := ⟨kind % 12, core, idx⟩
  let s' := logErr s .corrected kind core idx
  if t.kind / 2 = 2 then arrayRest { s' with house := { s'.house with due := s'.house.due ++ [t] } } else testBegin s' t

/-- SELF_TEST_START (R372). -/
def execSelfTestStart (kind core idx : Nat) (s : State) : Host.Outcome State Fault Refusal :=
  if core < Config.cores then .next (testStart s kind core idx) else .fault (.noSuchAgent core)

/-- SELF_TEST_END: transient when both passes succeed, else lasting: retired to the spare, which the spare map of the next record is to hold, or
marked failed where none is free. -/
def testEnd (s : State) (idx passed : Nat) : State :=
  match s.house.tests.find? fun e => e.1 == idx with
  | none => s
  | some e =>
    let t := e.2
    let s' := { s with house := { s.house with tests := s.house.tests.filter fun o => o.1 != idx } }
    if passed = 1 then logErr s' .corrected t.kind t.core t.idx
    else if t.kind % 2 = 0 then
      logErr { s' with house := { s'.house with retired := s'.house.retired ++ [t] } } .retired t.kind t.core t.idx
    else logErr { s' with house := { s'.house with failed := s'.house.failed ++ [t] } } .unitFailed t.kind t.core t.idx

/-- SELF_TEST_END (R372, R373). -/
def execSelfTestEnd (idx passed : Nat) (s : State) : Host.Outcome State Fault Refusal := .next (testEnd s idx passed)

end Sys2Proof.Machine
end

