-- ==== Sys2Proof/Machine/Debug.lean ====
section
/-! DEFINITION. The debug port (R371): a core stopped and restarted, its registers read and written. -/

namespace Sys2Proof.Machine

/-- A debug event of a host for a core that exists. -/
def debugEvent (host core : Nat) (s t : State) : Host.Outcome State Fault Refusal :=
  if Config.cores ≤ core then .fault (.noSuchAgent core)
  else hostEvent host (if hostOwns s host (dieOfCore core) then t else { logErr s .hostRefused host core 2 with reply := 0 })

/-- DEBUG_STOP: at the bundle boundary where the core stands (R371). -/
def execDebugStop (host core : Nat) (s : State) : Host.Outcome State Fault Refusal :=
  debugEvent host core s (setCoreOf s core { coreOf s core with debugStop := true })

/-- A latch marked to reload reads the new value of the register that it carries, at its width (R371). -/
def reloadLatch (c : Core) (l : Latch) : Latch :=
  match l.src.filter fun r => c.reloads.contains r with
  | some (.row r) => { l with val := rowOf c r, tag := tagOf c r }
  | some (.sreg n) => { l with val := BitVec.ofNat 4096 (sregOf c.ctx n).toNat }
  | some (.kmask n) => { l with val := BitVec.ofNat 4096 (kmaskOf c.ctx n).1.toNat }
  | none => l

/-- A restart: marked latches reload, and a core that a double fault or HALT stopped runs again (R349, R352, R371). -/
def debugGo (c : Core) : Core :=
  let x := c.ctx
  { c with
    debugStop := false
    reloads := []
    status := match c.status with | .stopped => .running | .halted => .running | q => q
    ctx := { x with
      bypass := x.bypass.map (reloadLatch c)
      holds := x.holds.map fun e => (e.1, reloadLatch c e.2) } }

/-- DEBUG_RESTART (R371). -/
def execDebugRestart (host core : Nat) (s : State) : Host.Outcome State Fault Refusal :=
  debugEvent host core s (setCoreOf s core (debugGo (coreOf s core)))

/-- The debug port has the core: stopped by it, or stopped for good. -/
def debugHas (c : Core) : Bool := c.debugStop || c.status == .stopped || c.status == .halted

/-- The row behind vn that the port may reach: the window is set and the running cue holds the row's bank (R170, R371). -/
def debugRow (x : Ctxt) (n : Nat) : Option Nat :=
  match x.window with
  | none => none
  | some w => let r := vrow x w (n % 48); if holdsBank x (r / 4) then some r else none

/-- A refusal: nothing changes, the debug block reports it, the house die logs it (R371). -/
def debugRefuse (s : State) (core kind idx : Nat) : State :=
  { logErr (setCoreOf s core { coreOf s core with debugNote := (coreOf s core).debugNote + 1 }) .debugRefused core kind idx with reply := 0 }

/-- A register written. The kinds are the model's (log 20): 0 scalar, 1 predicate, 2 branch target, 3 lane mask (count above the bits), 4 type
word, 5 binding, 6 dimension variable as R141 lays it out, 7 system register, 8 vector register. A lane mask is stored as given: R371 does not say
what becomes of a count that R90 does not name, or of bits at and above the count (log 20). A FAULTPC written
here leaves the delay state that its trap keeps, which only SYSWR drops (R351). -/
def debugPut (s : State) (core kind idx val : Nat) : State :=
  let c := coreOf s core
  let x := c.ctx
  let put (y : Ctxt) : State := setCoreOf s core { c with ctx := y }
  let marked (y : Ctxt) (r : LatchSrc) : State := setCoreOf s core { c with ctx := y, reloads := r :: c.reloads }
  match kind with
  | 0 => marked (setSreg x (idx % 32) (BitVec.ofNat 64 val)) (.sreg (idx % 32))
  | 1 => put (setPred x (idx % 16) (val % 2 == 1))
  | 2 => put { x with bregs := mput (idx % 8) (BitVec.ofNat 64 val) x.bregs }
  | 3 => marked { x with kmasks := mput (idx % 8) (BitVec.ofNat 512 val, fld val 512 10) x.kmasks } (.kmask (idx % 8))
  | 4 => put { x with tiles := mput (idx % 32) { tileOf x (idx % 32) with tw := BitVec.ofNat 128 val } x.tiles }
  | 5 => put { x with tiles := mput (idx % 32) { tileOf x (idx % 32) with bd := BitVec.ofNat 64 val } x.tiles }
  | 6 => put { x with dims := mput (idx % 16) ⟨fld val 16 15, if fld val 15 1 = 1 then some (fld val 0 15) else none⟩ x.dims }
  | 7 =>
    if idx = 0x11 then put { x with faultpc := BitVec.ofNat 64 val }
    else if sysRegDefined idx then sysWrite s core idx (BitVec.ofNat 64 val) else debugRefuse s core kind idx
  | 8 => match debugRow x idx with
    | some r => written (setCoreOf s core { c with rows := mput r (BitVec.ofNat 4096 val) c.rows, reloads := .row r :: c.reloads })
        (windowPa core (0x200000 + 512 * r)) 512
    | none => debugRefuse s core kind idx
  | _ => debugRefuse s core kind idx

/-- A register read into `reply`; an error in an accumulator row starts a self-test (R372). -/
def debugGet (s : State) (core kind idx : Nat) : State :=
  let c := coreOf s core
  let x := c.ctx
  let ans (n : Nat) : State := { s with reply := n }
  match kind with
  | 0 => ans (sregOf x (idx % 32)).toNat
  | 1 => ans (if predOf x (idx % 16) then 1 else 0)
  | 2 => ans (bregOf x (idx % 8)).toNat
  | 3 => ans ((kmaskOf x (idx % 8)).1.toNat + (kmaskOf x (idx % 8)).2 * 2 ^ 512)
  | 4 => ans (tileOf x (idx % 32)).tw.toNat
  | 5 => ans (tileOf x (idx % 32)).bd.toNat
  | 6 => ans (dimWord (dimOf x (idx % 16)))
  | 7 => if sysRegDefined idx then ans (sysRead s core idx).toNat else debugRefuse s core kind idx
  | 8 => match debugRow x idx with
    | some r => piecesMet (ans (rowOf c r).toNat) [(windowPa core (0x200000 + 512 * r), 512)]
    | none => debugRefuse s core kind idx
  | _ => debugRefuse s core kind idx

/-- DEBUG_REGISTER_WRITE: at once, on a stopped core (R371). -/
def execDebugRegisterWrite (host core kind idx val : Nat) (s : State) : Host.Outcome State Fault Refusal :=
  debugEvent host core s (if debugHas (coreOf s core) then debugPut s core kind idx val else debugRefuse s core kind idx)

/-- DEBUG_REGISTER_READ (R371). -/
def execDebugRegisterRead (host core kind idx : Nat) (s : State) : Host.Outcome State Fault Refusal :=
  debugEvent host core s (if debugHas (coreOf s core) then debugGet s core kind idx else debugRefuse s core kind idx)

end Sys2Proof.Machine
end

