-- ==== Sys2Proof/Machine/Issue.lean ====
section
/-! DEFINITION. A core's next move: the boundary before a bundle, fetch and decode (R79, R80, R353, R359), and the close of the bundle in issue
(R22, R41, R44-R49, R55, R58), with the events of the exposed pipelines, scalar accesses, regions and traps. -/

namespace Sys2Proof.Machine

/-! ### Time -/

/-- A region open for the limit is closed by the part (R85). -/
def nopreExpire (x : Ctxt) : Ctxt :=
  match x.nopre with
  | some n => if Config.nopreLimit ≤ n then { x with nopre := none, sticky := stickySet x.sticky flagNopreOver } else x
  | none => x

/-- NOPRE_TIMEOUT (R85). -/
def execNopreTimeout (core : Nat) (s : State) : Host.Outcome State Fault Refusal :=
  if core < Config.cores then .next (setCoreOf s core { coreOf s core with ctx := nopreExpire (coreOf s core).ctx })
  else .fault (.noSuchAgent core)

/-- n cycles of a core pass: CYCLES, the age of a region that a cue on the core holds open, the windows of duet mode. -/
def ticks (s : State) (core n : Nat) : State :=
  let c := coreOf s core
  duetTick (setCoreOf s core { c with
    cycles := (c.cycles + n) % 2 ^ 64
    ctx := if c.status = .idle then c.ctx else nopreExpire { c.ctx with nopre := c.ctx.nopre.map (· + n) } }) core

/-- An event counted on a core. -/
def noteEvent (s : State) (core code : Nat) : State := setCoreOf s core (countEvent (coreOf s core) code)

/-- The event code of a stalled cycle (R112). -/
def stallCode : StallWhy → Nat
  | .fetch => 2 | .range => 3 | .scalar => 4 | .queue => 5 | .wait => 6

/-! ### What goes on beside the sequencer -/

/-- The first unit of a core that can go on, one unit per stalled cycle: a scalar access, the matrix array, a copy engine, a pit engine or a
pit status, a counting pass, an audition, a held remote write, the enqueue buffer (the model's order, log 2). -/
def background (s : State) (core : Nat) : State :=
  let c := coreOf s core
  let x := c.ctx
  let eng (e : Nat) : Option State :=
    match kRunning s core e with
    | some k =>
      if kIsPit k then let t := pitDispatch s core e; if t = s then none else some t
      else let t := kComplete s core e; if t = s then none else some t
    | none => if kMayStart s core e then some (kStart s core e) else none
  match firstReady s core with
  | some i => performAt s core i
  | none =>
    if mServes s core || (mRunning x.mq).isSome || c.foreign.isSome then mComplete s core
    else if (mNext s core).isSome then mStart s core
    else match eng 0, eng 1 with
      | some t, _ => t
      | none, some t => t
      | none, none =>
        match s.pits.find? fun p => !p.2.queue.isEmpty && !p.2.suspended with
        | some p => if pitGoing s p.1 then pitComplete s p.1 else pitStart s p.1
        | none =>
          if !s.house.statuses.isEmpty then statusArrive s 0
          else match (List.range 4).find? fun g => (pctxOf x g).counting with
            | some g => countPassEnd s core g
            | none =>
              match s.house.audits.find? fun e => !auditBlocked s e.1 e.2 with
              | some e => auditEnd s e.1 e.2
              | none =>
                if (heldReady s core).isSome then heldMove s core else bufferDrain s (dieOfCore core)

/-- A cycle in which a core issues nothing. -/
def stallMove (s : State) (core : Nat) (w : StallWhy) : State :=
  background (noteEvent (ticks s core 1) core (stallCode w)) core

/-! ### The boundary before a bundle -/

/-- The verdict of an ADMIT that names s0, or the audition that it waits for, is for its bundle's next issue alone (R83). -/
def dropVerdict (c : Core) : Core :=
  { c with pend := c.pend.filter fun a => !(!memoryAccess a && a.dst == 0 && a.home.isNone) }

/-- A trap of a core, which forgets such a verdict and what its bundle has stalled. -/
def trapOn (s : State) (core : Nat) (f : Word) (t : Trap) : State :=
  let c := dropVerdict (coreOf s core)
  takeTrap (setCoreOf s core { c with ctx := { c.ctx with spent := 0 } }) core f t

/-- A fault taken; an error that waited for it is no longer held, and one just met starts a self-test (R98, R198, R268, R372). -/
def trapHeld (s : State) (core : Nat) (f : Word) (t : Trap) (h : Option Held) : State :=
  let c := coreOf s core
  match h with
  | none => trapOn s core f t
  | some (.met ps) => trapOn (noteMet s ps) core f t
  | some .noReply => trapOn (setCoreOf s core { c with noReply := false }) core f t
  | some h => trapOn (setCoreOf s core { c with ctx := dropHeld c.ctx h }) core f t

/-- The DATAERR that a resume left for the boundary before the first bundle, whether a handler runs or not (R369). -/
def resumeTrap (s : State) (core : Nat) : Option State :=
  let c := coreOf s core
  match c.ctx.resumeErr with
  | some w => if c.status = .running && !c.debugStop then
      some (trapOn (setCoreOf s core { c with ctx := { c.ctx with resumeErr := none } }) core c.ctx.pc ⟨14, w, none⟩)
    else none
  | none => none

/-- The boundary cause that waits on a core, taken where no handler runs (R296, R297, R345). -/
def pitTrap (s : State) (core : Nat) : Option State :=
  let c := coreOf s core
  let x := c.ctx
  if c.status = .running && !c.debugStop && x.draining.isNone && !live x then
    match x.pitTraps with
    | t :: ts => some (trapOn (setCoreOf s core { c with ctx := { x with pitTraps := ts } }) core x.pc ⟨t.code, t.info, none⟩)
    | [] => none
  else none

/-- The boundary cause of a core: the DATAERR of a resume comes first (R297, R369). -/
def boundaryTrap (s : State) (core : Nat) : Option State := (resumeTrap s core).or (pitTrap s core)

/-- TRAP_ENTRY: the boundary cause of a core is taken (R296, R348). -/
def execTrapEntry (core : Nat) (s : State) : Host.Outcome State Fault Refusal :=
  if core < Config.cores then .next ((boundaryTrap s core).getD s) else .fault (.noSuchAgent core)

/-- Whether a core that drains takes empty steps now: not while the debug port stops it, and under ERET once no register is busy (R44, R351, R352,
R371). -/
def drains (c : Core) : Bool :=
  !c.debugStop && (match c.ctx.draining with | some .eret => !anyBusyReg c | some .halt => true | some .exit | none => false)

/-- One empty step of a core that drains its pipelines (R44, R351, R352). -/
def emptyStep (s : State) (core : Nat) : State :=
  let c := coreOf s core
  if drains c && !c.ctx.inflight.isEmpty then pipeStep s core else s

/-- RESULT_LAND: what is in flight lands without an issued bundle only where ERET and HALT drain (R43, R44). -/
def execResultLand (core : Nat) (s : State) : Host.Outcome State Fault Refusal :=
  if core < Config.cores then .next (emptyStep s core) else .fault (.noSuchAgent core)

/-- SCALAR_ACCESS_COMPLETE (R54, R98, R99). -/
def execScalarAccessComplete (core idx : Nat) (s : State) : Host.Outcome State Fault Refusal :=
  if core < Config.cores then .next (performAt s core idx) else .fault (.noSuchAgent core)

/-- An engine that HALT does not wait for: empty, or holding only a parked command (R352). -/
def engineQuiet (q : List KCmd) : Bool := match q with | [] => true | [k] => k.parked.isSome | _ => false

/-- The return of ERET; a FAULTPC that is no bundle address by now raises ALIGN at the ERET's bundle (R20, R351). Errors in the trap capture, which it
replays, are met (R402). -/
def eretReturn (s : State) (core : Nat) : State :=
  let c := coreOf s core
  if c.ctx.faultpc.toNat % 32 = 0 then setCoreOf (snapMet s core c.ctx false) core { c with ctx := trapReturn (snapRead s core c.ctx false) }
  else trapOn (setCoreOf s core { c with ctx := { c.ctx with draining := none } }) core (c.ctx.pc - 32#64) ⟨3, 0, none⟩

/-- A cue that exits goes on: a fault of its join step at its CUE.EXIT, its end, or a cycle of waiting (R255, R320). -/
def exitDrain (s : State) (core : Nat) : State :=
  let c := coreOf s core
  match exitFault s core with
  | some (t, h) => trapHeld (setCoreOf s core { c with ctx := { c.ctx with draining := none } }) core (c.ctx.pc - 32#64) t h
  | none => (exitMove s core).getD (stallMove s core .wait)

/-- A drain goes on: the wait of ERET for its registers, counted as a wait, an empty step, then the return or the stop; the end of a cue (R320, R351,
R352). -/
def drainMove (s : State) (core : Nat) (d : Drain) : State :=
  let c := coreOf s core
  let x := c.ctx
  if d = .exit then exitDrain s core
  else if !drains c then stallMove s core .wait
  else if !x.inflight.isEmpty then noteEvent (ticks (emptyStep s core) core 1) core 6
  else match d with
    | .eret => eretReturn s core
    | .exit => s
    | .halt =>
      if x.mq.isEmpty && engineQuiet x.kq0 && engineQuiet x.kq1 then
        logErr (setCoreOf s core { c with status := .halted, ctx := { x with draining := none } }) .halted core 0 0
      else stallMove s core .wait

/-- A mark wait that has ended is forgotten; one that has not keeps the next bundle back (R329). -/
def waitOver (s : State) (w : MarkWait) : Bool := (markOf (coreOf s w.home) w.mark).gen != w.gen

/-- No wait keeps the core: one that has ended is forgotten, an acquire (R329, R337, log 101). -/
def wakeUp (s : State) (core : Nat) : State :=
  let c := coreOf s core
  let s' := setCoreOf s core { c with ctx := { c.ctx with wait := none } }
  if c.ctx.wait.isSome then observe s' core 3 else s'

/-- The run-time checks of a bundle from a waived page (R32, R47, R60, R84): the slot word is illegal there. All three limits are those of the running
cue's declaration, as R60 says of the profile; R32 speaks of the code object's for TILES and MARKS (log 76). -/
def waivedIllegal (x : Ctxt) (i : Instr) : Bool :=
  let f := i.info
  decide (declProfile x.decl < f.profile) || f.tiles.any (fun t => decide (declTiles x.decl ≤ t)) ||
  (match f.mark with | some m => decide (declMarks x.decl ≤ m) | none => false) || (f.transfer && decide (0 < x.shadow))

/-- The words of the bundle at a physical address: of a frame written after its admission, as admitted or as written, free per fetch
(R80, logs 3, 75). -/
def fetchWords (s : State) (pa : Nat) : List Nat :=
  let now := physRead s pa 32
  let old := memRead s.house.text pa 32
  let bs := if now = old then now else if (freeOf s 0).getLsbD 0 then now else old
  (List.range 8).map fun k => bytesNat ((bs.drop (4 * k)).take 4)

/-- The slots of a bundle decoded: the instructions, and the slots whose words are none (R57, R58). -/
def decodeWords (x : Ctxt) (waived : Bool) : Nat → List Nat → List (Nat × Instr) × List (Nat × Stop)
  | _, [] => ([], [])
  | k, w :: ws =>
    let r := decodeWords x waived (k + 1) ws
    let bad : Nat × Stop := (k, .fault ⟨1, BitVec.ofNat 64 k, none⟩)
    match decodeSlot (slotKindOf k) w with
    | .error _ => (r.1, bad :: r.2)
    | .ok i => if waived && waivedIllegal x i then (r.1, bad :: r.2) else ((k, i) :: r.1, r.2)

/-- A TLB's entries with one more; a full one loses its oldest (R358). -/
def tlbAdd (limit : Nat) (l : List TlbEnt) (e : TlbEnt) : List TlbEnt :=
  let l' := l.filter fun t => !(t.root == e.root && t.vbase == e.vbase && t.size == e.size)
  if limit ≤ l'.length then l'.drop 1 ++ [e] else l' ++ [e]

/-- A translation learnt by a core and its die; an error met by the walk starts a self-test (R372). -/
def tlbFill (s : State) (core : Nat) (inst : Bool) (e : TlbEnt) : State :=
  let s := walkMet s core inst e.root e.vbase
  let c := coreOf s core
  let s' := setCoreOf s core (if inst then { c with itlb := tlbAdd 32 c.itlb e } else { c with dtlb := tlbAdd 64 c.dtlb e })
  let d := dieOf s' (dieOfCore core)
  setDie s' (dieOfCore core) (if inst then { d with itlb := tlbAdd 512 d.itlb e } else { d with dtlb := tlbAdd 8192 d.dtlb e })

/-- The bundle about to issue, fetched: the leaf that maps it, its words and whether its page was waived when the leaf was walked; or FETCHXL's reason
(R84, R357, R359). -/
def fetchBundle (s : State) (core : Nat) : Except Nat (TlbEnt × List Nat × Bool) :=
  let x := (coreOf s core).ctx
  (xlateInst s core x.mode (rootPa x.iroot) x.pc.toNat).map fun q =>
    (q.2, fetchWords s q.1, q.2.waived)

/-- The instruction cache: 64 KiB of bundles (R12). -/
def icacheLimit : Nat := 2048

/-- The cache's name of the bundle about to issue. -/
def icacheKey (x : Ctxt) : Nat × Nat := (rootPa x.iroot, x.pc.toNat)

/-- A miss fills the cache; a full one loses its oldest bundle (R12, R55, log 99). -/
def icacheFill (c : Core) : Core :=
  { c with icache := (if icacheLimit ≤ c.icache.length then c.icache.drop 1 else c.icache) ++ [icacheKey c.ctx] }

/-- A fetch that misses fills the TLBs and the cache; the house die counts one from a disabled core's window, and an error in the bundle starts a
self-test (R9, R358, R372). -/
def fetchFill (s : State) (core : Nat) (e : TlbEnt) : State :=
  let s1 := tlbFill s core true e
  let c := coreOf s1 core
  let pa := entryPa e.leaf + (c.ctx.pc.toNat - e.vbase)
  piecesMet (noteRead (setCoreOf s1 core (icacheFill c)) pa) [(pa, 32)]

/-- A cycle that a tree operation still stalls (R255). -/
def owedMove (s : State) (core : Nat) : State :=
  let c := coreOf s core
  stallMove (setCoreOf s core { c with ctx := { c.ctx with owed := c.ctx.owed - 1 } }) core .wait

/-- The acting core's next move up to the bundle: what it does instead of issuing, or the bundle in issue with the instructions of its slots.
An `agenda` state is one in which the move is over. -/
def prepare (s : State) : Except State (State × List (Nat × Instr)) :=
  let core := s.focus
  let c := coreOf s core
  let x := c.ctx
  if c.debugStop || c.status = .stopped || c.status = .halted then .error (background (ticks s core 1) core)
  else if c.status = .idle then .error (prompterPick (background (ticks s core 1) core) (dieOfCore core))
  else if x.resumeErr.isNone && x.owed ≠ 0 then .error (owedMove s core)
  else match x.draining.filter fun _ => x.resumeErr.isNone with
    | some d => .error (drainMove s core d)
    | none => match boundaryTrap s core with
      | some t => .error t
      | none =>
        if (match x.wait with | some w => !waitOver s w | none => false) then .error (stallMove s core .wait)
        else
          let s1 := wakeUp s core
          match fetchBundle s1 core with
          | .error r => 
            .error (trapOn (walkMet s1 core true (rootPa x.iroot) x.pc.toNat) core x.pc ⟨4, xlInfo x.pc.toNat r, none⟩)
          | .ok f =>
            if !c.icache.contains (icacheKey x) then .error (stallMove (fetchFill s1 core f.1) core .fetch)
            else
              let d := decodeWords x f.2.2 0 f.2.1
              .ok ({ tlbFill s1 core true f.1 with issue := ⟨0, f.2.1, [], d.2⟩ }, d.1)

/-! ### The close of a bundle -/

/-- The place of a cause in the order of R58. -/
def causeRank (code : Nat) : Nat :=
  match code with
  | 4 => 0 | 1 => 1 | 2 => 2 | 3 => 3 | 6 => 4 | 7 => 5 | _ => 6

/-- The fault of a stop, and what was held of it. -/
def Stop.trap : Stop → Option (Trap × Option Held)
  | .stall _ => none
  | .fault t => some (t, none)
  | .held t h => some (t, some h)

/-- The fault reported, with its slot: the first cause in that order, of the lowest slot. -/
def firstFault : List (Nat × Stop) → Option (Nat × Trap × Option Held)
  | [] => none
  | e :: r =>
    let rest := firstFault r
    match e.2.trap with
    | none => rest
    | some t => match rest with
      | none => some (e.1, t)
      | some o =>
        if causeRank o.2.1.code < causeRank t.1.code || (causeRank o.2.1.code == causeRank t.1.code && decide (o.1 < e.1)) then some o
        else some (e.1, t)

/-- UNBOUND of a variable that a lower slot's operands name, where that slot stopped by a fault before it could bind it: the procedure ended there,
and the slot above resolved nothing (R145, log 120). -/
def undueUnbound (s : State) (e : Nat × Stop) : Bool :=
  let names (k n : Nat) : Bool := match decodeSlot (slotKindOf k) (s.issue.words.getD k 0) with
    | .ok i => i.info.tiles.any fun t =>
      let w := (tileOf (ctx s) t).tw.toNat
      (List.range (twRank w + 1)).any fun j => (extOf (twExt w j)).dv == some n
    | .error _ => false
  match e.2.trap.bind fun t => t.1.shape with
  | some w => fld w.toNat 7 4 == 10 && s.issue.stops.any fun o => decide (o.1 < e.1) && o.2.trap.isSome && names o.1 (fld w.toNat 11 4) &&
      (tentOf s (fld w.toNat 11 4)).isNone
  | none => false

/-- The stops of the bundle in issue. -/
def stopsOf (s : State) : List (Nat × Stop) := s.issue.stops.filter fun e => !undueUnbound s e

/-- The cause under which a stalled cycle is counted (R55). -/
def firstStall (ss : List (Nat × Stop)) : Option StallWhy :=
  [StallWhy.fetch, .range, .scalar, .queue, .wait].find? fun w => ss.any fun e => decide (e.2 = .stall w)

/-- ILLEGAL and PRIV are raised before a stall (R58). -/
def urgent (t : Trap) : Bool := decide (causeRank t.code ≤ 2)

/-- An effect beyond the core's registers performed (R9, R83, R211, R212, R264, R277, R318, R319, R323, R327, R328, R338, R375). -/
def performAct (s : State) (core : Nat) (a : Act) : State :=
  match a with
  | .cuePush w r => cuePush s (dieOfCore core) w r
  | .cueFork w n j r => cueFork s core w n j r
  | .ensJoin e => ensJoin s core e
  | .ensLeave e => ensLeave s core e
  | .markInit m b v => markSet s core m b v
  | .markArrive home m => markArrive s home m
  | .auditStart a => auditStart s core a
  | .windowFence => observe (setDie s (dieOfCore core) { dieOf s (dieOfCore core) with wcache := [] }) core 2
  | .mback b =>
    let c := coreOf s core
    setCoreOf s core { c with ctx := { c.ctx with mback := some b } }
  | .ksave e ps => kSave s core e ps
  | .kresume e cs => kResume s core e cs
  | .unitAccept k =>
    let c := coreOf s core
    setCoreOf s core { c with ctx := { c.ctx with lastUnits := mput k c.cycles c.ctx.lastUnits } }
  | .spend n =>
    let c := coreOf s core
    setCoreOf s core { c with ctx := { c.ctx with owed := c.ctx.owed + n } }
  | .met ps => noteMet s ps
  | .observe level => observe s core level

/-- A result in flight, next in order; `apart` where what it passes to the bypass is not what it writes (R42). -/
def addFlight (c : Core) (lat : Nat) (u : Option Upd) (byp : Option (Row × Option Nat)) (flags : Word) (apart : Bool) : Core :=
  { c with nextOrd := c.nextOrd + 1, ctx := { c.ctx with inflight := c.ctx.inflight ++ [⟨lat, c.nextOrd, u, byp, flags, apart⟩] } }

/-- An effect of a slot on its core as its bundle issues; acts and control come later. -/
def applyEff (core : Nat) (s : State) (e : Nat × Eff) : State :=
  let c := coreOf s core
  let x := c.ctx
  match e.2 with
  | .land lat u byp flags => setCoreOf s core (addFlight c lat u byp flags false)
  | .landApart lat u byp flags => setCoreOf s core (addFlight c lat u byp flags true)
  | .bind n v => setCoreOf s core (addFlight c 1 (some (.dim n (some v))) none 0 false)
  | .hold pos l => setCoreOf s core { c with ctx := { x with holds := mput (e.1 * 4 + pos) l x.holds } }
  | .pop z => setCoreOf s core { c with ctx := { x with ports := mput z (portStep (portOf x z)) x.ports } }
  | .access a => setCoreOf s core { c with pend := c.pend ++ [{ a with seq := c.nextSeq }], nextSeq := c.nextSeq + 1 }
  | .mcmd k => setCoreOf s core { c with ctx := { x with mq := x.mq ++ [{ k with issuedAt := c.cycles }] } }
  | .kcmd eng k =>
    let k' : KCmd := { k with seq := c.nextSeq, tag := if kPitOp k then x.pitCount % 256 else k.tag }
    let x' : Ctxt := { x with pitCount := if kPitOp k then x.pitCount + 1 else x.pitCount }
    setCoreOf s core { c with
      nextSeq := c.nextSeq + 1
      ctx := if eng = 0 then { x' with kq0 := x.kq0 ++ [k'] } else { x' with kq1 := x.kq1 ++ [k'] } }
  | .fillD t => tlbFill s core false t
  | .fillRec pa bytes =>
    let d := dieOf s (dieOfCore core)
    setDie s (dieOfCore core) { d with wcache := d.wcache.filter (fun w => w.1 != pa) ++ [(pa, bytes)] }
  | .bcast _ | .ctl _ | .act _ => s

/-- The acts of a list of effects. -/
def actsOf (es : List (Nat × Eff)) : List Act := es.filterMap fun e => match e.2 with | .act a => some a | _ => none

/-- The control effect of a bundle: that of its C slot (R72). -/
def ctlOf (es : List (Nat × Eff)) : Option Ctl := es.findSome? fun e => match e.2 with | .ctl c => some c | _ => none

/-- A bundle whose successor starts with a group switch, delays apart: ACC.WIN (R41). -/
def setsWindow (es : List (Nat × Eff)) : Bool := es.any fun e => match e.2 with | .land _ (some (.accWin _ _)) _ _ => true | _ => false

/-- The successor of a bundle: pc, delay state, shadow, and whether it starts with a group switch (R41, R46, R49, R105). -/
def nextPc (x : Ctxt) (c : Option Ctl) (branchHere : Bool) : Word × Option (Nat × Word) × Nat × Bool :=
  let sh := if branchHere then 2 else x.shadow - 1
  match c with
  | some (.branch t) => (x.pc + 32#64, some (2, t), sh, false)
  | some (.jump t) => (t, none, sh, false)
  | _ => match x.delay with
    | some (n, t) => if n ≤ 1 then (t, none, sh, true) else (x.pc + 32#64, some (n - 1, t), sh, false)
    | none => (x.pc + 32#64, none, sh, false)

/-- What control leaves for the boundary (R320, R329, R350-R352). -/
def control (s : State) (core : Nat) (f : Word) (c : Option Ctl) : State :=
  let k := coreOf s core
  match c with
  | some (.trap n) => trapOn s core (f + 32#64) ⟨17, BitVec.ofNat 64 n, none⟩
  | some .eret => setCoreOf s core { k with ctx := { k.ctx with draining := some .eret } }
  | some .halt => setCoreOf s core { k with ctx := { k.ctx with draining := some .halt } }
  | some .exit => let t := exitBegin s core; (exitMove t core).getD t
  | some (.sleep w) => setCoreOf s core { k with ctx := { k.ctx with wait := some w } }
  | _ => s

/-- Whether a slot of the bundle holds an instruction with delay bundles. -/
def hasDelays (ws : List Nat) : Bool :=
  match decodeSlot .c (ws.getD 0 0) with | .ok i => i.info.delays | .error _ => false

/-- Whether the page of the bundle in issue is waived (R84). -/
def onWaived (s : State) (core : Nat) : Bool := match fetchBundle s core with | .ok f => f.2.2 | .error _ => false

/-- The next bundle's accesses and results stand in a new block of places (R334). -/
def nextBlock (c : Core) : Core :=
  let n := (max c.nextSeq c.nextOrd + 255) / 256 * 256
  { c with nextSeq := n, nextOrd := n }

/-- Whether a bundle brings a command to the core's array: a neighbour's command there is recalled (R215). MSYNC
and MPROBE bring none and do not count as M commands here and for R218, though R197 lists them among the instructions (log 106). -/
def wantsArray (es : List (Nat × Eff)) : Bool := es.any fun e => match e.2 with
  | .mcmd _ => true
  | _ => false

/-- A bundle issues: every effect together, the boundary after it, and what it does to control (R22, R41, R44, R45). -/
def commit (s : State) : State :=
  let core := s.focus
  let es := s.issue.effs
  let x0 := (coreOf s core).ctx
  let f := x0.pc
  let c := ctlOf es
  let nx := nextPc x0 c (hasDelays s.issue.words)
  let s1 := { s with issue := ⟨0, [], [], []⟩ }
  let s2 := noteEvent (if onWaived s core then noteEvent s1 core 7 else s1) core 1
  let s3 := es.foldl (applyEff core) (setCoreOf s2 core (dropVerdict (coreOf s2 core)))
  let s4 := (actsOf es).foldl (fun st a => performAct st core a) s3
  let k4 := coreOf s4 core
  let x4 : Ctxt := { k4.ctx with pc := nx.1, delay := nx.2.1, shadow := nx.2.2.1, spent := 0 }
  let s5 := setCoreOf s4 core { nextBlock k4 with ctx := if nx.2.2.2 || setsWindow es then groupSwitch x4 else x4 }
  let s6 := control (pipeStep (ticks s5 core 1) core) core f c
  if wantsArray es && (coreOf s6 core).foreign.isSome then { s6 with agenda := .event (.recall core) :: s6.agenda } else s6

/-- The acts that a slot has made although it stops: those of a fault's slot (R320), and the audition that a stalled ADMIT starts (R83). -/
def stopActs (s : State) (slot : Nat) : State :=
  ((actsOf (s.issue.effs.filter fun e => e.1 == slot)).foldl (fun st a => performAct st s.focus a) { s with issue := ⟨0, [], [], []⟩ })

/-- The bundle stalls for a cycle: a slot that alone stalls starts its audition, and a cycle of waiting counts for what the bundle has to spend. -/
def stallBundle (s : State) (core : Nat) (w : StallWhy) : State :=
  let slots := s.issue.stops.filterMap fun e => match e.2 with | .stall _ => some e.1 | _ => none
  let s1 := match slots.eraseDups with | [k] => stopActs s k | _ => { s with issue := ⟨0, [], [], []⟩ }
  let c := coreOf s1 core
  stallMove (if w = .wait then setCoreOf s1 core { c with ctx := { c.ctx with spent := c.ctx.spent + 1 } } else s1) core w

/-- The bundle in issue closes: a fault, a stall, or its effects (R22, R58). -/
def close (s : State) : State :=
  let core := s.focus
  let ss := stopsOf s
  let f := (coreOf s core).ctx.pc
  match firstFault ss, firstStall ss with
  | some (k, t, h), st =>
    if urgent t then trapHeld { s with issue := ⟨0, [], [], []⟩ } core f t h
    else match st with
      | some w => stallBundle s core w
      | none => trapHeld (stopActs s k) core f t h
  | none, some w => stallBundle s core w
  | none, none => commit s

/-! ### A stall behind a fault (R58) -/

/-- A state in which no waiting error and no early read is found, and no range of an engine that stands still: in it a slot shows the stalls that
a fault of its own came before. -/
def calm (s : State) : State :=
  let x := ctx s
  let still (eng : Nat) : Bool := (engineFault x eng).isSome
  setCtx s { x with
    rehearse := false
    regErrs := []
    matErrs := []
    kq0 := if still 0 then [] else x.kq0
    kq1 := if still 1 then [] else x.kq1 }

/-- Whether the bundle in issue stands before a fault that comes after every stall (R58). -/
def lateFault (s : State) : Bool := match firstFault (stopsOf s) with | some (_, t, _) => !urgent t | none => false

/-- The stalls on ranges, registers and queues that a bundle shows in the calm state join its stops. -/
def withStalls (s u : State) : State :=
  let hidden (e : Nat × Stop) : Bool := match e.2 with | .stall .range | .stall .scalar | .stall .queue => true | _ => false
  { s with issue := { s.issue with stops := s.issue.stops ++ u.issue.stops.filter hidden } }

end Sys2Proof.Machine
end

