-- ==== Sys2Proof/Machine/ScalarAlu.lean ====
section
/-! DEFINITION. The S slot's integer, immediate, compare and predicate operations (R92-R96). -/

namespace Sys2Proof.Machine

/-- A two-source operation of major 0x01: latency 1, its value broadcast (R36, R89, R92). -/
def aluRR (s : State) (d a b : Nat) (f : Word → Word → Word) : Except Stop (List Eff) := do
  let x ← rdS s 0 a
  let y ← rdS s 1 b
  outBcast s d (f x y)

/-- A one-source operation with a value of its encoding (R92, R94). -/
def aluR (s : State) (d a : Nat) (f : Word → Word) : Except Stop (List Eff) := do
  let x ← rdS s 0 a
  outBcast s d (f x)

/-- An operation of major 0x02 with its latency; flags set when the result lands (R43, R92, R93). -/
def aluLong (s : State) (lat d a b : Nat) (f : Word → Word → Word) (fl : Word → Word) : Except Stop (List Eff) := do
  let x ← rdS s 0 a
  let y ← rdS s 1 b
  outS s lat d (f x y) (fl y)

/-- Leading zero bits; 64 for zero (R92). -/
def clz (x : Word) : Word := if x = 0#64 then 64#64 else BitVec.ofNat 64 (63 - Nat.log2 x.toNat)

/-- One bits (R92). -/
def popc (x : Word) : Word := BitVec.ofNat 64 ((List.range 64).filter fun i => x.getLsbD i).length

/-- Signed quotient truncated toward zero, with the fixed results of R93; the overflowing quotient wraps to -2^63. -/
def divS (a b : Word) : Word := if b = 0#64 then BitVec.allOnes 64 else BitVec.ofInt 64 (a.toInt.tdiv b.toInt)
/-- Unsigned quotient (R93). -/
def divU (a b : Word) : Word := if b = 0#64 then BitVec.allOnes 64 else BitVec.ofNat 64 (a.toNat / b.toNat)
/-- Remainder with the sign of a (R92, R93). -/
def remS (a b : Word) : Word := if b = 0#64 then a else BitVec.ofInt 64 (a.toInt.tmod b.toInt)
/-- Unsigned remainder (R93). -/
def remU (a b : Word) : Word := if b = 0#64 then a else BitVec.ofNat 64 (a.toNat % b.toNat)
/-- DIVZ on a zero divisor (R93). -/
def divFlag (b : Word) : Word := flagIf (b == 0#64) flagDivz

/-- The conditions of R95. -/
def condHolds (cc : Nat) (a b : Word) : Bool :=
  match cc with
  | 0 => a == b
  | 1 => a != b
  | 2 => decide (a.toInt < b.toInt)
  | 3 => decide (b.toInt ≤ a.toInt)
  | 4 => decide (a.toNat < b.toNat)
  | _ => decide (b.toNat ≤ a.toNat)

/-- A two-source predicate operation (R96). -/
def predRR (s : State) (d a b : Nat) (f : Bool → Bool → Bool) : Except Stop (List Eff) := do
  let x ← rdP s 0 a
  let y ← rdP s 1 b
  pure (outP d (f x y))

/-- ADD: a + b (R92). -/
def execAdd (d a b : Nat) (s : State) : Host.Outcome State Fault Refusal :=
  perform s (aluRR s d a b fun x y => x + y)

/-- SUB: a - b (R92). -/
def execSub (d a b : Nat) (s : State) : Host.Outcome State Fault Refusal :=
  perform s (aluRR s d a b fun x y => x - y)

/-- AND: a and b (R92). -/
def execAnd (d a b : Nat) (s : State) : Host.Outcome State Fault Refusal :=
  perform s (aluRR s d a b fun x y => x &&& y)

/-- OR: a or b (R92). -/
def execOr (d a b : Nat) (s : State) : Host.Outcome State Fault Refusal :=
  perform s (aluRR s d a b fun x y => x ||| y)

/-- XOR: a xor b (R92). -/
def execXor (d a b : Nat) (s : State) : Host.Outcome State Fault Refusal :=
  perform s (aluRR s d a b fun x y => x ^^^ y)

/-- SHL: a shifted left by b[5:0] (R92). -/
def execShl (d a b : Nat) (s : State) : Host.Outcome State Fault Refusal :=
  perform s (aluRR s d a b fun x y => x <<< (y.toNat % 64))

/-- SHR: a shifted right by b[5:0], zeros in (R92). -/
def execShr (d a b : Nat) (s : State) : Host.Outcome State Fault Refusal :=
  perform s (aluRR s d a b fun x y => x >>> (y.toNat % 64))

/-- SRA: a shifted right by b[5:0], copies of a[63] in (R92). -/
def execSra (d a b : Nat) (s : State) : Host.Outcome State Fault Refusal :=
  perform s (aluRR s d a b fun x y => x.sshiftRight (y.toNat % 64))

/-- MIN: the signed minimum (R92). -/
def execMin (d a b : Nat) (s : State) : Host.Outcome State Fault Refusal :=
  perform s (aluRR s d a b fun x y => if x.toInt ≤ y.toInt then x else y)

/-- MAX: the signed maximum (R92). -/
def execMax (d a b : Nat) (s : State) : Host.Outcome State Fault Refusal :=
  perform s (aluRR s d a b fun x y => if x.toInt ≤ y.toInt then y else x)

/-- MINU: the unsigned minimum (R92). -/
def execMinu (d a b : Nat) (s : State) : Host.Outcome State Fault Refusal :=
  perform s (aluRR s d a b fun x y => if x.toNat ≤ y.toNat then x else y)

/-- MAXU: the unsigned maximum (R92). -/
def execMaxu (d a b : Nat) (s : State) : Host.Outcome State Fault Refusal :=
  perform s (aluRR s d a b fun x y => if x.toNat ≤ y.toNat then y else x)

/-- CLZ (R92). -/
def execClz (d a : Nat) (s : State) : Host.Outcome State Fault Refusal :=
  perform s (aluR s d a clz)

/-- POPC (R92). -/
def execPopc (d a : Nat) (s : State) : Host.Outcome State Fault Refusal :=
  perform s (aluR s d a popc)

/-- SEL: a if the predicate is true, else b (R92). -/
def execSel (d a b p : Nat) (s : State) : Host.Outcome State Fault Refusal :=
  perform s (do
    let q ← rdP s 2 p
    aluRR s d a b fun x y => if q then x else y)

/-- MUL: low 64 bits of a * b (R92). -/
def execMul (d a b : Nat) (s : State) : Host.Outcome State Fault Refusal :=
  perform s (aluLong s 2 d a b (fun x y => x * y) fun _ => 0)

/-- MULH: high 64 bits of the signed product (R92). -/
def execMulh (d a b : Nat) (s : State) : Host.Outcome State Fault Refusal :=
  perform s (aluLong s 2 d a b (fun x y => BitVec.ofInt 64 (x.toInt * y.toInt / ((2 ^ 64 : Nat) : Int))) fun _ => 0)

/-- MULHU: high 64 bits of the unsigned product (R92). -/
def execMulhu (d a b : Nat) (s : State) : Host.Outcome State Fault Refusal :=
  perform s (aluLong s 2 d a b (fun x y => BitVec.ofNat 64 (x.toNat * y.toNat / 2 ^ 64)) fun _ => 0)

/-- DIV (R92, R93). -/
def execDiv (d a b : Nat) (s : State) : Host.Outcome State Fault Refusal :=
  perform s (aluLong s 12 d a b divS divFlag)

/-- DIVU (R92, R93). -/
def execDivu (d a b : Nat) (s : State) : Host.Outcome State Fault Refusal :=
  perform s (aluLong s 12 d a b divU divFlag)

/-- REM (R92, R93). -/
def execRem (d a b : Nat) (s : State) : Host.Outcome State Fault Refusal :=
  perform s (aluLong s 12 d a b remS divFlag)

/-- REMU (R92, R93). -/
def execRemu (d a b : Nat) (s : State) : Host.Outcome State Fault Refusal :=
  perform s (aluLong s 12 d a b remU divFlag)

/-- CMP (R95). -/
def execCmp (d a b c : Nat) (s : State) : Host.Outcome State Fault Refusal :=
  perform s (do
    let x ← rdS s 0 a
    let y ← rdS s 1 b
    pure (outP d (condHolds c x y)))

/-- CMPI: the 13-bit immediate is sign-extended, and for ltu and geu then taken as unsigned (R95). -/
def execCmpi (d a c i : Nat) (s : State) : Host.Outcome State Fault Refusal :=
  perform s (do
    let x ← rdS s 0 a
    pure (outP d (condHolds c x (sextW 13 i))))

/-- PAND (R96). -/
def execPand (d a b : Nat) (s : State) : Host.Outcome State Fault Refusal :=
  perform s (predRR s d a b fun x y => x && y)

/-- POR (R96). -/
def execPor (d a b : Nat) (s : State) : Host.Outcome State Fault Refusal :=
  perform s (predRR s d a b fun x y => x || y)

/-- PXOR (R96). -/
def execPxor (d a b : Nat) (s : State) : Host.Outcome State Fault Refusal :=
  perform s (predRR s d a b fun x y => x != y)

/-- PNOT (R96). -/
def execPnot (d a : Nat) (s : State) : Host.Outcome State Fault Refusal :=
  perform s (do
    let x ← rdP s 0 a
    pure (outP d (!x)))

/-- ADDI (R94). -/
def execAddi (d a i : Nat) (s : State) : Host.Outcome State Fault Refusal :=
  perform s (aluR s d a fun x => x + sextW 16 i)

/-- ANDI (R94). -/
def execAndi (d a i : Nat) (s : State) : Host.Outcome State Fault Refusal :=
  perform s (aluR s d a fun x => x &&& BitVec.ofNat 64 i)

/-- ORI (R94). -/
def execOri (d a i : Nat) (s : State) : Host.Outcome State Fault Refusal :=
  perform s (aluR s d a fun x => x ||| BitVec.ofNat 64 i)

/-- XORI (R94). -/
def execXori (d a i : Nat) (s : State) : Host.Outcome State Fault Refusal :=
  perform s (aluR s d a fun x => x ^^^ BitVec.ofNat 64 i)

/-- SHLI (R94). -/
def execShli (d a n : Nat) (s : State) : Host.Outcome State Fault Refusal :=
  perform s (aluR s d a fun x => x <<< n)

/-- SHRI (R94). -/
def execShri (d a n : Nat) (s : State) : Host.Outcome State Fault Refusal :=
  perform s (aluR s d a fun x => x >>> n)

/-- SRAI (R94). -/
def execSrai (d a n : Nat) (s : State) : Host.Outcome State Fault Refusal :=
  perform s (aluR s d a fun x => x.sshiftRight n)

/-- MOVHI (R94). -/
def execMovhi (d a i : Nat) (s : State) : Host.Outcome State Fault Refusal :=
  perform s (aluR s d a fun x => (x <<< 16) ||| BitVec.ofNat 64 i)

/-- MOVI: the 21-bit immediate sign-extended (R94). -/
def execMovi (d i : Nat) (s : State) : Host.Outcome State Fault Refusal :=
  perform s (outBcast s d (sextW 21 i))

end Sys2Proof.Machine
end

