-- ==== Sys2Proof/Machine/ScalarMem.lean ====
section
/-! DEFINITION. The S slot's scratchpad and global accesses and its floating point (R97-R101). -/

namespace Sys2Proof.Machine

/-- The scratchpad offset of LDS and STS, an unsigned 64-bit sum (R97). -/
def spadEa (s : State) (a z i : Nat) : Except Stop Nat := do
  let x ← rdS s 0 a
  pure (x + BitVec.ofInt 64 (sextNat 14 i * ((2 ^ z : Nat) : Int))).toNat

/-- The busy ranges and the busy destination that stall LDS and STS, before any fault is looked at (R51, R54, R55). -/
def spadStall (s : State) (ea n d : Nat) (write : Bool) : Except Stop Unit := do
  if ea < Config.spadBytes ∧ ea % n = 0 then touchRange s ea n write
  touchReg s d

/-- The address checks of LDS and STS (R97). -/
def spadCheck (s : State) (ea n : Nat) : Except Stop Unit := do
  if Config.spadBytes ≤ ea then stopFault 5 ea
  needAligned s ea n

/-- LDS: read at issue, zero-extended, lands after 3 bundles (R97). -/
def execLds (d a z i : Nat) (s : State) : Host.Outcome State Fault Refusal :=
  perform s (do
    let ea ← spadEa s a z i
    spadStall s ea (2 ^ z) d false
    spadCheck s ea (2 ^ z)
    noEarly s 1 (spadPending ea (2 ^ z))
    soundRead s ea (2 ^ z)
    outS s 3 d (BitVec.ofNat 64 (memNat (cur s).spad ea (2 ^ z))) 0)

/-- STS: performs at the boundary before the next bundle (R97). -/
def execSts (d a z i : Nat) (s : State) : Host.Outcome State Fault Refusal :=
  perform s (do
    let ea ← spadEa s a z i
    spadStall s ea (2 ^ z) d true
    let v ← rdS s 2 d
    spadCheck s ea (2 ^ z)
    pure [.land 1 (some (.spad ea (2 ^ z) (v.toNat % 2 ^ (8 * 2 ^ z)))) none 0])

/-- The address checks and translation of a global access (R98): DATAXL above the address space, ALIGN, DATAXL of the walk. -/
def globalPa (s : State) (ea n : Nat) (rd wr : Bool) : Except Stop (Nat × List TlbEnt) := do
  needData s ea n
  match xlate s s.focus (ctx s).mode (rootPa (ctx s).droot) ea rd wr with
  | .error r => stopXl s ea n rd wr (ea, r)
  | .ok q => pure q

/-- A global access enters the pipe (R54, R98). -/
def launch (s : State) (kind : AccessKind) (ea n d data swap scope : Nat) (acq rel rd wr : Bool) : Except Stop (List Eff) := do
  touchReg s d
  let q ← globalPa s ea n rd wr
  let acc : Access :=
    { seq := 0, kind := kind, va := ea, pa := q.1, size := n, dst := d, data := data, swap := swap, scope := scope, acq := acq,
      rel := rel, serial := (ctx s).serial, home := none, upto := 0, seen := [] }
  pure (q.2.map Eff.fillD ++ [.access acc])

/-- LDG and LDG.acq (R98). -/
def execLdg (d a b sc o z : Nat) (s : State) : Host.Outcome State Fault Refusal :=
  perform s (do
    let x ← rdS s 0 a
    let y ← rdS s 1 b
    launch s .load (x + y).toNat (2 ^ z) d 0 0 sc (o == 1) false true false)

/-- STG and STG.rel: the address is the sum of the registers a5 and b5 name, and b5 also names the data (R62, R98; log 12). -/
def execStg (d a b sc o z : Nat) (s : State) : Host.Outcome State Fault Refusal :=
  perform s (do
    let x ← rdS s 0 a
    let y ← rdS s 1 b
    launch s .store (x + y).toNat (2 ^ z) d (y.toNat % 2 ^ (8 * 2 ^ z)) 0 sc false (o == 1) false true)

/-- The AMO family (R99): order bit 0 acquires, bit 1 releases; CAS alone reads d5, its replacement. -/
def amoOp (s : State) (fn d a b sc o w : Nat) : Except Stop (List Eff) := do
  let n := if w = 1 then 8 else 4
  let x ← rdS s 0 a
  let y ← rdS s 1 b
  let r ← if fn = 2 then rdS s 2 d else pure 0
  launch s (.amo fn) x.toNat n d (y.toNat % 2 ^ (8 * n)) (r.toNat % 2 ^ (8 * n)) sc (o % 2 == 1) (o / 2 == 1) true true

/-- AMO.ADD (R99). -/
def execAmoAdd (d a b sc o w : Nat) (s : State) : Host.Outcome State Fault Refusal :=
  perform s (amoOp s 0 d a b sc o w)

/-- AMO.SWAP (R99). -/
def execAmoSwap (d a b sc o w : Nat) (s : State) : Host.Outcome State Fault Refusal :=
  perform s (amoOp s 1 d a b sc o w)

/-- AMO.CAS (R99). -/
def execAmoCas (d a b sc o w : Nat) (s : State) : Host.Outcome State Fault Refusal :=
  perform s (amoOp s 2 d a b sc o w)

/-- AMO.MIN (R99). -/
def execAmoMin (d a b sc o w : Nat) (s : State) : Host.Outcome State Fault Refusal :=
  perform s (amoOp s 3 d a b sc o w)

/-- AMO.MAX (R99). -/
def execAmoMax (d a b sc o w : Nat) (s : State) : Host.Outcome State Fault Refusal :=
  perform s (amoOp s 4 d a b sc o w)

/-- AMO.AND (R99). -/
def execAmoAnd (d a b sc o w : Nat) (s : State) : Host.Outcome State Fault Refusal :=
  perform s (amoOp s 5 d a b sc o w)

/-- AMO.OR (R99). -/
def execAmoOr (d a b sc o w : Nat) (s : State) : Host.Outcome State Fault Refusal :=
  perform s (amoOp s 6 d a b sc o w)

/-- The format of a scalar FP operation (R63). -/
def fpFmt (p : Nat) : FloatFmt := if p = 1 then fmtFp64 else fmtFp32
/-- The operand of a scalar FP operation: FP32 ignores bits [63:32] (R100). -/
def fpArg (p : Nat) (w : Word) : FV := decodeFloat (fpFmt p) (if p = 1 then w.toNat else w.toNat % 2 ^ 32)
/-- The three flags that scalar FP sets (R100, R101). -/
def fpFlags : Word := flagInvalid ||| flagOver ||| flagInexact ||| flagSat

/-- A scalar FP result, rounded once, flags landing with it (R100). -/
def fpOut (s : State) (d p r : Nat) (v : FV × Word) : Except Stop (List Eff) :=
  let e := encodeFloat (fpFmt p) r v.1
  outS s 4 d (BitVec.ofNat 64 e.1) ((v.2 ||| e.2) &&& fpFlags)

/-- FADD (R100, R401). -/
def execFadd (d a b p r : Nat) (s : State) : Host.Outcome State Fault Refusal :=
  perform s (do
    let x ← rdS s 0 a
    let y ← rdS s 1 b
    fpOut s d p r (fvSum (r == 3) [fpArg p x, fpArg p y]))

/-- FMUL (R100). -/
def execFmul (d a b p r : Nat) (s : State) : Host.Outcome State Fault Refusal :=
  perform s (do
    let x ← rdS s 0 a
    let y ← rdS s 1 b
    fpOut s d p r (fvMul (fpArg p x) (fpArg p y)))

/-- FCVT.I: to a signed 64-bit integer (R101). -/
def execFcvtI (d a p r : Nat) (s : State) : Host.Outcome State Fault Refusal :=
  perform s (do
    let x ← rdS s 0 a
    let e := encodeSigned 64 r (fpArg p x)
    outS s 4 d (BitVec.ofNat 64 e.1) e.2)

/-- FCVT.F: from a signed 64-bit integer (R101). -/
def execFcvtF (d a p r : Nat) (s : State) : Host.Outcome State Fault Refusal :=
  perform s (do
    let x ← rdS s 0 a
    fpOut s d p r (fvInt x.toInt, 0))

end Sys2Proof.Machine
end

