-- ==== Sys2Proof/Machine/Vector.lean ====
section
/-! DEFINITION. The vector instructions (R177-R193). -/

namespace Sys2Proof.Machine

/-! ### Lanes -/

/-- Lane codes from values, rounded once by RNE into the format, and the flags (R178). -/
def encLanes (fmt : Nat) (vs : List (FV × Word)) : List Nat × Word :=
  let cs := vs.map fun v => (encodeElt fmt 0 v.1, v.2)
  (cs.map (·.1.1), cs.foldl (fun acc c => acc ||| c.1.2 ||| c.2) 0#64)

/-- The values of a row's lanes (R171). -/
def laneVals (fmt : Nat) (r : Row) : List FV := (laneCodes fmt r).map (decodeElt fmt)

/-- A row result from lane codes and flags. -/
def lanesRes (fmt : Nat) (c : List Nat × Word) : VRes := rowRes (laneRow fmt c.1) fmt c.2

/-- The absolute value or another one-source operation, NaN made canonical with INVALID for a signalling one (R178, R179). -/
def quiet (f : FV → FV) (v : FV) : FV × Word :=
  match v with
  | .nan s => (.nan false, flagIf s flagInvalid)
  | x => (f x, 0)

/-- One source, lane by lane. `fix` is the fixed format of integer operations (R179, R192), whose lanes are taken from the bytes as R36 and R172
deliver them. -/
def vec1 (s : State) (g d nw lat a : Nat) (ok : Nat → Bool) (fix : Option Nat) (f : FV → FV × Word) : Except Stop (List Eff) :=
  vecOp s g d nw lat [(0, a)] (fun _ => ok) false fun fmt r _ =>
    let t := fix.getD fmt
    .ok (lanesRes t (encLanes t ((laneVals t (r.getD 0 0)).map f)))

/-- Two sources, lane by lane. -/
def vec2 (s : State) (g d nw lat a b : Nat) (ok : Nat → Bool) (fix : Option Nat) (f : FV → FV → FV × Word) : Except Stop (List Eff) :=
  vecOp s g d nw lat [(0, a), (1, b)] (fun _ => ok) fix.isNone fun fmt r _ =>
    let t := fix.getD fmt
    .ok (lanesRes t (encLanes t (((laneVals t (r.getD 0 0)).zip (laneVals t (r.getD 1 0))).map fun p => f p.1 p.2)))

/-- a * b + c with one rounding by the caller (R179). -/
def fvFma (a b c : FV) : FV × Word :=
  let p := fvMul a b
  let r := fvSum false [p.1, c]
  (r.1, p.2 ||| r.2)

/-- Three sources, the third through d6. -/
def vec3 (s : State) (g d nw lat a b : Nat) (f : FV → FV → FV → FV × Word) : Except Stop (List Eff) :=
  vecOp s g d nw lat [(0, a), (1, b), (2, d)] (fun _ => tagF) true fun fmt rows _ =>
    let l (i : Nat) : List FV := laneVals fmt (rows.getD i 0)
    .ok (lanesRes fmt (encLanes fmt (((l 0).zip ((l 1).zip (l 2))).map fun p => f p.1 p.2.1 p.2.2)))

/-! ### Floating-point arithmetic (R178, R179) -/

/-- VADD: a + b. -/
def execVadd (d a b g w : Nat) (s : State) : Host.Outcome State Fault Refusal :=
  perform s (vec2 s g d w 2 a b tagF none fun x y => fvSum false [x, y])

/-- VSUB: a - b. -/
def execVsub (d a b g w : Nat) (s : State) : Host.Outcome State Fault Refusal :=
  perform s (vec2 s g d w 2 a b tagF none fun x y => fvSum false [x, fvNeg y])

/-- VMIN. -/
def execVmin (d a b g w : Nat) (s : State) : Host.Outcome State Fault Refusal :=
  perform s (vec2 s g d w 2 a b tagF none (fvPick false))

/-- VMAX. -/
def execVmax (d a b g w : Nat) (s : State) : Host.Outcome State Fault Refusal :=
  perform s (vec2 s g d w 2 a b tagF none (fvPick true))

/-- VABS. -/
def execVabs (d a g w : Nat) (s : State) : Host.Outcome State Fault Refusal :=
  perform s (vec1 s g d w 2 a tagF none (quiet fvAbs))

/-- VNEG. -/
def execVneg (d a g w : Nat) (s : State) : Host.Outcome State Fault Refusal :=
  perform s (vec1 s g d w 2 a tagF none (quiet fvNeg))

/-- VMUL: a * b. -/
def execVmul (d a b g w : Nat) (s : State) : Host.Outcome State Fault Refusal :=
  perform s (vec2 s g d w 4 a b tagF none fvMul)

/-- VFMA: a * b + d, d read at issue. -/
def execVfma (d a b g w : Nat) (s : State) : Host.Outcome State Fault Refusal :=
  perform s (vec3 s g d w 4 a b fvFma)

/-- VFMS: a * b - d. -/
def execVfms (d a b g w : Nat) (s : State) : Host.Outcome State Fault Refusal :=
  perform s (vec3 s g d w 4 a b fun x y z => fvFma x y (fvNeg z))

/-! ### Transcendentals (R180) -/

/-- The tags the transcendentals take. -/
def tagT (t : Nat) : Bool := t == 0x10 || t == 0x0F || t == 0x12

/-- A slot's transcendental unit accepts one operation every 4 cycles; a bundle that finds it busy stalls (R180). -/
def unitFree (s : State) : Bool :=
  match (ctx s).lastUnits.find? (·.1 == s.issue.slot) with
  | some e => decide (e.2 + 4 ≤ (cur s).cycles)
  | none => true

/-- A transcendental by its fn3 code. -/
def vecTrans (s : State) (op d a g w : Nat) : Except Stop (List Eff) := do
  bcastLegal s [a]
  if !(← rdP s 3 g) then pure []
  else do
    vecStalls s [a] (if w = 1 then none else some d)
    if !unitFree s then stopStall .queue
    let es ← vecOp s 0 d w 8 [(0, a)] (fun _ => tagT) false fun fmt rows _ =>
      let cs := (laneCodes fmt (rows.getD 0 0)).map (transc fmt op)
      .ok (lanesRes fmt (cs.map (·.1), cs.foldl (fun acc c => acc ||| c.2) 0#64))
    pure (.act (.unitAccept s.issue.slot) :: es)

/-- VRCP (R180). -/
def execVrcp (d a g w : Nat) (s : State) : Host.Outcome State Fault Refusal :=
  perform s (vecTrans s 0 d a g w)

/-- VRSQ (R180). -/
def execVrsq (d a g w : Nat) (s : State) : Host.Outcome State Fault Refusal :=
  perform s (vecTrans s 1 d a g w)

/-- VSQRT (R180). -/
def execVsqrt (d a g w : Nat) (s : State) : Host.Outcome State Fault Refusal :=
  perform s (vecTrans s 2 d a g w)

/-- VEXP2 (R180). -/
def execVexp2 (d a g w : Nat) (s : State) : Host.Outcome State Fault Refusal :=
  perform s (vecTrans s 3 d a g w)

/-- VLOG2 (R180). -/
def execVlog2 (d a g w : Nat) (s : State) : Host.Outcome State Fault Refusal :=
  perform s (vecTrans s 4 d a g w)

/-- VTANH (R180). -/
def execVtanh (d a g w : Nat) (s : State) : Host.Outcome State Fault Refusal :=
  perform s (vecTrans s 5 d a g w)

/-! ### Integers and bits (R179) -/

/-- VIADD: saturated on INT32 lanes, SAT when clamped. -/
def execViadd (d a b g w : Nat) (s : State) : Host.Outcome State Fault Refusal :=
  perform s (vec2 s g d w 2 a b tagI (some 8) fun x y => fvSum false [x, y])

/-- VISUB: saturated on INT32 lanes, SAT when clamped. -/
def execVisub (d a b g w : Nat) (s : State) : Host.Outcome State Fault Refusal :=
  perform s (vec2 s g d w 2 a b tagI (some 8) fun x y => fvSum false [x, fvNeg y])

/-- VIMUL: saturated. -/
def execVimul (d a b g w : Nat) (s : State) : Host.Outcome State Fault Refusal :=
  perform s (vec2 s g d w 4 a b tagI (some 8) fvMul)

/-- VIMIN. -/
def execVimin (d a b g w : Nat) (s : State) : Host.Outcome State Fault Refusal :=
  perform s (vec2 s g d w 2 a b tagI (some 8) (fvPick false))

/-- VIMAX. -/
def execVimax (d a b g w : Nat) (s : State) : Host.Outcome State Fault Refusal :=
  perform s (vec2 s g d w 2 a b tagI (some 8) (fvPick true))

/-- A bitwise operation over all 512 bytes of the row. -/
def vecBits (s : State) (d a b g w : Nat) (f : Row → Row → Row) : Except Stop (List Eff) :=
  vecOp s g d w 2 [(0, a), (1, b)] (fun _ => tagAny) true fun fmt rows _ =>
    .ok (rowRes (f (rows.getD 0 0) (rows.getD 1 0)) fmt 0)

/-- VAND. -/
def execVand (d a b g w : Nat) (s : State) : Host.Outcome State Fault Refusal :=
  perform s (vecBits s d a b g w fun x y => x &&& y)

/-- VOR. -/
def execVor (d a b g w : Nat) (s : State) : Host.Outcome State Fault Refusal :=
  perform s (vecBits s d a b g w fun x y => x ||| y)

/-- VXOR. -/
def execVxor (d a b g w : Nat) (s : State) : Host.Outcome State Fault Refusal :=
  perform s (vecBits s d a b g w fun x y => x ^^^ y)

/-- A shift of 32-bit lanes by the immediate; no flag. -/
def vecShift (s : State) (d a i g w : Nat) (f : BitVec 32 → BitVec 32) : Except Stop (List Eff) := do
  needLegal s (decide (i ≤ 31))
  vecOp s g d w 2 [(0, a)] (fun _ => tagI) false fun _ rows _ =>
    let cs := (laneCodes 8 (rows.getD 0 0)).map fun c => (f (BitVec.ofNat 32 c)).toNat
    .ok (rowRes (laneRow 8 cs) 8 0)

/-- VSHL. -/
def execVshl (d a i g w : Nat) (s : State) : Host.Outcome State Fault Refusal :=
  perform s (vecShift s d a i g w fun x => x <<< i)

/-- VSHR. -/
def execVshr (d a i g w : Nat) (s : State) : Host.Outcome State Fault Refusal :=
  perform s (vecShift s d a i g w fun x => x >>> i)

/-- VSRA. -/
def execVsra (d a i g w : Nat) (s : State) : Host.Outcome State Fault Refusal :=
  perform s (vecShift s d a i g w fun x => x.sshiftRight i)

/-! ### Lane masks (R181, R193) -/

/-- A lane-mask result: it lands with latency 2, and enters q0 as a raw row. -/
def maskOut (d w : Nat) (bs : List Bool) (cnt : Nat) : List Eff :=
  let m := maskOfBits bs cnt
  [.land 2 (if w = 1 then none else some (.kmask d m.1 m.2)) (some (BitVec.ofNat 4096 m.1.toNat, none)) 0]

/-- The conditions of R65 on two values. -/
def vecCond (cc : Nat) (x y : FV) : Bool :=
  match cc with
  | 0 => fvEq x y
  | 1 => !fvEq x y
  | 2 => fvLt x y
  | 3 => fvLt x y || fvEq x y
  | 4 => fvLt y x
  | _ => fvLt y x || fvEq x y

/-- VCMP. -/
def execVcmp (k a b g c w : Nat) (s : State) : Host.Outcome State Fault Refusal :=
  perform s (do
    bcastLegal s [a, b]
    if !(← rdP s 3 g) then pure []
    else do
      let pos := [(0, a), (1, b)]
      vecStalls s [a, b] none
      let r ← readVecs s pos []
      let fmt := opFmt (ctx s) r.1
      tagsAllowed s (fun _ => tagFI) pos r.1
      tagsAlike s fmt pos r.1
      let rows := r.1.map (·.rowIn fmt)
      let bs := ((laneVals fmt (rows.getD 0 0)).zip (laneVals fmt (rows.getD 1 0))).map fun p => vecCond c p.1 p.2
      pure (r.2 ++ holdEffs fmt pos r.1 ++ maskOut k w bs (lanesOf fmt)))

/-- VSEL. -/
def execVsel (d a b g k w : Nat) (s : State) : Host.Outcome State Fault Refusal :=
  perform s (do
    bcastLegal s [a, b]
    if !(← rdP s 3 g) then pure []
    else do
      let m ← rdK s 4 k
      vecOp s 0 d w 2 [(0, a), (1, b)] (fun _ => tagNotCS) true fun fmt rows _ =>
        let cs := ((laneCodes fmt (rows.getD 0 0)).zip (laneCodes fmt (rows.getD 1 0))).zipIdx.map fun p =>
          if maskBit m p.2 then p.1.1 else p.1.2
        .ok (rowRes (laneRow fmt cs) fmt 0))

/-- A lane-mask operation under its guard; the count is that of K[a]. -/
def vecMask (s : State) (d a b g w : Nat) (f : Bool → Bool → Bool) : Except Stop (List Eff) := do
  if !(← rdP s 3 g) then pure []
  else do
    let x ← rdK s 1 a
    let y ← rdK s 2 b
    pure (maskOut d w ((List.range x.2).map fun i => f (x.1.getLsbD i) (y.1.getLsbD i)) x.2)

/-- VKAND. -/
def execVkand (d a b g w : Nat) (s : State) : Host.Outcome State Fault Refusal :=
  perform s (vecMask s d a b g w fun x y => x && y)

/-- VKOR. -/
def execVkor (d a b g w : Nat) (s : State) : Host.Outcome State Fault Refusal :=
  perform s (vecMask s d a b g w fun x y => x || y)

/-- VKNOT. -/
def execVknot (d a g w : Nat) (s : State) : Host.Outcome State Fault Refusal :=
  perform s (vecMask s d a a g w fun x _ => !x)

/-! ### Conversion (R182) -/

/-- Consecutive runs of 8. -/
def eights {α : Type} : Nat → List α → List (List α)
  | 0, _ => []
  | n + 1, l => l.take 8 :: eights n (l.drop 8)

/-- The values of a source's lanes for VCVT: an E2M1 element is read times its block scale (R171). -/
def cvtVals (sf : Nat) (r : Row) : List FV :=
  (laneCodes sf r).zipIdx.map fun p =>
    let v := decodeElt sf p.1
    if sf = 0x09 then (fvMul v (decodeElt 0x1C (rowByte r (256 + p.2 / 8)).toNat)).1 else v

/-- The converted row; a lane without a source element is +0 and sets no flag. -/
def cvtRow (t mode : Nat) (xs : List (Option FV)) : Row × Word :=
  let bl := eights (lanesOf t / 8) xs
  if t = 0x09 then
    let ys := bl.map fun b => encodeScaledBlock 0 t mode (fvInt 1) (b.map (·.getD fvZero))
    (BitVec.ofNat 4096 (packElts 4 (ys.flatMap (·.2.1)) + 2 ^ 2048 * packElts 8 (ys.map (·.1))),
      ys.foldl (fun acc y => acc ||| y.2.2) 0#64)
  else
    let ys := bl.map fun b => encodeBlock t mode b
    (laneRow t (ys.flatMap fun y => y.1.map (·.getD 0)), ys.foldl (fun acc y => acc ||| y.2) 0#64)

/-- VCVT. -/
def execVcvt (d a f g r w : Nat) (s : State) : Host.Outcome State Fault Refusal :=
  perform s (vecOp s g d w 2 [(0, a)] (fun _ => tagAny) false fun sf rows _ => do
    if !tagAny f then stopShape s 2 1 0 f
    let xs := cvtVals sf (rows.getD 0 0)
    let c := cvtRow f r ((List.range (lanesOf f)).map fun i => xs[i]?)
    pure (rowRes c.1 f c.2))

/-! ### Movement (R183, R186) -/

/-- One source moved lane by lane: the new codes from the old. -/
def vecMove (s : State) (d a g w : Nat) (ok : Nat → Bool) (f : List Nat → List Nat) : Except Stop (List Eff) :=
  vecOp s g d w 2 [(0, a)] (fun _ => ok) false fun fmt rows _ => .ok (rowRes (laneRow fmt (f (laneCodes fmt (rows.getD 0 0)))) fmt 0)

/-- VBCAST. -/
def execVbcast (d a g w : Nat) (s : State) : Host.Outcome State Fault Refusal :=
  perform s (vecMove s d a g w tagFI fun l => l.map fun _ => l.getD 0 0)

/-- VMOV: all 512 bytes. -/
def execVmov (d a g w : Nat) (s : State) : Host.Outcome State Fault Refusal :=
  perform s (vecOp s g d w 2 [(0, a)] (fun _ => tagAny) false fun fmt rows _ => .ok (rowRes (rows.getD 0 0) fmt 0))

/-- VIOTA. -/
def execViota (d g w : Nat) (s : State) : Host.Outcome State Fault Refusal :=
  perform s (vecOp s g d w 2 [] (fun _ => tagAny) false fun _ _ _ => .ok (rowRes (laneRow 8 (List.range 128)) 8 0))

/-- The index tags of VSHUF: INT32 and the integer carriers. -/
def tagIdx (t : Nat) : Bool := t == 8 || t == 4 || t == 5 || t == 6 || t == 7

/-- VSHUF. -/
def execVshuf (d a b g w : Nat) (s : State) : Host.Outcome State Fault Refusal :=
  perform s (vecOp s g d w 2 [(0, a), (1, b)] (fun p t => if p = 0 then tagFI t else tagIdx t) false fun fmt rows vs => do
    let bt := ((vs.getD 1 ⟨0, none, none, none⟩).tag).getD fmt
    if lanesOf bt < lanesOf fmt then stopShape s 2 1 fmt bt
    let x := laneCodes fmt (rows.getD 0 0)
    let j := laneCodes bt ((vs.map (·.rowIn bt)).getD 1 0)
    pure (rowRes (laneRow fmt ((List.range (lanesOf fmt)).map fun i => x.getD (j.getD i 0) 0)) fmt 0))

/-- VSLIDE.UP. -/
def execVslideUp (d a i g w : Nat) (s : State) : Host.Outcome State Fault Refusal :=
  perform s (vecMove s d a g w tagNotCS fun l => (List.replicate i 0 ++ l).take l.length)

/-- VSLIDE.DN. -/
def execVslideDn (d a i g w : Nat) (s : State) : Host.Outcome State Fault Refusal :=
  perform s (vecMove s d a g w tagNotCS fun l => (l.drop i ++ List.replicate i 0).take l.length)

/-- The set bits of a mask in order, below the lane count. -/
def maskIdx (m : BitVec 512 × Nat) (n : Nat) : List Nat := (List.range n).filter (maskBit m)

/-- VCOMPACT. -/
def execVcompact (d a k g w : Nat) (s : State) : Host.Outcome State Fault Refusal :=
  perform s (do
    bcastLegal s [a]
    if !(← rdP s 3 g) then pure []
    else do
      let m ← rdK s 2 k
      vecMove s d a 0 w tagFI fun l => (maskIdx m l.length).map (l.getD · 0))

/-- VEXPAND. -/
def execVexpand (d a k g w : Nat) (s : State) : Host.Outcome State Fault Refusal :=
  perform s (do
    bcastLegal s [a]
    if !(← rdP s 3 g) then pure []
    else do
      let m ← rdK s 2 k
      vecMove s d a 0 w tagFI fun l =>
        (List.range l.length).map fun i => if maskBit m i then l.getD (maskIdx m i).length 0 else 0)

/-! ### Reductions (R184) -/

/-- op over values: the exact sum, the maximum or the minimum. -/
def reduceVals (op : Nat) (xs : List FV) : FV × Word :=
  match op with
  | 0 => fvSum false xs
  | 1 => fvPickList true xs
  | _ => fvPickList false xs

/-- VRED. -/
def execVred (d a o g w : Nat) (s : State) : Host.Outcome State Fault Refusal :=
  perform s (vecOp s g d w 6 [(0, a)] (fun _ => tagFI) false fun fmt rows _ =>
    let t := reduceVals o (laneVals fmt (rows.getD 0 0))
    let c := encodeElt fmt 0 t.1
    .ok (rowRes (laneRow fmt (List.replicate (lanesOf fmt) c.1)) fmt (t.2 ||| c.2)))

/-- VSCAN. -/
def execVscan (d a o g w : Nat) (s : State) : Host.Outcome State Fault Refusal :=
  perform s (vecOp s g d w 6 [(0, a)] (fun _ => tagFI) false fun fmt rows _ =>
    let xs := laneVals fmt (rows.getD 0 0)
    .ok (lanesRes fmt (encLanes fmt ((List.range xs.length).map fun i => reduceVals o (xs.take (i + 1))))))

/-- The last head at or before each lane. -/
def lastHeads : Nat → Nat → List Nat → List Nat
  | _, _, [] => []
  | h, i, b :: bs => let h' := if b != 0 then i else h; h' :: lastHeads h' (i + 1) bs

/-- VSEGRED. -/
def execVsegred (d a b g o w : Nat) (s : State) : Host.Outcome State Fault Refusal :=
  perform s (vecOp s g d w 6 [(0, a), (1, b)] (fun p t => if p = 0 then tagFI t else tagNotCS t) false fun fmt rows vs => do
    let bt := ((vs.getD 1 ⟨0, none, none, none⟩).tag).getD fmt
    if lanesOf bt ≠ lanesOf fmt then stopShape s 2 1 fmt bt
    let xs := laneVals fmt (rows.getD 0 0)
    let hs := lastHeads 0 0 (laneCodes bt ((vs.map (·.rowIn bt)).getD 1 0))
    pure (lanesRes fmt (encLanes fmt (hs.zipIdx.map fun h => reduceVals o ((xs.take (h.2 + 1)).drop h.1)))))

/-! ### Sorting and differences (R185, R187) -/

/-- A lane put in after every lane whose key is not above its own: the sort is stable. -/
def insertLane (lt : FV → FV → Bool) (x : FV × Nat × Nat) : List (FV × Nat × Nat) → List (FV × Nat × Nat)
  | [] => [x]
  | y :: ys => if lt x.1 y.1 then x :: y :: ys else y :: insertLane lt x ys

/-- The lanes in ascending order of key. -/
def sortLanes (lt : FV → FV → Bool) (l : List (FV × Nat × Nat)) : List (FV × Nat × Nat) := l.foldl (fun acc x => insertLane lt x acc) []

/-- The tags of VSORT's keys and of VDELTA. -/
def tagNoX (t : Nat) : Bool := tagFI t && t != 0x18

/-- VSORT: the keys go to d, the payload permuted alike enters q0 with its own tag. -/
def vecSort (s : State) (d a b g w : Nat) (lt : FV → FV → Bool) : Except Stop (List Eff) :=
  vecOp s g d w 12 [(0, a), (1, b)] (fun p t => if p = 0 then tagNoX t else tagNotCS t) false fun fmt rows vs => do
    let bs := vs.getD 1 ⟨0, none, none, none⟩
    let bt := bs.tag.getD fmt
    if lanesOf bt ≠ lanesOf fmt then stopShape s 2 1 fmt bt
    let ks := laneCodes fmt (rows.getD 0 0)
    let ps := laneCodes bt (bs.rowIn bt)
    let l := sortLanes lt ((ks.zip ps).map fun p => (decodeElt fmt p.1, p.1, p.2))
    pure ⟨laneRow fmt (l.map (·.2.1)), some fmt, (laneRow bt (l.map (·.2.2)), bs.tag), 0, false⟩

/-- VSORT.ASC. -/
def execVsortAsc (d a b g w : Nat) (s : State) : Host.Outcome State Fault Refusal :=
  perform s (vecSort s d a b g w fvKeyLt)

/-- VSORT.DESC: the key order reversed. -/
def execVsortDesc (d a b g w : Nat) (s : State) : Host.Outcome State Fault Refusal :=
  perform s (vecSort s d a b g w fun x y => fvKeyLt y x)

/-- One lane of VDELTA: the new reference code, the difference code, the flags. -/
def deltaLane (fmt a b d : Nat) : Nat × Nat × Word :=
  let x := decodeElt fmt a
  let y := decodeElt fmt b
  let z := decodeElt fmt d
  let df := fvSum false [x, fvNeg z]
  let sig := flagIf (fvIsSig x || fvIsSig y || fvIsSig z) flagInvalid
  if fvIsNan df.1 || fvIsNan y then (a, (encodeElt fmt 0 (.nan false)).1, df.2 ||| sig)
  else if fvLt y (fvAbs df.1) then
    let c := encodeElt fmt 0 df.1
    (a, c.1, c.2)
  else (d, 0, 0)

/-- VDELTA: d becomes the new reference, the differences enter q0. -/
def execVdelta (d a b g w : Nat) (s : State) : Host.Outcome State Fault Refusal :=
  perform s (vecOp s g d w 2 [(0, a), (1, b), (2, d)] (fun _ => tagNoX) true fun fmt rows _ =>
    let c (i : Nat) : List Nat := laneCodes fmt (rows.getD i 0)
    let ls := ((c 0).zip ((c 1).zip (c 2))).map fun p => deltaLane fmt p.1 p.2.1 p.2.2
    .ok ⟨laneRow fmt (ls.map (·.1)), some fmt, (laneRow fmt (ls.map (·.2.1)), some fmt),
      ls.foldl (fun acc l => acc ||| l.2.2) 0#64, false⟩)

/-! ### VROPE and VSMAX (R188, R189) -/

/-- One pair rotated by a position: x cos - y sin and x sin + y cos, each rounded once. -/
def ropePair (fmt n j x y pos : Nat) : List Nat × Word :=
  let nan := (encodeElt fmt 0 (.nan false)).1
  if pos / 2 ^ 24 ≠ 0 then ([nan, nan], flagRange)
  else
    let phi := pos * ropeFactor n j % 2 ^ 40
    let c := trigTurn 0 phi
    let sn := trigTurn 1 phi
    let a := decodeElt fmt x
    let b := decodeElt fmt y
    let p1 := fvMul a c
    let p2 := fvMul b sn
    let p3 := fvMul a sn
    let p4 := fvMul b c
    let u := fvSum false [p1.1, fvNeg p2.1]
    let v := fvSum false [p3.1, p4.1]
    let r := encLanes fmt [u, v]
    (r.1, r.2 ||| p1.2 ||| p2.2 ||| p3.2 ||| p4.2)

/-- VROPE. An untagged b is delivered in the operation's format, that of a, and its bits are then read as INT32 lanes: R172 and R188 together do
not say which lane width code 61 is broadcast at there (log 107). -/
def execVrope (d a b g w : Nat) (s : State) : Host.Outcome State Fault Refusal :=
  perform s (vecOp s g d w 4 [(0, a), (1, b)] (fun p t => if p = 0 then tagT t else tagI t) false fun fmt rows _ =>
    let xs := laneCodes fmt (rows.getD 0 0)
    let ps := laneCodes 8 (rows.getD 1 0)
    let n := Nat.log2 (lanesOf fmt / 2)
    let ls := (List.range (lanesOf fmt / 2)).map fun j => ropePair fmt n j (xs.getD (2 * j) 0) (xs.getD (2 * j + 1) 0) (ps.getD j 0)
    .ok (lanesRes fmt (ls.flatMap (·.1), ls.foldl (fun acc l => acc ||| l.2) 0#64)))

/-- VSMAX. -/
def execVsmax (d a b g w : Nat) (s : State) : Host.Outcome State Fault Refusal :=
  perform s (vecOp s g d w 6 [(0, a), (1, b)] (fun _ => tagT) true fun fmt rows _ =>
    let xs := laneVals fmt (rows.getD 0 0)
    let m := fvPickList true ((laneVals fmt (rows.getD 1 0)).take 1 ++ xs)
    if m.1 = .inf true then .ok (rowRes 0 fmt 0)
    else
      let cs := xs.map fun x =>
        let df := fvSum false [x, fvNeg m.1]
        let y := exp2Val (encodeElt fmt 0) df.1
        (y.1, df.2 ||| y.2)
      .ok (lanesRes fmt (cs.map (·.1), cs.foldl (fun acc c => acc ||| c.2) m.2)))

/-! ### Scratchpad rows and single lanes (R190-R193) -/

/-- The scratchpad offset of VLD and VST. A row in a busy range stalls the bundle as that before its register is waited for, and its faults come
last (R55, R58). -/
def rowEa (s : State) (a i : Nat) (write : Option Bool) : Except Stop Nat := do
  let ea := (sregOf (ctx s) a + BitVec.ofInt 64 (sextNat 8 i * 512)).toNat
  match write with
  | some b => if !busyReg (cur s) a && ea + 512 ≤ Config.spadBytes then touchRange s ea 512 b
  | none => pure ()
  let _ ← rdS s 1 a
  needAligned s ea 64
  if Config.spadBytes < ea + 512 then stopFault 5 ea
  pure ea

/-- VLD. -/
def execVld (d a i g w : Nat) (s : State) : Host.Outcome State Fault Refusal :=
  perform s (do
    if !(← rdP s 3 g) then pure []
    else do
      if w = 0 then vecStall s d 0 true
      let ea ← rowEa s a i (some false)
      noEarly s 1 (spadPending ea 512)
      soundRead s ea 512
      vecDest s d w 2 (rowRes (BitVec.ofNat 4096 (memNat (cur s).spad ea 512)) (ctx s).wfmt 0))

/-- VST: the source is read through d6; the row is written when the result lands. -/
def execVst (d a i g w : Nat) (s : State) : Host.Outcome State Fault Refusal :=
  perform s (do
    bcastLegal s [d]
    if !(← rdP s 3 g) then pure []
    else do
      vecStall s d 0 false
      let ea ← rowEa s a i (if w = 1 then none else some true)
      let r ← readVecs s [(2, d)] []
      let fmt := opFmt (ctx s) r.1
      let v := r.1.getD 0 ⟨0, none, none, none⟩
      let row := v.rowIn fmt
      pure (r.2 ++ holdEffs fmt [(2, d)] r.1 ++
        [.land 2 (if w = 1 then none else some (.spad ea 512 row.toNat)) (some (row, v.tag)) 0]))

/-- VMOVS. -/
def execVmovs (d a i g w : Nat) (s : State) : Host.Outcome State Fault Refusal :=
  perform s (do
    bcastLegal s [a]
    if !(← rdP s 3 g) then pure []
    else do
      vecStalls s [a] none
      if w = 0 then touchReg s d
      let r ← readVecs s [(0, a)] []
      let fmt := opFmt (ctx s) r.1
      tagsAllowed s (fun _ => tagNotCS) [(0, a)] r.1
      let v := (laneCodes fmt ((r.1.map (·.rowIn fmt)).getD 0 0)).getD i 0
      pure (r.2 ++ holdEffs fmt [(0, a)] r.1 ++
        [.land 2 (if w = 1 then none else some (.sreg d (BitVec.ofNat 64 v))) (some (BitVec.ofNat 4096 v, none)) 0]))

/-- VINS: lane imm8 of d replaced by the low bits of the scalar. -/
def execVins (d a i g w : Nat) (s : State) : Host.Outcome State Fault Refusal :=
  perform s (do
    if !(← rdP s 3 g) then pure []
    else do
      vecStalls s [d] (if w = 1 then none else some d)
      let x ← rdS s 1 a
      vecOp s 0 d w 2 [(2, d)] (fun _ => tagNotCS) false fun fmt rows _ =>
        let cs := laneCodes fmt (rows.getD 0 0)
        .ok (rowRes (if lanesOf fmt ≤ i then rows.getD 0 0 else laneRow fmt (cs.set i (x.toNat % 2 ^ fmtWidth fmt))) fmt 0))

end Sys2Proof.Machine
end

