-- ==== Sys2Proof/Machine/Dispatch.lean ====
section
/-! DEFINITION. The dispatch of instructions and events to their meanings: one arm per constructor. -/

namespace Sys2Proof.Machine

/-- The meaning of an instruction. -/
def exec (i : Instr) (s : State) : Host.Outcome State Fault Refusal :=
  match i with
  | .nop => Sys2Proof.Machine.execNop s
  | .pbr t k => Sys2Proof.Machine.execPbr t k s
  | .pbrr t a k => Sys2Proof.Machine.execPbrr t a k s
  | .br t => Sys2Proof.Machine.execBr t s
  | .brp t p n => Sys2Proof.Machine.execBrp t p n s
  | .call t p n => Sys2Proof.Machine.execCall t p n s
  | .ret p n => Sys2Proof.Machine.execRet p n s
  | .loop t a sc => Sys2Proof.Machine.execLoop t a sc s
  | .loops t a sc => Sys2Proof.Machine.execLoops t a sc s
  | .voteAny p k => Sys2Proof.Machine.execVoteAny p k s
  | .voteAll p k => Sys2Proof.Machine.execVoteAll p k s
  | .cuePush a b => Sys2Proof.Machine.execCuePush a b s
  | .cueFork a b => Sys2Proof.Machine.execCueFork a b s
  | .cueExit => Sys2Proof.Machine.execCueExit s
  | .cueSelf a => Sys2Proof.Machine.execCueSelf a s
  | .ensJoin a => Sys2Proof.Machine.execEnsJoin a s
  | .ensLeave a => Sys2Proof.Machine.execEnsLeave a s
  | .ensSize a b => Sys2Proof.Machine.execEnsSize a b s
  | .markInit a m => Sys2Proof.Machine.execMarkInit a m s
  | .markInitEns a m => Sys2Proof.Machine.execMarkInitEns a m s
  | .markArrive a m => Sys2Proof.Machine.execMarkArrive a m s
  | .markWait a m => Sys2Proof.Machine.execMarkWait a m s
  | .markAwait a m => Sys2Proof.Machine.execMarkAwait a m s
  | .ensembleCountNotice home ens => Sys2Proof.Machine.execEnsembleCountNotice home ens s
  | .waita a b c => Sys2Proof.Machine.execWaita a b c s
  | .waitaRetest core => Sys2Proof.Machine.execWaitaRetest core s
  | .trap k => Sys2Proof.Machine.execTrap k s
  | .eret => Sys2Proof.Machine.execEret s
  | .halt => Sys2Proof.Machine.execHalt s
  | .sysrd a n => Sys2Proof.Machine.execSysrd a n s
  | .syswr a n => Sys2Proof.Machine.execSyswr a n s
  | .nopreWrite a n => Sys2Proof.Machine.execNopreWrite a n s
  | .nopreTimeout core => Sys2Proof.Machine.execNopreTimeout core s
  | .stickyWrite a n => Sys2Proof.Machine.execStickyWrite a n s
  | .evselWrite a n => Sys2Proof.Machine.execEvselWrite a n s
  | .rootWrite a n => Sys2Proof.Machine.execRootWrite a n s
  | .duetctlWrite a n => Sys2Proof.Machine.execDuetctlWrite a n s
  | .admitSeg a b => Sys2Proof.Machine.execAdmitSeg a b s
  | .admitReport job => Sys2Proof.Machine.execAdmitReport job s
  | .add d a b => Sys2Proof.Machine.execAdd d a b s
  | .sub d a b => Sys2Proof.Machine.execSub d a b s
  | .and d a b => Sys2Proof.Machine.execAnd d a b s
  | .or d a b => Sys2Proof.Machine.execOr d a b s
  | .xor d a b => Sys2Proof.Machine.execXor d a b s
  | .shl d a b => Sys2Proof.Machine.execShl d a b s
  | .shr d a b => Sys2Proof.Machine.execShr d a b s
  | .sra d a b => Sys2Proof.Machine.execSra d a b s
  | .min d a b => Sys2Proof.Machine.execMin d a b s
  | .max d a b => Sys2Proof.Machine.execMax d a b s
  | .minu d a b => Sys2Proof.Machine.execMinu d a b s
  | .maxu d a b => Sys2Proof.Machine.execMaxu d a b s
  | .clz d a => Sys2Proof.Machine.execClz d a s
  | .popc d a => Sys2Proof.Machine.execPopc d a s
  | .sel d a b p => Sys2Proof.Machine.execSel d a b p s
  | .mul d a b => Sys2Proof.Machine.execMul d a b s
  | .mulh d a b => Sys2Proof.Machine.execMulh d a b s
  | .mulhu d a b => Sys2Proof.Machine.execMulhu d a b s
  | .div d a b => Sys2Proof.Machine.execDiv d a b s
  | .divu d a b => Sys2Proof.Machine.execDivu d a b s
  | .rem d a b => Sys2Proof.Machine.execRem d a b s
  | .remu d a b => Sys2Proof.Machine.execRemu d a b s
  | .cmp d a b c => Sys2Proof.Machine.execCmp d a b c s
  | .pand d a b => Sys2Proof.Machine.execPand d a b s
  | .por d a b => Sys2Proof.Machine.execPor d a b s
  | .pxor d a b => Sys2Proof.Machine.execPxor d a b s
  | .pnot d a => Sys2Proof.Machine.execPnot d a s
  | .addi d a k => Sys2Proof.Machine.execAddi d a k s
  | .andi d a k => Sys2Proof.Machine.execAndi d a k s
  | .ori d a k => Sys2Proof.Machine.execOri d a k s
  | .xori d a k => Sys2Proof.Machine.execXori d a k s
  | .shli d a n => Sys2Proof.Machine.execShli d a n s
  | .shri d a n => Sys2Proof.Machine.execShri d a n s
  | .srai d a n => Sys2Proof.Machine.execSrai d a n s
  | .movi d k => Sys2Proof.Machine.execMovi d k s
  | .movhi d a k => Sys2Proof.Machine.execMovhi d a k s
  | .cmpi d a c k => Sys2Proof.Machine.execCmpi d a c k s
  | .lds d a z k => Sys2Proof.Machine.execLds d a z k s
  | .sts d a z k => Sys2Proof.Machine.execSts d a z k s
  | .ldg d a b sc o z => Sys2Proof.Machine.execLdg d a b sc o z s
  | .stg d a b sc o z => Sys2Proof.Machine.execStg d a b sc o z s
  | .scalarAccessComplete core idx => Sys2Proof.Machine.execScalarAccessComplete core idx s
  | .amoAdd d a b sc o w => Sys2Proof.Machine.execAmoAdd d a b sc o w s
  | .amoSwap d a b sc o w => Sys2Proof.Machine.execAmoSwap d a b sc o w s
  | .amoCas d a b sc o w => Sys2Proof.Machine.execAmoCas d a b sc o w s
  | .amoMin d a b sc o w => Sys2Proof.Machine.execAmoMin d a b sc o w s
  | .amoMax d a b sc o w => Sys2Proof.Machine.execAmoMax d a b sc o w s
  | .amoAnd d a b sc o w => Sys2Proof.Machine.execAmoAnd d a b sc o w s
  | .amoOr d a b sc o w => Sys2Proof.Machine.execAmoOr d a b sc o w s
  | .fadd d a b p r => Sys2Proof.Machine.execFadd d a b p r s
  | .fmul d a b p r => Sys2Proof.Machine.execFmul d a b p r s
  | .fcvtI d a p r => Sys2Proof.Machine.execFcvtI d a p r s
  | .fcvtF d a p r => Sys2Proof.Machine.execFcvtF d a p r s
  | .resultLand core => Sys2Proof.Machine.execResultLand core s
  | .vadd d a b g w => Sys2Proof.Machine.execVadd d a b g w s
  | .vsub d a b g w => Sys2Proof.Machine.execVsub d a b g w s
  | .vmin d a b g w => Sys2Proof.Machine.execVmin d a b g w s
  | .vmax d a b g w => Sys2Proof.Machine.execVmax d a b g w s
  | .vabs d a g w => Sys2Proof.Machine.execVabs d a g w s
  | .vneg d a g w => Sys2Proof.Machine.execVneg d a g w s
  | .vmul d a b g w => Sys2Proof.Machine.execVmul d a b g w s
  | .vfma d a b g w => Sys2Proof.Machine.execVfma d a b g w s
  | .vfms d a b g w => Sys2Proof.Machine.execVfms d a b g w s
  | .vrcp d a g w => Sys2Proof.Machine.execVrcp d a g w s
  | .vrsq d a g w => Sys2Proof.Machine.execVrsq d a g w s
  | .vsqrt d a g w => Sys2Proof.Machine.execVsqrt d a g w s
  | .vexp2 d a g w => Sys2Proof.Machine.execVexp2 d a g w s
  | .vlog2 d a g w => Sys2Proof.Machine.execVlog2 d a g w s
  | .vtanh d a g w => Sys2Proof.Machine.execVtanh d a g w s
  | .viadd d a b g w => Sys2Proof.Machine.execViadd d a b g w s
  | .visub d a b g w => Sys2Proof.Machine.execVisub d a b g w s
  | .vimul d a b g w => Sys2Proof.Machine.execVimul d a b g w s
  | .vimin d a b g w => Sys2Proof.Machine.execVimin d a b g w s
  | .vimax d a b g w => Sys2Proof.Machine.execVimax d a b g w s
  | .vand d a b g w => Sys2Proof.Machine.execVand d a b g w s
  | .vor d a b g w => Sys2Proof.Machine.execVor d a b g w s
  | .vxor d a b g w => Sys2Proof.Machine.execVxor d a b g w s
  | .vshl d a k g w => Sys2Proof.Machine.execVshl d a k g w s
  | .vshr d a k g w => Sys2Proof.Machine.execVshr d a k g w s
  | .vsra d a k g w => Sys2Proof.Machine.execVsra d a k g w s
  | .vcmp k a b g c w => Sys2Proof.Machine.execVcmp k a b g c w s
  | .vsel d a b g k w => Sys2Proof.Machine.execVsel d a b g k w s
  | .vkand d a b g w => Sys2Proof.Machine.execVkand d a b g w s
  | .vkor d a b g w => Sys2Proof.Machine.execVkor d a b g w s
  | .vknot d a g w => Sys2Proof.Machine.execVknot d a g w s
  | .vcvt d a f g r w => Sys2Proof.Machine.execVcvt d a f g r w s
  | .vbcast d a g w => Sys2Proof.Machine.execVbcast d a g w s
  | .vmov d a g w => Sys2Proof.Machine.execVmov d a g w s
  | .viota d g w => Sys2Proof.Machine.execViota d g w s
  | .vshuf d a b g w => Sys2Proof.Machine.execVshuf d a b g w s
  | .vslideUp d a k g w => Sys2Proof.Machine.execVslideUp d a k g w s
  | .vslideDn d a k g w => Sys2Proof.Machine.execVslideDn d a k g w s
  | .vred d a o g w => Sys2Proof.Machine.execVred d a o g w s
  | .vscan d a o g w => Sys2Proof.Machine.execVscan d a o g w s
  | .vsegred d a b g o w => Sys2Proof.Machine.execVsegred d a b g o w s
  | .vsortAsc d a b g w => Sys2Proof.Machine.execVsortAsc d a b g w s
  | .vsortDesc d a b g w => Sys2Proof.Machine.execVsortDesc d a b g w s
  | .vcompact d a k g w => Sys2Proof.Machine.execVcompact d a k g w s
  | .vexpand d a k g w => Sys2Proof.Machine.execVexpand d a k g w s
  | .vdelta d a b g w => Sys2Proof.Machine.execVdelta d a b g w s
  | .vrope d a b g w => Sys2Proof.Machine.execVrope d a b g w s
  | .vsmax d a b g w => Sys2Proof.Machine.execVsmax d a b g w s
  | .vld d a k g w => Sys2Proof.Machine.execVld d a k g w s
  | .vst sc a k g w => Sys2Proof.Machine.execVst sc a k g w s
  | .vmovs d a k g w => Sys2Proof.Machine.execVmovs d a k g w s
  | .vins d a k g w => Sys2Proof.Machine.execVins d a k g w s
  | .mlatch a l => Sys2Proof.Machine.execMlatch a l s
  | .mlatchX a l g => Sys2Proof.Machine.execMlatchX a l g s
  | .mma d a l c h x u n q => Sys2Proof.Machine.execMma d a l c h x u n q s
  | .mzero d => Sys2Proof.Machine.execMzero d s
  | .mtrans d a => Sys2Proof.Machine.execMtrans d a s
  | .mcast d a r => Sys2Proof.Machine.execMcast d a r s
  | .msave sc => Sys2Proof.Machine.execMsave sc s
  | .mresume sc => Sys2Proof.Machine.execMresume sc s
  | .msync => Sys2Proof.Machine.execMsync s
  | .mprobe d => Sys2Proof.Machine.execMprobe d s
  | .mCommandStart core => Sys2Proof.Machine.execMCommandStart core s
  | .mCommandComplete core => Sys2Proof.Machine.execMCommandComplete core s
  | .migration core => Sys2Proof.Machine.execMigration core s
  | .recall core => Sys2Proof.Machine.execRecall core s
  | .duetWindowSwitch core => Sys2Proof.Machine.execDuetWindowSwitch core s
  | .tload t w c g x => Sys2Proof.Machine.execTload t w c g x s
  | .tstore t w c g r x sc => Sys2Proof.Machine.execTstore t w c g r x sc s
  | .tloadIx t w k g => Sys2Proof.Machine.execTloadIx t w k g s
  | .gather t w k g sc => Sys2Proof.Machine.execGather t w k g sc s
  | .scatter t w k g r sc => Sys2Proof.Machine.execScatter t w k g r sc s
  | .copy l w c g sc => Sys2Proof.Machine.execCopy l w c g sc s
  | .tsend t w g sc => Sys2Proof.Machine.execTsend t w g sc s
  | .trecv t w g => Sys2Proof.Machine.execTrecv t w g s
  | .signal v g sc => Sys2Proof.Machine.execSignal v g sc s
  | .drain sc => Sys2Proof.Machine.execDrain sc s
  | .ksave w => Sys2Proof.Machine.execKsave w s
  | .kresume w => Sys2Proof.Machine.execKresume w s
  | .prefetchUp w c g => Sys2Proof.Machine.execPrefetchUp w c g s
  | .prefetchDn w c g => Sys2Proof.Machine.execPrefetchDn w c g s
  | .route t w g => Sys2Proof.Machine.execRoute t w g s
  | .routeClose w g => Sys2Proof.Machine.execRouteClose w g s
  | .routePairArrival core eng => Sys2Proof.Machine.execRoutePairArrival core eng s
  | .kCommandStart core eng => Sys2Proof.Machine.execKCommandStart core eng s
  | .kCommandComplete core eng => Sys2Proof.Machine.execKCommandComplete core eng s
  | .pitScaleadd t w g => Sys2Proof.Machine.execPitScaleadd t w g s
  | .pitAtomadd t w g => Sys2Proof.Machine.execPitAtomadd t w g s
  | .pitAttn t w g => Sys2Proof.Machine.execPitAttn t w g s
  | .pitFence g => Sys2Proof.Machine.execPitFence g s
  | .pitXload t w g => Sys2Proof.Machine.execPitXload t w g s
  | .pitXlock w g => Sys2Proof.Machine.execPitXlock w g s
  | .pitXunlock w g => Sys2Proof.Machine.execPitXunlock w g s
  | .pitDispatch core eng => Sys2Proof.Machine.execPitDispatch core eng s
  | .pitCommandRun pit => Sys2Proof.Machine.execPitCommandRun pit s
  | .pitCommandComplete pit => Sys2Proof.Machine.execPitCommandComplete pit s
  | .pitSuspend pit => Sys2Proof.Machine.execPitSuspend pit s
  | .pitResume pit => Sys2Proof.Machine.execPitResume pit s
  | .pitWindowEnd pit => Sys2Proof.Machine.execPitWindowEnd pit s
  | .pitStatusArrival idx => Sys2Proof.Machine.execPitStatusArrival idx s
  | .tdef t a => Sys2Proof.Machine.execTdef t a s
  | .tbind t a => Sys2Proof.Machine.execTbind t a s
  | .treshape t a b => Sys2Proof.Machine.execTreshape t a b s
  | .ttranspose t a => Sys2Proof.Machine.execTtranspose t a s
  | .tcast t a f => Sys2Proof.Machine.execTcast t a f s
  | .ttype t a => Sys2Proof.Machine.execTtype t a s
  | .tcheck t a => Sys2Proof.Machine.execTcheck t a s
  | .dvSet n b => Sys2Proof.Machine.execDvSet n b s
  | .dvGet d n => Sys2Proof.Machine.execDvGet d n s
  | .dvClear n => Sys2Proof.Machine.execDvClear n s
  | .dvBound n b => Sys2Proof.Machine.execDvBound n b s
  | .accAlloc d a => Sys2Proof.Machine.execAccAlloc d a s
  | .accFree a b => Sys2Proof.Machine.execAccFree a b s
  | .accWin a f => Sys2Proof.Machine.execAccWin a f s
  | .pgLoad c b => Sys2Proof.Machine.execPgLoad c b s
  | .pgStartFwd c => Sys2Proof.Machine.execPgStartFwd c s
  | .pgStartTr c => Sys2Proof.Machine.execPgStartTr c s
  | .countPassEnd core ctx => Sys2Proof.Machine.execCountPassEnd core ctx s
  | .pgNext d c => Sys2Proof.Machine.execPgNext d c s
  | .pgNextblk d c => Sys2Proof.Machine.execPgNextblk d c s
  | .pgSave c b => Sys2Proof.Machine.execPgSave c b s
  | .pgRestore c b => Sys2Proof.Machine.execPgRestore c b s
  | .treeClear => Sys2Proof.Machine.execTreeClear s
  | .treeRoot a b => Sys2Proof.Machine.execTreeRoot a b s
  | .treeAdd d a n => Sys2Proof.Machine.execTreeAdd d a n s
  | .treeMaskF32 d n => Sys2Proof.Machine.execTreeMaskF32 d n s
  | .treeMaskBf16 d n => Sys2Proof.Machine.execTreeMaskBf16 d n s
  | .treeMaskk k n => Sys2Proof.Machine.execTreeMaskk k n s
  | .treePosLo d => Sys2Proof.Machine.execTreePosLo d s
  | .treePosHi d => Sys2Proof.Machine.execTreePosHi d s
  | .treePrune n => Sys2Proof.Machine.execTreePrune n s
  | .treeMap d => Sys2Proof.Machine.execTreeMap d s
  | .treeSave a => Sys2Proof.Machine.execTreeSave a s
  | .treeLoad a => Sys2Proof.Machine.execTreeLoad a s
  | .portSet a p => Sys2Proof.Machine.execPortSet a p s
  | .portReset p => Sys2Proof.Machine.execPortReset p s
  | .wfence => Sys2Proof.Machine.execWfence s
  | .trapEntry core => Sys2Proof.Machine.execTrapEntry core s
  | .prompterPick die => Sys2Proof.Machine.execPrompterPick die s
  | .ageStep die wing => Sys2Proof.Machine.execAgeStep die wing s
  | .prestageFill die wing => Sys2Proof.Machine.execPrestageFill die wing s
  | .enqueueBufferDrain die => Sys2Proof.Machine.execEnqueueBufferDrain die s
  | .curtain die => Sys2Proof.Machine.execCurtain die s
  | .contextResume core => Sys2Proof.Machine.execContextResume core s
  | .remoteWrite pa n data => Sys2Proof.Machine.execRemoteWrite pa n data s
  | .remoteRead pa n => Sys2Proof.Machine.execRemoteRead pa n s
  | .remoteWritePerform idx => Sys2Proof.Machine.execRemoteWritePerform idx s
  | .hostMemoryAccess host wr pa n data => Sys2Proof.Machine.execHostMemoryAccess host wr pa n data s
  | .hostPush host die wing n data => Sys2Proof.Machine.execHostPush host die wing n data s
  | .qbaseWrite host die wing val => Sys2Proof.Machine.execQbaseWrite host die wing val s
  | .pushstatWrite host die wing val => Sys2Proof.Machine.execPushstatWrite host die wing val s
  | .approveWrite host off val => Sys2Proof.Machine.execApproveWrite host off val s
  | .configProposal len image => Sys2Proof.Machine.execConfigProposal len image s
  | .attestRequest host => Sys2Proof.Machine.execAttestRequest host s
  | .attestReportReady host => Sys2Proof.Machine.execAttestReportReady host s
  | .nonceWrite host off val => Sys2Proof.Machine.execNonceWrite host off val s
  | .throttleWrite val => Sys2Proof.Machine.execThrottleWrite val s
  | .pstateWrite val => Sys2Proof.Machine.execPstateWrite val s
  | .registerWrite host off val => Sys2Proof.Machine.execRegisterWrite host off val s
  | .debugStop host core => Sys2Proof.Machine.execDebugStop host core s
  | .debugRegisterWrite host core kind idx val => Sys2Proof.Machine.execDebugRegisterWrite host core kind idx val s
  | .debugRegisterRead host core kind idx => Sys2Proof.Machine.execDebugRegisterRead host core kind idx s
  | .debugRestart host core => Sys2Proof.Machine.execDebugRestart host core s
  | .moduleReset => Sys2Proof.Machine.execModuleReset s
  | .clockStep mhz => Sys2Proof.Machine.execClockStep mhz s
  | .linkFailure link => Sys2Proof.Machine.execLinkFailure link s
  | .remoteTimeout core kind idx => Sys2Proof.Machine.execRemoteTimeout core kind idx s
  | .reduceContribution slot lane n data => Sys2Proof.Machine.execReduceContribution slot lane n data s
  | .selfTestStart kind core idx => Sys2Proof.Machine.execSelfTestStart kind core idx s
  | .selfTestEnd idx passed => Sys2Proof.Machine.execSelfTestEnd idx passed s
  | .linkRetrainComplete link => Sys2Proof.Machine.execLinkRetrainComplete link s

end Sys2Proof.Machine
end

