-- ==== Sys2Proof/Machine/Run.lean ====
section
/-! DEFINITION. One move of the module: the slots of a bundle performed in order and closed, or an event of the agenda. -/

namespace Sys2Proof.Machine

/-- The slots of a bundle performed in order; each only takes note in the bundle in issue (R22). -/
def runSlots : List (Nat × Instr) → State → Host.Outcome State Fault Refusal
  | [], s => .next s
  | e :: es, s =>
    match exec e.2 { s with issue := { s.issue with slot := e.1 } } with
    | .next t => runSlots es t
    | o => o

/-- The move of the core in focus; while the module boots, the boot comes first (R382). -/
def coreMove (s : State) : Host.Outcome State Fault Refusal :=
  if booting s then .next (bootUp s)
  else if s.focus < Config.cores then
    match prepare s with
    | .error t => .next t
    | .ok r => match runSlots r.2 r.1 with
      | .next t =>
        if lateFault t then
          match runSlots r.2 (calm r.1) with
          | .next u => .next (close (withStalls t u))
          | o => o
        else .next (close t)
      | o => o
  else .fault (.noSuchAgent s.focus)

/-- A move of a core that exists. -/
def onCore (n : Nat) (t : State) : Host.Outcome State Fault Refusal := if n < Config.cores then .next t else .fault (.noSuchAgent n)

/-- The next move: the agenda's first, or the focus core's. A slot instruction is no event and is passed over. -/
def move (s : State) : Host.Outcome State Fault Refusal :=
  match s.agenda with
  | [] => coreMove s
  | .core n :: r => coreMove { s with agenda := r, focus := n }
  | .event i :: r => if i.info.slot = none then exec i { s with agenda := r } else .next { s with agenda := r }
  | .unit n e p :: r => onCore n (kUnitAt { s with agenda := r } n (e % 2) p)
  | .scoped n i l :: r => onCore n (scopedAt { s with agenda := r } n i l)
  | .add p k :: r => if p < 192 then .next (pitAddAhead { s with agenda := r } p k) else .fault (.noSuchAgent p)
  | .row n :: r => onCore n (mRowTurn { s with agenda := r } n)

/-- One step: a move, and the free values of the next step are new ones (log 3). -/
def runStep (s : State) : Host.Outcome State Fault Refusal :=
  match move s with
  | .next t => .next (useFree t)
  | o => o

/-! ### A word placed where the next step fetches -/

/-- The slot whose table holds a word (R21, R23, log 21). -/
def slotOfWord (w : Nat) : Nat :=
  match tableDecode w tableSlots with
  | some (.c, _) => 0
  | some (.s, _) => 1
  | some (.v, _) => 2
  | some (.m, _) => 4
  | some (.k, _) => 5
  | some (.x, _) => 7
  | none => 0

/-- The bundle that holds one slot word, as bytes (R20). -/
def wordBundle (w : Nat) : List Byte := natBytes 32 (w % 2 ^ 32 * 2 ^ (32 * slotOfWord w))

/-- The module has booted, and the focus core runs the bundle at 0x10000: an 8 GiB page at address 0 under a root at 0x2000, admitted, the bundle in
it. -/
def placeWord (s : State) (w : Nat) : State :=
  let core := s.focus % Config.cores
  let c := coreOf s core
  let d := dieOf s (dieOfCore core)
  let h := s.house
  let bs := wordBundle w
  let mem := memBlock (memBlock (memBlock s.mem 0x2000 (natBytes 8 0x4001)) 0x4000 (natBytes 8 3)) 0x10000 bs
  let s1 : State := { s with
    focus := core
    agenda := []
    mem := mem
    house := { h with
      bootstat := if booting s then 1 else h.bootstat
      enables := h.enables ||| BitVec.ofNat 512 (2 ^ core)
      admission := h.admission.filter (fun e => e.leafAddr != 0x4000) ++ [⟨0x2000, 0, 2 ^ 33, 3, 0x4000, false⟩]
      waived := h.waived.filter fun e => e.1 != 0x4000
      text := memBlock h.text 0x10000 bs } }
  let s2 := setDie s1 (dieOfCore core) { d with itlb := [] }
  setCoreOf s2 core { c with
    status := .running
    debugStop := false
    itlb := []
    icache := (0x2000, 0x10000) :: c.icache
    ctx := { c.ctx with pc := 0x10000, iroot := 0x2000, wait := none, draining := none, owed := 0, pitTraps := [], resumeErr := none } }

end Sys2Proof.Machine
end

