-- ==== Sys2Proof/Safety.lean ====
section
/-! DEFINITION. What a safe run is, and the words that claims use: what a slot of the bundle in issue may read and write now, what it leaves
in the bundle in issue, and the canonical form of the memory, the admitted text and the scratchpads. -/

namespace Sys2Proof.Machine

/-! ### Runs -/

/-- A step goes on. -/
def goesOn (s : State) : Prop := ∃ t, step s = .next t

/-- The state after n steps, if every one of them goes on. -/
def after : Nat → State → Option State
  | 0, s => some s
  | n + 1, s => match step s with
    | .next t => after n t
    | _ => none

/-- A run of any length from a state goes on. -/
def Safe (s : State) : Prop := ∀ n, (after n s).isSome = true

/-! ### What a slot leaves -/

/-- The state in which the bundle in issue has taken note of a slot's effects (R22, R45). -/
def noted (s : State) (es : List Eff) : State := settle s (.ok es)

/-- The state in which the bundle in issue has taken note that its slot stops (R22, R58). -/
def halted (s : State) (st : Stop) : State := settle s (.error st)

/-- A precise fault with its FAULTINFO (R346). -/
def faultOf (code info : Nat) : Stop := .fault ⟨code, BitVec.ofNat 64 info, none⟩

/-- A scalar result in the exposed pipeline, `lat` bundles from its boundary (R43, R89). -/
def landS (lat d : Nat) (v flags : Word) : Eff := .land lat (some (.sreg d v)) none flags

/-- The same from an operation that the broadcast of R36 delivers. -/
def landB (d : Nat) (v : Word) : List Eff := [.bcast v, landS 1 d v 0]

/-- A predicate result (R89). -/
def landP (d : Nat) (v : Bool) : Eff := .land 1 (some (.pred d v)) none 0

/-- The state after n arrivals at one mark. -/
def arrivals : Nat → State → Nat → Nat → State
  | 0, s, _, _ => s
  | n + 1, s, home, m => arrivals n (markArrive s home m) home m

/-! ### What a slot may read and write now -/

/-- A check at issue passes. -/
def passes {α : Type} (r : Except Stop α) : Bool := match r with | .ok _ => true | .error _ => false

/-- Scalar register n: no access in flight writes it, and no waiting error names it (R54, R98). -/
def regFree (s : State) (n : Nat) : Bool := !busyReg (cur s) n && (regErrOf (ctx s) n).isNone

/-- Scalar register n may be read: free, and in rehearsal no result still to land writes it (R56). -/
def regReady (s : State) (n : Nat) : Bool :=
  regFree s n && !pendingOn (ctx s) (landsSreg n)

/-- Predicate n may be read (R56). -/
def predReady (s : State) (n : Nat) : Bool := !pendingOn (ctx s) (landsPred n)

/-- Lane mask n may be read (R56). -/
def maskReady (s : State) (n : Nat) : Bool := !pendingOn (ctx s) (landsMask n)

/-- What scalar register n reads as (R87). -/
def regVal (s : State) (n : Nat) : Word := sregOf (ctx s) n

/-- What predicate n reads as (R87). -/
def predVal (s : State) (n : Nat) : Bool := predOf (ctx s) n

/-- What lane mask n reads as (R90). -/
def maskVal (s : State) (n : Nat) : BitVec 512 × Nat := kmaskOf (ctx s) n

/-- The running code is the stage manager's (R70, R304). -/
def inStageManager (s : State) : Bool := (ctx s).mode == .stageManager

/-! ### Vector operations -/

/-- A vector operation whose guard is true may go on to its result: its codes are legal, no storage it names is busy, and its sources are
read as `vs` with the effects `es` (R33, R36, R37, R39, R51). -/
structure VecReads (s : State) (guard d nowb : Nat) (pos : List (Nat × Nat)) (vs : List VSrc) (es : List Eff) : Prop where
  legal : bcastLegal s (pos.map Prod.snd) = .ok ()
  guardReady : predReady s guard = true
  guardTrue : predVal s guard = true
  quiet : vecStalls s (pos.map Prod.snd) (if nowb = 1 then none else some d) = .ok ()
  sources : readVecs s pos [] = .ok (vs, es)

/-- Every tagged source has a tag its position takes (R172). -/
def tagsFit (ok : Nat → Nat → Bool) (pos : List (Nat × Nat)) (vs : List VSrc) : Bool :=
  (pos.zip vs).all fun p => match p.2.tag with | some t => ok p.1.1 t | none => true

/-- Every tagged source has the operation's own tag (R172). -/
def tagsSame (fmt : Nat) (vs : List VSrc) : Bool := vs.all fun v => match v.tag with | some t => t == fmt | none => true

/-- Where the result of a vector operation goes: nowhere, to an accumulator row, or to a port's next row (R34, R40, R172, R176). -/
inductive VecPlace where
  | none
  | row (r : Nat)
  | port (z off : Nat)

/-- The place that a destination code names, for a result of a tag. -/
def VecGoes (s : State) (d nowb : Nat) (tag : Option Nat) : VecPlace → Prop
  | .none => nowb = 1
  | .row r => nowb ≠ 1 ∧ d < 48 ∧ vecRow s d = .ok r
  | .port z off => nowb ≠ 1 ∧ 56 ≤ d ∧ z = d - 56 ∧ ∃ f, portRow s z 0 true = .ok (off, f) ∧ (tag = Option.none ∨ tag = some f)

/-- The effects of a result at its place: it lands after its latency, with its bypass entry and its flags. -/
def vecEffs (lat : Nat) (r : VRes) : VecPlace → List Eff
  | .none => [vecLands lat none r]
  | .row k => [vecLands lat (some (.row k r.row r.tag)) r]
  | .port z off => [.pop z, vecLands lat (some (.spad off 512 r.row.toNat)) r]

/-! ### Whole-module predicates -/

/-- The physical map's store, the admitted text and each core's scratchpad are in their canonical form (log 1). -/
def MemoriesCanonical (s : State) : Prop :=
  Memory.wf s.mem = true ∧ Memory.wf s.house.text = true ∧ ∀ n, Memory.wf (coreOf s n).spad = true

/-- A scratchpad and the memory hold the same bytes as before outside a range. -/
def sameOutside (m m' : Memory) (a n : Nat) : Prop := ∀ x, ¬ (a ≤ x ∧ x < a + n) → memGet m' x = memGet m x

end Sys2Proof.Machine
end

