-- ==== Sys2Proof/Certificates/Slice0/Obligations.lean ====
section
/-! DEFINITION. The statements for the provers; OBLIGATIONS.json lists them. -/

open Sys2Proof Sys2Proof.Machine

/-! ### Scalar operations of the S and C slots -/

/-- R92, major 0x01: the two-source operations complete on readable sources, broadcast their value and land it after one bundle. CLZ is the number of
zero bits above the highest one, POPC the number of ones, SEL the source that the predicate names. -/
def Obligations.RegisterArithmeticResults : Prop :=
  (∀ (s : State) (d a b : Nat), regReady s a = true → regReady s b = true → regFree s d = true →
    let x := regVal s a
    let y := regVal s b
    let n := y.toNat % 64
    exec (.add d a b) s = .next (noted s (landB d (BitVec.ofNat 64 (x.toNat + y.toNat)))) ∧
    exec (.sub d a b) s = .next (noted s (landB d (BitVec.ofInt 64 ((x.toNat : Int) - y.toNat)))) ∧
    exec (.and d a b) s = .next (noted s (landB d (BitVec.ofNat 64 (x.toNat &&& y.toNat)))) ∧
    exec (.or d a b) s = .next (noted s (landB d (BitVec.ofNat 64 (x.toNat ||| y.toNat)))) ∧
    exec (.xor d a b) s = .next (noted s (landB d (BitVec.ofNat 64 (x.toNat ^^^ y.toNat)))) ∧
    exec (.shl d a b) s = .next (noted s (landB d (BitVec.ofNat 64 (x.toNat * 2 ^ n)))) ∧
    exec (.shr d a b) s = .next (noted s (landB d (BitVec.ofNat 64 (x.toNat / 2 ^ n)))) ∧
    exec (.sra d a b) s = .next (noted s (landB d (BitVec.ofInt 64 (x.toInt / 2 ^ n)))) ∧
    exec (.min d a b) s = .next (noted s (landB d (BitVec.ofInt 64 (min x.toInt y.toInt)))) ∧
    exec (.max d a b) s = .next (noted s (landB d (BitVec.ofInt 64 (max x.toInt y.toInt)))) ∧
    exec (.minu d a b) s = .next (noted s (landB d (BitVec.ofNat 64 (min x.toNat y.toNat)))) ∧
    exec (.maxu d a b) s = .next (noted s (landB d (BitVec.ofNat 64 (max x.toNat y.toNat))))) ∧
  (∀ (s : State) (d a b p : Nat), regReady s a = true → regReady s b = true → regFree s d = true → predReady s p = true →
    let x := regVal s a
    (∃ v : Word, exec (.clz d a) s = .next (noted s (landB d v)) ∧ v.toNat ≤ 64 ∧
      (∀ i, 64 - v.toNat ≤ i → x.getLsbD i = false) ∧ (v.toNat < 64 → x.getLsbD (63 - v.toNat) = true)) ∧
    (∃ v : Word, exec (.popc d a) s = .next (noted s (landB d v)) ∧ v.toNat = (List.range 64).countP fun i => x.getLsbD i) ∧
    exec (.sel d a b p) s = .next (noted s (landB d (if predVal s p then x else regVal s b))))

/-- R92: the products of major 0x02 land after two bundles and raise no flag. -/
def Obligations.ProductResults : Prop :=
  ∀ (s : State) (d a b : Nat), regReady s a = true → regReady s b = true → regFree s d = true →
    let x := regVal s a
    let y := regVal s b
    exec (.mul d a b) s = .next (noted s [landS 2 d (BitVec.ofNat 64 (x.toNat * y.toNat)) 0]) ∧
    exec (.mulh d a b) s = .next (noted s [landS 2 d (BitVec.ofInt 64 (x.toInt * y.toInt / 2 ^ 64)) 0]) ∧
    exec (.mulhu d a b) s = .next (noted s [landS 2 d (BitVec.ofNat 64 (x.toNat * y.toNat / 2 ^ 64)) 0])

/-- R93 with the quotients and remainders of R92: every pair of operands completes. A zero divisor gives the fixed results and DIVZ, the overflowing
signed pair the fixed results and no flag; any other signed pair gives the quotient and the remainder of the truncated division over the integers, and
any unsigned pair those of the division of naturals, with no flag. -/
def Obligations.DivisionResults : Prop :=
  ∀ (s : State) (d a b : Nat), regReady s a = true → regReady s b = true → regFree s d = true →
    let x := regVal s a
    let y := regVal s b
    let lands (i : Instr) (v fl : Word) : Prop := exec i s = .next (noted s [landS 12 d v fl])
    (y = 0 → lands (.div d a b) 0xFFFFFFFFFFFFFFFF#64 flagDivz ∧ lands (.divu d a b) 0xFFFFFFFFFFFFFFFF#64 flagDivz ∧
      lands (.rem d a b) x flagDivz ∧ lands (.remu d a b) x flagDivz) ∧
    (y.toInt = -1 → x.toInt = -2 ^ 63 → lands (.div d a b) x 0 ∧ lands (.rem d a b) 0 0) ∧
    (y ≠ 0 → ¬ (y.toInt = -1 ∧ x.toInt = -2 ^ 63) → ∃ q r : Word, lands (.div d a b) q 0 ∧ lands (.rem d a b) r 0 ∧
      x.toInt = q.toInt * y.toInt + r.toInt ∧ r.toInt.natAbs < y.toInt.natAbs ∧ (r.toInt = 0 ∨ (r.toInt < 0 ↔ x.toInt < 0))) ∧
    (y ≠ 0 → ∃ u v : Word, lands (.divu d a b) u 0 ∧ lands (.remu d a b) v 0 ∧
      x.toNat = u.toNat * y.toNat + v.toNat ∧ v.toNat < y.toNat)

/-- R94: the immediate operations, with the sign or zero extension each states. -/
def Obligations.ImmediateResults : Prop :=
  ∀ (s : State) (d a i n j : Nat), regReady s a = true → regFree s d = true → i < 65536 → n < 64 → j < 2097152 →
    let x := regVal s a
    let si : Int := if i < 32768 then i else (i : Int) - 65536
    let sj : Int := if j < 1048576 then j else (j : Int) - 2097152
    exec (.addi d a i) s = .next (noted s (landB d (BitVec.ofInt 64 (x.toInt + si)))) ∧
    exec (.andi d a i) s = .next (noted s (landB d (BitVec.ofNat 64 (x.toNat &&& i)))) ∧
    exec (.ori d a i) s = .next (noted s (landB d (BitVec.ofNat 64 (x.toNat ||| i)))) ∧
    exec (.xori d a i) s = .next (noted s (landB d (BitVec.ofNat 64 (x.toNat ^^^ i)))) ∧
    exec (.shli d a n) s = .next (noted s (landB d (BitVec.ofNat 64 (x.toNat * 2 ^ n)))) ∧
    exec (.shri d a n) s = .next (noted s (landB d (BitVec.ofNat 64 (x.toNat / 2 ^ n)))) ∧
    exec (.srai d a n) s = .next (noted s (landB d (BitVec.ofInt 64 (x.toInt / 2 ^ n)))) ∧
    exec (.movhi d a i) s = .next (noted s (landB d (BitVec.ofNat 64 (x.toNat * 65536 + i)))) ∧
    exec (.movi d j) s = .next (noted s (landB d (BitVec.ofInt 64 sj)))

/-- R95: CMP and CMPI write the predicate with the condition's truth; CMPI's 13 bits are sign-extended first. -/
def Obligations.CompareResults : Prop :=
  ∀ (s : State) (d a b c i : Nat), regReady s a = true → regReady s b = true → c ≤ 5 → i < 8192 →
    let holds (x y : Word) : Prop :=
      (c = 0 ∧ x = y) ∨ (c = 1 ∧ x ≠ y) ∨ (c = 2 ∧ x.toInt < y.toInt) ∨ (c = 3 ∧ y.toInt ≤ x.toInt) ∨ (c = 4 ∧ x.toNat < y.toNat) ∨
      (c = 5 ∧ y.toNat ≤ x.toNat)
    (∃ v, exec (.cmp d a b c) s = .next (noted s [landP d v]) ∧ (v = true ↔ holds (regVal s a) (regVal s b))) ∧
    (∃ v, exec (.cmpi d a c i) s = .next (noted s [landP d v]) ∧
      (v = true ↔ holds (regVal s a) (BitVec.ofInt 64 (if i < 4096 then i else (i : Int) - 8192))))

/-- R96, whole: the four predicate operations write p[d5] with latency 1; p0 reads true and a write to it is discarded; an index above 15 in any field
they use, and a non-zero b5 of PNOT, are no instruction. -/
def Obligations.PredicateOperations : Prop :=
  (∀ (s : State) (d a b : Nat), predReady s a = true → predReady s b = true →
    exec (.pand d a b) s = .next (noted s [landP d (predVal s a && predVal s b)]) ∧
    exec (.por d a b) s = .next (noted s [landP d (predVal s a || predVal s b)]) ∧
    exec (.pxor d a b) s = .next (noted s [landP d (predVal s a ^^ predVal s b)]) ∧
    exec (.pnot d a) s = .next (noted s [landP d (!predVal s a)])) ∧
  (∀ x : Ctxt, predOf x 0 = true ∧ ∀ (n : Nat) (v : Bool), n < 16 → setPred x 0 v = x ∧ (n ≠ 0 → predOf (setPred x n v) n = v)) ∧
  (∀ d a b f : Nat, d ≤ 15 → a ≤ 15 → b ≤ 15 → f < 4 → (f = 3 → b = 0) →
    decodeSlot .s (0x04 * 2 ^ 26 + d * 2 ^ 21 + a * 2 ^ 16 + b * 2 ^ 11 + f * 2 ^ 5) =
      .ok (if f = 0 then .pand d a b else if f = 1 then .por d a b else if f = 2 then .pxor d a b else .pnot d a)) ∧
  (∀ d a b f : Nat, d < 32 → a < 32 → b < 32 → f < 4 → (15 < d ∨ 15 < a ∨ (f ≠ 3 ∧ 15 < b) ∨ (f = 3 ∧ b ≠ 0)) →
    ∀ i, decodeSlot .s (0x04 * 2 ^ 26 + d * 2 ^ 21 + a * 2 ^ 16 + b * 2 ^ 11 + f * 2 ^ 5) ≠ .ok i)

/-- R107: VOTE.ANY is the OR and VOTE.ALL the AND of the mask's bits below its lane count. -/
def Obligations.VoteResults : Prop :=
  ∀ (s : State) (p k : Nat), maskReady s k = true →
    let m := maskVal s k
    (∃ v, exec (.voteAny p k) s = .next (noted s [landP p v]) ∧ (v = true ↔ ∃ i, i < m.2 ∧ m.1.getLsbD i = true)) ∧
    (∃ v, exec (.voteAll p k) s = .next (noted s [landP p v]) ∧ (v = true ↔ ∀ i, i < m.2 → m.1.getLsbD i = true))

/-- R97: LDS delivers the bytes at the offset as they stand at issue, least significant first and zero-extended, after three bundles; STS gives the
register's low bytes to the same offset at the next boundary. The offset is the 64-bit sum of the register and 2^z times the sign-extended 14-bit
field. At or above 2 MiB both stop with DATAXL, and at no multiple of 2^z below it with ALIGN. -/
def Obligations.ScratchpadAccesses : Prop :=
  ∀ (s : State) (d a z i ea : Nat), z < 4 → i < 16384 → regReady s a = true →
    ea = (regVal s a + BitVec.ofInt 64 ((if i < 8192 then (i : Int) else i - 16384) * 2 ^ z)).toNat →
    (0x200000 ≤ ea →
      (regFree s d = true → exec (.lds d a z i) s = .next (halted s (faultOf 5 ea))) ∧
      (regReady s d = true → exec (.sts d a z i) s = .next (halted s (faultOf 5 ea)))) ∧
    (ea < 0x200000 → ea % 2 ^ z ≠ 0 →
      (regFree s d = true → exec (.lds d a z i) s = .next (halted s (faultOf 3 s.issue.slot))) ∧
      (regReady s d = true → exec (.sts d a z i) s = .next (halted s (faultOf 3 s.issue.slot)))) ∧
    (ea < 0x200000 → ea % 2 ^ z = 0 → regFree s d = true → passes (touchRange s ea (2 ^ z) false) = true → pendingOn (ctx s) (spadPending ea (2 ^ z)) = false →
      isBad s (windowPa s.focus ea) (2 ^ z) = false →
      ∃ v : Word, exec (.lds d a z i) s = .next (noted s [landS 3 d v 0]) ∧
        ∀ k, k < 8 → (v >>> (8 * k)).setWidth 8 = if k < 2 ^ z then memGet (cur s).spad (ea + k) else 0) ∧
    (ea < 0x200000 → ea % 2 ^ z = 0 → regReady s d = true → passes (touchRange s ea (2 ^ z) true) = true →
      exec (.sts d a z i) s = .next (noted s [.land 1 (some (.spad ea (2 ^ z) ((regVal s d).toNat % 2 ^ (8 * 2 ^ z)))) none 0]))

/-- R98, R99: LDG, STG and the AMO family enter the core's pipe with the translated address, the access size, order and scope of their encoding, and
keep the destination register busy until the reply. LDG and STG address the sum of two registers, the AMO family one; CAS alone reads its destination,
as its replacement. An address at or above 2^53, and one that does not translate, stops with DATAXL, and a misaligned one with ALIGN. That STG adds
the register that also holds its data is the reading of log 12. -/
def Obligations.GlobalAccesses : Prop :=
  ∀ (s : State) (d a b sc o z : Nat), regReady s a = true → regReady s b = true →
    let x := regVal s a
    let y := regVal s b
    let root := rootPa (ctx s).droot
    let acc (k : AccessKind) (ea pa n data swap : Nat) (acq rel : Bool) : Eff :=
      .access { seq := 0, kind := k, va := ea, pa := pa, size := n, dst := d, data := data, swap := swap, scope := sc, acq := acq,
                rel := rel, serial := (ctx s).serial, home := none, upto := 0, seen := [] }
    let stopsAt (i : Instr) (ea r : Nat) : Prop :=
      ∃ st, exec i s = .next (halted s st) ∧ st.trap.map Prod.fst = some ⟨5, xlInfo ea r, none⟩
    (∀ pa fills, regFree s d = true → z < 4 → (x + y).toNat < 2 ^ 53 → (x + y).toNat % 2 ^ z = 0 →
      (xlate s s.focus (ctx s).mode root (x + y).toNat true false = .ok (pa, fills) →
        exec (.ldg d a b sc o z) s = .next (noted s (fills.map Eff.fillD ++ [acc .load (x + y).toNat pa (2 ^ z) 0 0 (o == 1) false]))) ∧
      (xlate s s.focus (ctx s).mode root (x + y).toNat false true = .ok (pa, fills) →
        exec (.stg d a b sc o z) s =
          .next (noted s (fills.map Eff.fillD ++ [acc .store (x + y).toNat pa (2 ^ z) (y.toNat % 2 ^ (8 * 2 ^ z)) 0 false (o == 1)])))) ∧
    (regFree s d = true → z < 4 →
      let ea := (x + y).toNat
      let both (p : Instr → Prop) : Prop := p (.ldg d a b sc o z) ∧ p (.stg d a b sc o z)
      (2 ^ 53 ≤ ea → both fun i => exec i s = .next (halted s (faultOf 5 (xlInfo ea 1).toNat))) ∧
      (ea < 2 ^ 53 → ea % 2 ^ z ≠ 0 → both fun i => exec i s = .next (halted s (faultOf 3 s.issue.slot))) ∧
      (∀ r, ea < 2 ^ 53 → ea % 2 ^ z = 0 →
        (xlate s s.focus (ctx s).mode root ea true false = .error r → stopsAt (.ldg d a b sc o z) ea r) ∧
        (xlate s s.focus (ctx s).mode root ea false true = .error r → stopsAt (.stg d a b sc o z) ea r))) ∧
    (∀ i w, regFree s d = true → regReady s d = true → w < 2 → i ∈ [.amoAdd d a b sc o w, .amoSwap d a b sc o w, .amoMin d a b sc o w,
        .amoMax d a b sc o w, .amoAnd d a b sc o w, .amoOr d a b sc o w, .amoCas d a b sc o w] →
      (2 ^ 53 ≤ x.toNat → exec i s = .next (halted s (faultOf 5 (xlInfo x.toNat 1).toNat))) ∧
      (x.toNat < 2 ^ 53 → x.toNat % (4 + 4 * w) ≠ 0 → exec i s = .next (halted s (faultOf 3 s.issue.slot))) ∧
      (∀ r, x.toNat < 2 ^ 53 → x.toNat % (4 + 4 * w) = 0 → xlate s s.focus (ctx s).mode root x.toNat true true = .error r →
        stopsAt i x.toNat r)) ∧
    (∀ pa fills w, regFree s d = true → w < 2 → o < 4 → x.toNat < 2 ^ 53 → x.toNat % (4 + 4 * w) = 0 →
      xlate s s.focus (ctx s).mode root x.toNat true true = .ok (pa, fills) →
      let n := 4 + 4 * w
      let amo (i : Instr) (fn swap : Nat) : Prop :=
        exec i s = .next (noted s (fills.map Eff.fillD ++
          [acc (.amo fn) x.toNat pa n (y.toNat % 2 ^ (8 * n)) swap (o == 1 || o == 3) (o == 2 || o == 3)]))
      amo (.amoAdd d a b sc o w) 0 0 ∧ amo (.amoSwap d a b sc o w) 1 0 ∧ amo (.amoMin d a b sc o w) 3 0 ∧
      amo (.amoMax d a b sc o w) 4 0 ∧ amo (.amoAnd d a b sc o w) 5 0 ∧ amo (.amoOr d a b sc o w) 6 0 ∧
      (regReady s d = true → amo (.amoCas d a b sc o w) 2 ((regVal s d).toNat % 2 ^ (8 * n))))

/-- R100, R101: scalar floating point completes on every operand, one rounding of the exact result in the chosen mode, four bundles from its boundary;
FP32 ignores the upper half of its sources. -/
def Obligations.ScalarFloatResults : Prop :=
  ∀ (s : State) (d a b p r : Nat), regReady s a = true → regReady s b = true → regFree s d = true →
    let fmt := if p = 1 then fmtFp64 else fmtFp32
    let arg (w : Word) : FV := decodeFloat fmt (if p = 1 then w.toNat else w.toNat % 2 ^ 32)
    let x := arg (regVal s a)
    let y := arg (regVal s b)
    let out (v : FV × Word) : List Eff :=
      [landS 4 d (BitVec.ofNat 64 (encodeFloat fmt r v.1).1)
        ((v.2 ||| (encodeFloat fmt r v.1).2) &&& (flagInvalid ||| flagOver ||| flagInexact ||| flagSat))]
    exec (.fadd d a b p r) s = .next (noted s (out (fvSum (r == 3) [x, y]))) ∧
    exec (.fmul d a b p r) s = .next (noted s (out (fvMul x y))) ∧
    exec (.fcvtF d a p r) s = .next (noted s (out (fvInt (regVal s a).toInt, 0))) ∧
    exec (.fcvtI d a p r) s = .next (noted s [landS 4 d (BitVec.ofNat 64 (encodeSigned 64 r x).1) (encodeSigned 64 r x).2])

/-! ### Branches, loops, system registers, traps -/

/-- R102-R105: branch preparation, taken and untaken branches, the link of CALL and the back-edge of LOOP, from readable operands and aligned targets;
a taken branch or back-edge whose target has a non-zero bit in [4:0] stops with ALIGN and has no other effect. -/
def Obligations.BranchResults : Prop :=
  (∀ (s : State) (t a p n i j st : Nat), i < 8388608 → j < 8192 → regReady s a = true → predReady s p = true →
    let x := ctx s
    let taken : Bool := if n = 1 then !predVal s p else predVal s p
    let branchTo (b : Nat) : Eff := .ctl (.branch (bregOf x b))
    let c := regVal s a - BitVec.ofNat 64 st
    exec .nop s = .next (noted s []) ∧
    exec (.pbr t i) s = .next (noted s
      [.land 1 (some (.breg t (x.pc + BitVec.ofInt 64 (32 * (if i < 4194304 then (i : Int) else i - 8388608))))) none 0]) ∧
    exec (.pbrr t a j) s = .next (noted s
      [.land 1 (some (.breg t (regVal s a + BitVec.ofInt 64 (32 * (if j < 4096 then (j : Int) else j - 8192))))) none 0]) ∧
    ((bregOf x t).toNat % 32 = 0 →
      exec (.br t) s = .next (noted s [branchTo t]) ∧
      exec (.brp t p n) s = .next (noted s (if taken then [branchTo t] else [])) ∧
      exec (.call t p n) s = .next (noted s (if taken then [branchTo t, .land 1 (some (.breg 7 (x.pc + 96#64))) none 0] else [])) ∧
      exec (.loop t a st) s = .next (noted s
        ((if 0 < c.toInt ∧ a ≠ 0 then [.ctl (.jump (bregOf x t))] else []) ++ [landS 1 a c 0]))) ∧
    ((bregOf x 7).toNat % 32 = 0 → exec (.ret p n) s = .next (noted s (if taken then [branchTo 7] else []))) ∧
    (taken = false → exec (.brp t p n) s = .next (noted s []) ∧ exec (.call t p n) s = .next (noted s []) ∧
      exec (.ret p n) s = .next (noted s [])) ∧
    (c.toInt ≤ 0 ∨ a = 0 → exec (.loop t a st) s = .next (noted s [landS 1 a c 0]))) ∧
  (∀ (s : State) (t a p n st : Nat), regReady s a = true → predReady s p = true →
    let bad (i : Instr) : Prop := exec i s = .next (halted s (faultOf 3 s.issue.slot))
    ((bregOf (ctx s) t).toNat % 32 ≠ 0 →
      bad (.br t) ∧
      (predVal s p = (n != 1) → bad (.brp t p n) ∧ bad (.call t p n)) ∧
      (0 < (regVal s a - BitVec.ofNat 64 st).toInt → a ≠ 0 → bad (.loop t a st))) ∧
    ((bregOf (ctx s) 7).toNat % 32 ≠ 0 → predVal s p = (n != 1) → bad (.ret p n)))

/-- R106: LOOPS shifts the stage predicates up by one, gives p8 the sign of its counter, counts down while that is set, moves ROTBASE back by one, and
jumps while any stage is active; an active loop whose target has a non-zero bit in [4:0] stops with ALIGN and has no other effect. -/
def Obligations.SoftwarePipelinedLoop : Prop :=
  ∀ (s : State) (t a st : Nat), 1 ≤ st → st ≤ 8 → regReady s a = true → (∀ k, k + 1 < st → predReady s (8 + k) = true) →
    let c := regVal s a
    let go := decide (0 < c.toInt)
    let stage (k : Nat) : Bool := if k = 0 then go else predVal s (8 + k - 1)
    let active := (List.range st).any stage
    ((active = true → (bregOf (ctx s) t).toNat % 32 = 0) →
      exec (.loops t a st) s = .next (noted s
        ((if active then [.ctl (.jump (bregOf (ctx s) t))] else []) ++ (if go then [landS 1 a (c - 1#64) 0] else []) ++
          (List.range st).map (fun k => landP (8 + k) (stage k)) ++ [.land 1 (some (.rot (((ctx s).rot + 15) % 16))) none 0]))) ∧
    (active = true → (bregOf (ctx s) t).toNat % 32 ≠ 0 → exec (.loops t a st) s = .next (halted s (faultOf 3 s.issue.slot)))

/-- R108, R85, R111, R112, R358, R217: SYSRD lands the register's value, SYSWR the write of a register, for every number the map defines and every
mode that may name it. A root waits for earlier stores at die scope, DUETCTL for an empty matrix queue. -/
def Obligations.SystemRegisterMoves : Prop :=
  ∀ (s : State) (a n : Nat), sysRegDefined n = true → (sysPrivileged n = true → inStageManager s = true) →
    let write (i : Instr) (k : Nat) : Prop := exec i s = .next (noted s [.land 1 (some (.sys k (regVal s a))) none 0])
    (regFree s a = true → exec (.sysrd a n) s = .next (noted s [landS 1 a (sysRead s s.focus n) 0])) ∧
    (regReady s a = true →
      write (.syswr a n) n ∧ write (.nopreWrite a 5) 5 ∧ write (.stickyWrite a 4) 4 ∧
      (0x40 ≤ n → n ≤ 0x43 → write (.evselWrite a n) n) ∧
      (n = 0x20 ∨ n = 0x21 → storesDone s s.focus 1 = true → write (.rootWrite a n) n) ∧
      (n = 0x31 → (ctx s).mq = [] → write (.duetctlWrite a n) n))

/-- R109-R112: what a register reads after a SYSWR to it has landed. Reserved bits read zero, LIVE of CAUSE keeps its value, STICKY loses the bits
written as one, DUETCTL's IN_FORCE is the part's; a read-only register keeps its value. -/
def Obligations.WrittenSystemRegistersReadBack : Prop :=
  ∀ (s : State) (core n : Nat) (v : Word),
    let old := sysRead s core n
    let new := sysRead (sysWrite s core n v) core n
    (n ∈ [0, 1, 2, 6, 0x48, 0x49, 0x4A, 0x4B] → new = old) ∧
    (n = 3 → new = v % 16#64) ∧
    (n = 4 → new = old &&& ~~~v) ∧
    (n = 5 → new = if v = 0 then 0 else 1) ∧
    (8 ≤ n → n ≤ 15 → new = v) ∧
    (n = 0x10 → new = (old &&& 0x4000000000000000#64) ||| (v &&& 0x80000000000000FF#64)) ∧
    (n ∈ [0x11, 0x12, 0x13, 0x14, 0x15] → new = v) ∧
    (n = 0x16 → new = v &&& 1#64) ∧
    (n = 0x20 ∨ n = 0x21 → new = v &&& 0x000001FFFFFFE000#64) ∧
    (n = 0x30 → new = v &&& 0xFE9#64) ∧
    (n = 0x31 → new &&& 0xF#64 = v &&& 0xF#64) ∧
    (n = 0x32 → new = v &&& 0xFFFF#64) ∧
    (0x40 ≤ n → n ≤ 0x43 → new = v &&& 0x1FF#64 ∧
      sysRead (sysWrite s core n v) core (n + 8) = if v.getLsbD 9 then 0 else sysRead s core (n + 8))

/-- R70: in cue code ERET, HALT, ADMIT, and SYSRD and SYSWR of every register whose access code is SM, stop with PRIV; FAULTINFO is the slot. -/
def Obligations.CueCodePrivilegeFaults : Prop :=
  ∀ (s : State) (a b n : Nat), inStageManager s = false →
    let priv (i : Instr) : Prop := exec i s = .next (halted s (faultOf 2 s.issue.slot))
    priv .eret ∧ priv .halt ∧ priv (.admitSeg a b) ∧
    (sysRegDefined n = true → sysPrivileged n = true → priv (.sysrd a n) ∧ priv (.syswr a n)) ∧
    (n = 0x20 ∨ n = 0x21 → priv (.rootWrite a n)) ∧ (0x40 ≤ n → n ≤ 0x43 → priv (.evselWrite a n)) ∧
    priv (.duetctlWrite a 0x31)

/-- R20, R350-R352: TRAP, ERET in a handler with a bundle address in FAULTPC, and HALT give their bundle its end; ERET stops with ILLEGAL outside a
handler and with ALIGN where FAULTPC has a non-zero bit in [4:0]. -/
def Obligations.TrapReturnHaltComplete : Prop :=
  ∀ (s : State) (i : Nat),
    exec (.trap i) s = .next (noted s [.ctl (.trap i)]) ∧
    (inStageManager s = true → exec .halt s = .next (noted s [.ctl .halt])) ∧
    (inStageManager s = true → live (ctx s) = true → (ctx s).faultpc.toNat % 32 = 0 → exec .eret s = .next (noted s [.ctl .eret])) ∧
    (inStageManager s = true → live (ctx s) = true → (ctx s).faultpc.toNat % 32 ≠ 0 →
      exec .eret s = .next (halted s (faultOf 3 s.issue.slot))) ∧
    (inStageManager s = true → live (ctx s) = false → exec .eret s = .next (halted s (faultOf 1 s.issue.slot)))

/-- R348, R350: a trap taken outside a handler with a usable TVEC. The bundle F goes to FAULTPC, the cause to CAUSE with LIVE and the former mode, the
detail to FAULTINFO; the mode is the stage manager's, the pc is TVEC, what was in flight and the delay state are kept for ERET, every latch is invalid
but those that the results of this boundary enter (R41: after the invalidation); SHAPEINFO changes for SHAPE alone. Registers, predicates, tiles,
dimension variables, banks, the scratchpad, the accumulator rows with their tags, and memory are as they were. -/
def Obligations.TrapEntryState : Prop :=
  ∀ (s : State) (core : Nat) (f : Word) (t : Trap),
    let c := coreOf s core
    let x := c.ctx
    let y := (coreOf (takeTrap s core f t) core).ctx
    live x = false → c.tvec ≠ 0 → c.tvec.toNat % 32 = 0 → t.code < 256 →
    y.pc = c.tvec ∧ y.faultpc = f ∧ y.faultinfo = t.info ∧ y.mode = .stageManager ∧
    y.cause.toNat = 2 ^ 62 + t.code + (if x.mode = .stageManager then 2 ^ 63 else 0) ∧
    y.shapeinfo = t.shape.getD x.shapeinfo ∧
    y.trapCap = x.inflight ∧ y.inflight = [] ∧ y.trapDelay = x.delay ∧ y.delay = none ∧ y.bypass = x.bypass.take x.fresh ∧ y.holds = [] ∧
    y.sregs = x.sregs ∧ y.preds = x.preds ∧ y.bregs = x.bregs ∧ y.kmasks = x.kmasks ∧ y.tiles = x.tiles ∧ y.dims = x.dims ∧
    y.held = x.held ∧ y.sticky = x.sticky ∧ y.ports = x.ports ∧ y.tree = x.tree ∧ y.pgMem = x.pgMem ∧ y.mq = x.mq ∧
    (let z := coreOf (takeTrap s core f t) core
     z.spad = c.spad ∧ z.rows = c.rows ∧ z.tags = c.tags ∧ z.marks = c.marks ∧ z.pend = c.pend ∧ z.remote = c.remote) ∧
    (takeTrap s core f t).mem = s.mem ∧ (takeTrap s core f t).house = s.house ∧
    (∀ n, n ≠ core → coreOf (takeTrap s core f t) n = coreOf s n)

/-- R349: a trap while LIVE is set, or with an unusable TVEC, stops the core at the boundary with its context untouched; the new cause is logged with
CAUSE and FAULTPC as they stood. -/
def Obligations.DoubleFaultStopsCore : Prop :=
  ∀ (s : State) (core : Nat) (f : Word) (t : Trap),
    let c := coreOf s core
    (live c.ctx = true ∨ c.tvec = 0 ∨ c.tvec.toNat % 32 ≠ 0) →
    coreOf (takeTrap s core f t) core = { c with status := .stopped } ∧
    (takeTrap s core f t).house.log = s.house.log ++ [⟨.doubleFault, core, t.code, c.ctx.cause.toNat, c.ctx.faultpc.toNat⟩] ∧
    (takeTrap s core f t).mem = s.mem

/-- R351: ERET undoes trap entry. Return from a trap just taken, with FAULTPC not written by the handler, gives the pc F, the former mode, the delay
state and the results in flight back, and LIVE clears; of the latches only those stay valid that results entered at the boundary of the switch (R41);
every other field of the context is the trapped one's, but for the records of the trap: CAUSE with its code and the former mode, FAULTPC, FAULTINFO,
and SHAPEINFO for SHAPE alone. -/
def Obligations.ReturnUndoesTrapEntry : Prop :=
  ∀ (s : State) (core : Nat) (t : Trap),
    let c := coreOf s core
    let x := c.ctx
    let y := trapReturn (coreOf (takeTrap s core x.pc t) core).ctx
    live x = false → c.tvec ≠ 0 → c.tvec.toNat % 32 = 0 → t.code < 256 →
    y.cause.toNat = t.code + (if x.mode = .stageManager then 2 ^ 63 else 0) ∧ live y = false ∧
    y = { x with
      cause := y.cause, faultpc := x.pc, faultpcSet := false, faultinfo := t.info, shapeinfo := t.shape.getD x.shapeinfo, trapCap := [],
      trapDelay := none, trapShadow := 0, trapWait := none, draining := none, bypass := x.bypass.take x.fresh, holds := [] }

/-! ### Cues, ensembles, marks, waits, admission -/

/-- R318-R321: CUE.PUSH, CUE.FORK in its forms, CUE.EXIT and CUE.SELF complete where their operands can be read, the core's earlier accesses have
performed (with what it is ordered after, R337), and the ring has room; each gives its bundle the one act the rule names, beside the note of a record
read that reaches no memory (R9, R375). Two points are the model's choice: a join address that is no multiple of 8 is used as it stands (log 38), and
the join step of CUE.EXIT waits for its own room after the exit has begun (log 32). Exposed results need no wait of their own, since the pipelines
hold in a stall (R44). -/
def Obligations.CueInstructionsComplete : Prop :=
  ∀ (s : State) (a b : Nat),
    let x := ctx s
    let die := dieOfCore s.focus
    let sm := inStageManager s
    let may (w : Nat) : Bool := !wingSm (wingOf s die w) || sm
    (regFree s a = true → exec (.cueSelf a) s = .next (noted s [landS 1 a x.slotAddr 0])) ∧
    (regReady s a = true → regReady s b = true → (regVal s a).toNat % 64 = 0 → accessesDone s s.focus = true →
      let va := (regVal s a).toNat
      let notes := readNotes s va 64
      (∀ r, (regVal s b).toNat ≤ 7 → may (regVal s b).toNat = true → loadV s (regVal s a).toNat 64 = .ok r →
        programRoom (wingOf s die (regVal s b).toNat) 1 = true →
        exec (.cuePush a b) s = .next (noted s (notes ++ [.act (.cuePush (regVal s b).toNat (recSetClass r (regVal s b).toNat))]))) ∧
      (∀ t, loadV s (regVal s a).toNat 64 = .ok t →
        let w := recClass t
        let j := recWord t 2
        let n := (regVal s b).toNat
        (n = 0 → j = 0 → exec (.cueFork a b) s = .next (noted s notes)) ∧
        (n = 0 → j ≠ 0 → ∀ k, loadV s (j + 64) 64 = .ok k → hwRoom s die (recClass k) sm = true →
          exec (.cueFork a b) s = .next (noted s (notes ++ readNotes s (j + 64) 64 ++ [.act (.cueFork (recClass k) 0 none k)]))) ∧
        (n ≠ 0 → n ≤ 65536 → may w = true → programRoom (wingOf s die w) n = true →
          (j = 0 → exec (.cueFork a b) s = .next (noted s (notes ++ [.act (.cueFork w n none t)]))) ∧
          (∀ pa fills, j ≠ 0 → xlate s s.focus x.mode (rootPa x.droot) j true true = .ok (pa, fills) → dieHeld s die [(pa, 8)] = false →
            isBad s pa 8 = false → exec (.cueFork a b) s = .next (noted s (notes ++ [.act (.cueFork w n (some pa) t)])))))) ∧
    (heldCount x = 0 → exitErrors x = none → x.mq = [] → x.kq0 = [] → x.kq1 = [] → (cur s).pend.any (·.home.isNone) = false →
      accessesDone s s.focus = true →
      (∀ jpa rpa, exitPieces s s.focus = .ok (jpa, rpa) → (∀ p ∈ jpa, isBad s p.1 p.2 = false) →
        exec .cueExit s = .next (noted s [.ctl .exit])))

/-- R323: once the earlier stores and acquires have performed, ENS.JOIN adds the ensemble once, at most eight to a cue and 2^20 - 1 to an ensemble;
ENS.LEAVE takes it away; ENS.SIZE answers the house die's count. The two acts keep a cue's list free of repeats and at most eight long, and change the
count by one where the list changes. -/
def Obligations.EnsembleInstructionsComplete : Prop :=
  ∀ (s : State) (a b : Nat),
    let e := (regVal s a).toNat
    (regReady s a = true → releaseReady s = true → e < 4096 →
      exec (.ensLeave a) s = .next (noted s [.act (.ensLeave e)]) ∧
      (e ∈ (ctx s).ens → exec (.ensJoin a) s = .next (noted s [])) ∧
      (e ∉ (ctx s).ens → (ctx s).ens.length < 8 → ensCount s e < 2 ^ 20 - 1 → exec (.ensJoin a) s = .next (noted s [.act (.ensJoin e)]))) ∧
    (regReady s b = true → (regVal s b).toNat < 4096 → regFree s a = true →
      exec (.ensSize a b) s = .next (noted s (if a = 0 then [] else
        [.access { seq := 0, kind := .reply, va := 0, pa := 0, size := 0, dst := a, data := ensCount s (regVal s b).toNat, swap := 0,
                   scope := 0, acq := false, rel := false, serial := (ctx s).serial, home := none, upto := 0, seen := [] }]))) ∧
    (∀ core k, let l := (coreOf s core).ctx.ens
      let left := ensLeave s core k
      let joined := ensJoin s core k
      l.Nodup → l.length ≤ 8 →
      ((coreOf left core).ctx.ens.Nodup ∧ (coreOf left core).ctx.ens.length ≤ 8 ∧ k ∉ (coreOf left core).ctx.ens ∧
        ensCount left k = if k ∈ l then ensCount s k - 1 else ensCount s k) ∧
      (k ∈ l ∨ l.length < 8 → (coreOf joined core).ctx.ens.Nodup ∧ (coreOf joined core).ctx.ens.length ≤ 8 ∧ k ∈ (coreOf joined core).ctx.ens ∧
        ensCount joined k = if k ∈ l then ensCount s k else ensCount s k + 1))

/-- R327-R329: a mark of this core is initialised with a count of 1 to 2^20 - 1 or bound to an ensemble; an arrival and a wait reach an initialised
mark of an enabled home; the wait sleeps on the generation read before its own arrival. -/
def Obligations.MarkInstructionsComplete : Prop :=
  ∀ (s : State) (a m : Nat), regReady s a = true →
    let v := (regVal s a).toNat
    let home := if a = 0 then s.focus else v
    let sleep : Eff := .ctl (.sleep ⟨home, m, (markOf (coreOf s home) m).gen⟩)
    (markSlept s s.focus m = false → 1 ≤ v → v < 2 ^ 20 → exec (.markInit a m) s = .next (noted s [.act (.markInit m false v)])) ∧
    (markSlept s s.focus m = false → v < 4096 → ((cur s).marks.filter fun k => k.2.bound).length < 64 →
      exec (.markInitEns a m) s = .next (noted s [.act (.markInit m true v)])) ∧
    (home < 512 → enabled s home = true → (markOf (coreOf s home) m).inited = true →
      exec (.markWait a m) s = .next (noted s [sleep]) ∧
      (releaseReady s = true → exec (.markArrive a m) s = .next (noted s [.act (.markArrive home m)]) ∧
        exec (.markAwait a m) s = .next (noted s [.act (.markArrive home m), sleep])))

/-- R330: the five reasons of MARKERR. FAULTINFO holds the reason above the home above the mark; the bundle has no effect. What counts as a sleeping
waiter (reason 4) is the model's reading of log 37: also the waits of saved contexts and of those a trap keeps. -/
def Obligations.MarkErrors : Prop :=
  ∀ (s : State) (a m : Nat), regReady s a = true → releaseReady s = true →
    let v := (regVal s a).toNat
    let home := if a = 0 then s.focus else v
    let err (i : Instr) (reason h : Nat) : Prop := exec i s = .next (halted s (faultOf 15 (reason * 2 ^ 24 + h % 512 * 2 ^ 12 + m)))
    (home < 512 → enabled s home = true → (markOf (coreOf s home) m).inited = false →
      err (.markArrive a m) 1 home ∧ err (.markWait a m) 1 home ∧ err (.markAwait a m) 1 home) ∧
    (512 ≤ home ∨ enabled s home = false → err (.markArrive a m) 2 home ∧ err (.markWait a m) 2 home ∧ err (.markAwait a m) 2 home) ∧
    (v = 0 ∨ 2 ^ 20 ≤ v → err (.markInit a m) 3 s.focus) ∧
    (4096 ≤ v → err (.markInitEns a m) 3 s.focus) ∧
    (markSlept s s.focus m = true → (1 ≤ v → v < 2 ^ 20 → err (.markInit a m) 4 s.focus) ∧ (v < 4096 → err (.markInitEns a m) 4 s.focus)) ∧
    (v < 4096 → markSlept s s.focus m = false → 64 ≤ ((cur s).marks.filter fun k => k.2.bound).length →
      err (.markInitEns a m) 5 s.focus)

/-- R324, R325, R327, R328: at a mark with an expected count n, n arrivals after MARK.INIT, and no fewer, complete the phase: the generation goes up
by one and the arrivals start again at zero. -/
def Obligations.MarkPhaseCompletes : Prop :=
  ∀ (s : State) (home m n k : Nat), 1 ≤ n → k ≤ n →
    let t := arrivals k (markSet s home m false n) home m
    let g := (markOf (coreOf s home) m).gen
    (k < n → markOf (coreOf t home) m = ⟨true, false, n, k, g⟩) ∧
    (k = n → markOf (coreOf t home) m = ⟨true, false, n, 0, (g + 1) % 65536⟩)

/-- R331: WAITA completes, as an acquire at the scope of the release that wrote the word, core for a plain write (R337; log 101 says how that release
is found), where the word meets its condition against the register, and otherwise stalls its bundle as a wait. -/
def Obligations.WaitOnAddress : Prop :=
  ∀ (s : State) (a b cc pa : Nat) (fills : List TlbEnt), cc < 4 → regReady s a = true → regReady s b = true →
    (regVal s a).toNat % 8 = 0 →
    xlate s s.focus (ctx s).mode (rootPa (ctx s).droot) (regVal s a).toNat true false = .ok (pa, fills) →
    waitFault (ctx s) (regVal s a).toNat = none → acquirePending (cur s) = false → pendMeets (cur s) pa 8 = false →
    scopeHeld s s.focus pa 8 false (fun _ => true) = false → isBad s pa 8 = false →
    let w := (BitVec.ofNat 64 (physNat s pa 8)).toInt
    let notes := readNotes s (regVal s a).toNat 8
    let y := (regVal s b).toInt
    let met : Prop := (cc = 0 ∧ w = y) ∨ (cc = 1 ∧ w ≠ y) ∨ (cc = 2 ∧ y ≤ w) ∨ (cc = 3 ∧ w < y)
    (met → exec (.waita a b cc) s = .next (noted s (notes ++ [.act (.observe (acquireLevel s s.focus pa 8))]))) ∧
    (¬ met → exec (.waita a b cc) s = .next (halted (noted s notes) (.stall .wait)))

/-- R81, R83: ADMIT in stage-manager code starts the audition that the descriptor asks for; with s0 its bundle stalls until the verdict, goes on with
success and faults with AUDIT on failure. -/
def Obligations.AdmitCompletes : Prop :=
  ∀ (s : State) (a b : Nat), inStageManager s = true →
    (∀ es, b ≠ 0 → admitDesc s a b = .ok es → exec (.admitSeg a b) s = .next (noted s es)) ∧
    (∀ es, admitPending s = none → admitDesc s a 0 = .ok es →
      exec (.admitSeg a 0) s = .next (halted (noted s es) (.stall .wait))) ∧
    (∀ bs ps, regReady s a = true → regFree s b = true → loadV s (regVal s a).toNat 32 = .ok bs →
      xlateSpan s s.focus (ctx s).mode (rootPa (ctx s).droot) ((regVal s a).toNat + 0x18) 8 false true = .ok ps →
      admitDesc s a b = .ok (readNotes s (regVal s a).toNat 32 ++ [.act (.auditStart (auditOf s (regVal s a).toNat b bs))])) ∧
    (∀ x, admitPending s = some x → x.kind = .reply →
      exec (.admitSeg a 0) s = .next (if x.data = 0 then noted s [] else halted s (faultOf 16 x.data))) ∧
    (∀ x, admitPending s = some x → x.kind ≠ .reply → exec (.admitSeg a 0) s = .next (halted s (.stall .wait)))

/-! ### Vector operations -/

/-- R33, R36, R42: what each source code reads. Codes 0-47 are rows of the window with their tags, 48-55 the bypass latches, 56-59 the next row of a
read port, which the read moves on, 60 zeros, 61 the S slot's broadcast, 63 the hold latch of the position; an invalid latch reads zero without a tag
and sets LATCHLOST (at the next boundary: the model's choice, log 86). -/
def Obligations.VectorSourceCodes : Prop :=
  ∀ (s : State) (pos code extra : Nat),
    let x := ctx s
    (∀ w, code < 48 → x.window = some w → holdsBank x (vrow x w code / 4) = true → pendingOn x (landsRow (vrow x w code)) = false →
      let r := vrow x w code
      isBad s (windowPa s.focus (0x200000 + 512 * r)) 512 = false →
      r = (if code < 32 then w + code else w + 32 + (code - 32 + x.rot) % 16) ∧
      readVec s pos code extra = .ok (⟨rowOf (cur s) r, tagOf (cur s) r, none, some (.row r)⟩, [])) ∧
    (∀ l, 48 ≤ code → code < 56 → l = x.bypass.getD (code - 48) Latch.invalid →
      readVec s pos code extra =
        .ok (if l.valid then (⟨l.val, l.tag, none, l.src⟩, []) else (⟨0, none, none, none⟩, [.land 1 none none flagLatchLost]))) ∧
    (∀ off f, 56 ≤ code → code < 60 → portRow s (code - 56) extra false = .ok (off, f) → pendingOn x (spadPending off 512) = false →
      isBad s (windowPa s.focus off) 512 = false →
      ∃ v : Row, readVec s pos code extra = .ok (⟨v, some f, none, none⟩, [.pop (code - 56)]) ∧
        ∀ k, k < 512 → rowByte v k = memGet (cur s).spad (off + k)) ∧
    (code = 60 → readVec s pos code extra = .ok (⟨0, none, none, none⟩, [])) ∧
    (code = 61 → readVec s pos code extra = .ok (⟨0, none, some (bcastOf s), none⟩, [])) ∧
    (∀ l, code = 63 → l = holdOf s pos →
      readVec s pos code extra =
        .ok (if l.valid then (⟨l.val, l.tag, none, l.src⟩, []) else (⟨0, none, none, none⟩, [.land 1 none none flagLatchLost])))

/-- R39: under a false guard every vector operation is suppressed, VLD among them: no source is read, nothing is written. A source code 61 must be one
that the S slot's operation qualifies for (R36), and a shift's immediate at most 31; every other immediate is free. -/
def Obligations.FalseGuardSuppresses : Prop :=
  ∀ (s : State) (d a b c f g i k o r w : Nat), predReady s g = true → predVal s g = false → bcastLegal s [a, b, d] = .ok () →
    let off (j : Instr) : Prop := exec j s = .next (noted s [])
    (off (.vadd d a b g w) ∧ off (.vsub d a b g w) ∧ off (.vmin d a b g w) ∧ off (.vmax d a b g w) ∧ off (.vabs d a g w) ∧
      off (.vneg d a g w) ∧ off (.vmul d a b g w) ∧ off (.vfma d a b g w) ∧ off (.vfms d a b g w)) ∧
    (off (.vrcp d a g w) ∧ off (.vrsq d a g w) ∧ off (.vsqrt d a g w) ∧ off (.vexp2 d a g w) ∧ off (.vlog2 d a g w) ∧ off (.vtanh d a g w)) ∧
    (off (.viadd d a b g w) ∧ off (.visub d a b g w) ∧ off (.vimul d a b g w) ∧ off (.vimin d a b g w) ∧ off (.vimax d a b g w) ∧
      off (.vand d a b g w) ∧ off (.vor d a b g w) ∧ off (.vxor d a b g w)) ∧
    (i ≤ 31 → off (.vshl d a i g w) ∧ off (.vshr d a i g w) ∧ off (.vsra d a i g w)) ∧
    (off (.vcmp k a b g c w) ∧ off (.vsel d a b g k w) ∧ off (.vkand d a b g w) ∧ off (.vkor d a b g w) ∧ off (.vknot d a g w)) ∧
    (off (.vcvt d a f g r w) ∧ off (.vbcast d a g w) ∧ off (.vmov d a g w) ∧ off (.viota d g w) ∧ off (.vshuf d a b g w) ∧
      off (.vslideUp d a i g w) ∧ off (.vslideDn d a i g w) ∧ off (.vcompact d a k g w) ∧ off (.vexpand d a k g w)) ∧
    (off (.vred d a o g w) ∧ off (.vscan d a o g w) ∧ off (.vsegred d a b g o w) ∧ off (.vsortAsc d a b g w) ∧ off (.vsortDesc d a b g w) ∧
      off (.vdelta d a b g w) ∧ off (.vrope d a b g w) ∧ off (.vsmax d a b g w)) ∧
    (off (.vld d a i g w) ∧ off (.vst d a i g w) ∧ off (.vmovs d a i g w) ∧ off (.vins d a i g w))

/-- R36, R172, R177-R179: the two-source arithmetic completes on every source and destination form. The lanes of the result are one rounding of the
exact lane results in the operation's format (INT32 lanes, saturated, for the integer operations, over rows that hold the broadcast at the lane width
of the operation's format), bitwise operations act on whole rows. -/
def Obligations.VectorTwoSourceResults : Prop :=
  ∀ (s : State) (d a b g w : Nat) (vs : List VSrc) (es : List Eff) (p : VecPlace),
    let pos := [(0, a), (1, b)]
    VecReads s g d w pos vs es →
    let fmt := opFmt (ctx s) vs
    let row (i : Nat) : Row := (vs.map (·.rowIn fmt)).getD i 0
    let lanes (t : Nat) (f : FV → FV → FV × Word) : VRes :=
      lanesRes t (encLanes t (((laneVals t (row 0)).zip (laneVals t (row 1))).map fun q => f q.1 q.2))
    let gives (i : Instr) (lat : Nat) (r : VRes) : Prop :=
      VecGoes s d w r.tag p → exec i s = .next (noted s (es ++ holdEffs fmt pos vs ++ vecEffs lat r p))
    (tagsFit (fun _ => tagF) pos vs = true → tagsSame fmt vs = true →
      gives (.vadd d a b g w) 2 (lanes fmt fun x y => fvSum false [x, y]) ∧
      gives (.vsub d a b g w) 2 (lanes fmt fun x y => fvSum false [x, fvNeg y]) ∧
      gives (.vmin d a b g w) 2 (lanes fmt (fvPick false)) ∧ gives (.vmax d a b g w) 2 (lanes fmt (fvPick true)) ∧
      gives (.vmul d a b g w) 4 (lanes fmt fvMul)) ∧
    (tagsFit (fun _ => tagI) pos vs = true →
      gives (.viadd d a b g w) 2 (lanes 8 fun x y => fvSum false [x, y]) ∧
      gives (.visub d a b g w) 2 (lanes 8 fun x y => fvSum false [x, fvNeg y]) ∧ gives (.vimul d a b g w) 4 (lanes 8 fvMul) ∧
      gives (.vimin d a b g w) 2 (lanes 8 (fvPick false)) ∧ gives (.vimax d a b g w) 2 (lanes 8 (fvPick true))) ∧
    (tagsFit (fun _ => tagAny) pos vs = true → tagsSame fmt vs = true →
      gives (.vand d a b g w) 2 (rowRes (row 0 &&& row 1) fmt 0) ∧
      gives (.vor d a b g w) 2 (rowRes (row 0 ||| row 1) fmt 0) ∧
      gives (.vxor d a b g w) 2 (rowRes (row 0 ^^^ row 1) fmt 0))

/-- R36, R172, R177-R180: the one-source arithmetic completes on every source and destination form. A NaN lane gives the canonical NaN, with INVALID
for a signalling one; shifts act on 32-bit lanes of the row that holds the broadcast at the lane width of the operation's format; a transcendental
also takes its slot's unit, which must be free. The VTANH neighbour and the last precision of the transcendentals are logs 5 and 7. -/
def Obligations.VectorOneSourceResults : Prop :=
  ∀ (s : State) (d a i g w : Nat) (vs : List VSrc) (es : List Eff) (p : VecPlace),
    let pos := [(0, a)]
    VecReads s g d w pos vs es →
    let fmt := opFmt (ctx s) vs
    let row : Row := (vs.map (·.rowIn fmt)).getD 0 0
    let after (j : Instr) (lat : Nat) (pre : List Eff) (r : VRes) : Prop :=
      VecGoes s d w r.tag p → exec j s = .next (noted s (pre ++ (es ++ holdEffs fmt pos vs ++ vecEffs lat r p)))
    let quieted (f : FV → FV) : VRes := lanesRes fmt (encLanes fmt ((laneVals fmt row).map fun v =>
      match v with | .nan sig => (.nan false, if sig then flagInvalid else 0) | x => (f x, 0)))
    let shifted (f : BitVec 32 → BitVec 32) : VRes :=
      rowRes (laneRow 8 ((laneCodes 8 row).map fun c => (f (BitVec.ofNat 32 c)).toNat)) 8 0
    let trans (op : Nat) : VRes :=
      let cs := (laneCodes fmt row).map (transc fmt op)
      lanesRes fmt (cs.map (·.1), cs.foldl (fun acc c => acc ||| c.2) 0)
    (tagsFit (fun _ => tagF) pos vs = true → after (.vabs d a g w) 2 [] (quieted fvAbs) ∧ after (.vneg d a g w) 2 [] (quieted fvNeg)) ∧
    (tagsFit (fun _ => tagI) pos vs = true → i ≤ 31 →
      after (.vshl d a i g w) 2 [] (shifted (· <<< i)) ∧ after (.vshr d a i g w) 2 [] (shifted (· >>> i)) ∧
      after (.vsra d a i g w) 2 [] (shifted (·.sshiftRight i))) ∧
    (tagsFit (fun _ => tagT) pos vs = true → unitFree s = true →
      let unit : List Eff := [.act (.unitAccept s.issue.slot)]
      after (.vrcp d a g w) 8 unit (trans 0) ∧ after (.vrsq d a g w) 8 unit (trans 1) ∧ after (.vsqrt d a g w) 8 unit (trans 2) ∧
      after (.vexp2 d a g w) 8 unit (trans 3) ∧ after (.vlog2 d a g w) 8 unit (trans 4) ∧ after (.vtanh d a g w) 8 unit (trans 5))

/-- R178, R179, R187: the operations that read d6 as a third source. VFMA and VFMS round the exact a * b + d and a * b - d once; VDELTA writes the new
reference and enters the differences in q0. -/
def Obligations.VectorThreeSourceResults : Prop :=
  ∀ (s : State) (d a b g w : Nat) (vs : List VSrc) (es : List Eff) (p : VecPlace),
    let pos := [(0, a), (1, b), (2, d)]
    VecReads s g d w pos vs es →
    let fmt := opFmt (ctx s) vs
    tagsSame fmt vs = true →
    let row (i : Nat) : Row := (vs.map (·.rowIn fmt)).getD i 0
    let gives (i : Instr) (lat : Nat) (r : VRes) : Prop :=
      VecGoes s d w r.tag p → exec i s = .next (noted s (es ++ holdEffs fmt pos vs ++ vecEffs lat r p))
    let fma (neg : Bool) : VRes :=
      lanesRes fmt (encLanes fmt (((laneVals fmt (row 0)).zip ((laneVals fmt (row 1)).zip (laneVals fmt (row 2)))).map fun q =>
        let m := fvMul q.1 q.2.1
        let t := fvSum false [m.1, if neg then fvNeg q.2.2 else q.2.2]
        (t.1, m.2 ||| t.2)))
    (tagsFit (fun _ => tagF) pos vs = true → gives (.vfma d a b g w) 4 (fma false) ∧ gives (.vfms d a b g w) 4 (fma true)) ∧
    (tagsFit (fun _ => tagNoX) pos vs = true →
      let ls := ((laneCodes fmt (row 0)).zip ((laneCodes fmt (row 1)).zip (laneCodes fmt (row 2)))).map fun q => deltaLane fmt q.1 q.2.1 q.2.2
      gives (.vdelta d a b g w) 2 ⟨laneRow fmt (ls.map (·.1)), some fmt, (laneRow fmt (ls.map (·.2.1)), some fmt),
        ls.foldl (fun acc l => acc ||| l.2.2) 0, false⟩)

/-- R90, R181: VCMP writes one mask bit per lane of the operation's format, the mask operations one per lane of their first mask, with the lane count
and nothing above it; VSEL takes each lane of a where its bit is set, else of b. -/
def Obligations.LaneMaskResults : Prop :=
  ∀ (s : State) (d a b c g k w : Nat) (vs : List VSrc) (es : List Eff) (p : VecPlace),
    let pos := [(0, a), (1, b)]
    let maskOut (bs : List Bool) (n : Nat) : Eff :=
      let m : BitVec 512 := (maskOfBits bs n).1
      .land 2 (if w = 1 then none else some (.kmask d m n)) (some (BitVec.ofNat 4096 m.toNat, none)) 0
    (predReady s g = true → predVal s g = true → maskReady s a = true → maskReady s b = true →
      let x := maskVal s a
      let bits (f : Nat → Bool) : List Bool := (List.range x.2).map f
      exec (.vkand d a b g w) s = .next (noted s [maskOut (bits fun i => x.1.getLsbD i && (maskVal s b).1.getLsbD i) x.2]) ∧
      exec (.vkor d a b g w) s = .next (noted s [maskOut (bits fun i => x.1.getLsbD i || (maskVal s b).1.getLsbD i) x.2]) ∧
      exec (.vknot d a g w) s = .next (noted s [maskOut (bits fun i => !x.1.getLsbD i) x.2])) ∧
    (VecReads s g d 1 pos vs es →
      let fmt := opFmt (ctx s) vs
      let row (i : Nat) : Row := (vs.map (·.rowIn fmt)).getD i 0
      tagsFit (fun _ => tagFI) pos vs = true → tagsSame fmt vs = true →
      exec (.vcmp d a b g c w) s = .next (noted s (es ++ holdEffs fmt pos vs ++
        [maskOut (((laneVals fmt (row 0)).zip (laneVals fmt (row 1))).map fun q =>
          match c with
          | 0 => fvEq q.1 q.2 | 1 => !fvEq q.1 q.2 | 2 => fvLt q.1 q.2 | 3 => fvLt q.1 q.2 || fvEq q.1 q.2 | 4 => fvLt q.2 q.1
          | _ => fvLt q.2 q.1 || fvEq q.1 q.2) (lanesOf fmt)]))) ∧
    (VecReads s g d w pos vs es → maskReady s k = true →
      let fmt := opFmt (ctx s) vs
      let row (i : Nat) : Row := (vs.map (·.rowIn fmt)).getD i 0
      let codes := (List.range (lanesOf fmt)).map fun i =>
        if maskBit (maskVal s k) i then elt (fmtWidth fmt) (row 0).toNat i else elt (fmtWidth fmt) (row 1).toNat i
      tagsFit (fun _ => tagNotCS) pos vs = true → tagsSame fmt vs = true → VecGoes s d w (some fmt) p →
      exec (.vsel d a b g k w) s = .next (noted s (es ++ holdEffs fmt pos vs ++ vecEffs 2 (rowRes (laneRow fmt codes) fmt 0) p)))

/-- R182, R183, R186: conversion and movement with one row source: VCVT by runs of eight lanes into a tag format, VBCAST lane 0, VMOV the row, the
slides with zeros shifted in, VCOMPACT the set lanes first, VEXPAND the lanes back under the set bits; VIOTA the lane numbers. -/
def Obligations.VectorMovementResults : Prop :=
  ∀ (s : State) (d a f g i k r w : Nat) (vs : List VSrc) (es : List Eff) (p : VecPlace),
    (VecReads s g d w [] [] [] → VecGoes s d w (some 8) p →
      exec (.viota d g w) s = .next (noted s (vecEffs 2 (rowRes (laneRow 8 (List.range 128)) 8 0) p))) ∧
    (let pos := [(0, a)]
    VecReads s g d w pos vs es →
    let fmt := opFmt (ctx s) vs
    let row := (vs.map (·.rowIn fmt)).getD 0 0
    let l := laneCodes fmt row
    let gives (j : Instr) (v : VRes) : Prop :=
      VecGoes s d w v.tag p → exec j s = .next (noted s (es ++ holdEffs fmt pos vs ++ vecEffs 2 v p))
    let moved (cs : List Nat) : VRes := rowRes (laneRow fmt cs) fmt 0
    (tagsFit (fun _ => tagAny) pos vs = true →
      gives (.vmov d a g w) (rowRes row fmt 0) ∧
      (tagAny f = true →
        let c := cvtRow f r ((List.range (lanesOf f)).map fun n => (cvtVals fmt row)[n]?)
        gives (.vcvt d a f g r w) (rowRes c.1 f c.2))) ∧
    (tagsFit (fun _ => tagNotCS) pos vs = true →
      gives (.vslideUp d a i g w) (moved ((List.range l.length).map fun n => if n < i then 0 else l.getD (n - i) 0)) ∧
      gives (.vslideDn d a i g w) (moved ((List.range l.length).map fun n => l.getD (n + i) 0))) ∧
    (tagsFit (fun _ => tagFI) pos vs = true →
      gives (.vbcast d a g w) (moved (l.map fun _ => l.getD 0 0)) ∧
      (maskReady s k = true →
        let m := maskVal s k
        gives (.vcompact d a k g w) (moved (((List.range l.length).filter (maskBit m)).map (l.getD · 0))) ∧
        gives (.vexpand d a k g w) (moved ((List.range l.length).map fun n =>
          if maskBit m n then l.getD ((List.range n).filter (maskBit m)).length 0 else 0)))))

/-- R184, R185, R188, R189: reductions, scans, segmented reductions, sorts, rotations and softmax numerators complete on their tags. A sort's payload
and VSHUF's and VSEGRED's second source keep their own tag; VROPE reads its positions as 32-bit lanes of its second row. That an untagged second row
of VROPE is delivered at the first one's lane width and read so is the model's choice (log 107), as is the last precision of the cosines, sines and
exponentials of VROPE and VSMAX (log 7). -/
def Obligations.VectorReductionResults : Prop :=
  ∀ (s : State) (d a b g o w : Nat) (vs : List VSrc) (es : List Eff) (p : VecPlace),
    let fmt := opFmt (ctx s) vs
    let row (t i : Nat) : Row := (vs.map (·.rowIn t)).getD i 0
    let bt := ((vs.getD 1 ⟨0, none, none, none⟩).tag).getD fmt
    let red (xs : List FV) : FV × Word := match o with | 0 => fvSum false xs | 1 => fvPickList true xs | _ => fvPickList false xs
    let gives (pos : List (Nat × Nat)) (j : Instr) (lat : Nat) (v : VRes) : Prop :=
      VecGoes s d w v.tag p → exec j s = .next (noted s (es ++ holdEffs fmt pos vs ++ vecEffs lat v p))
    let xs := laneVals fmt (row fmt 0)
    (VecReads s g d w [(0, a)] vs es → tagsFit (fun _ => tagFI) [(0, a)] vs = true →
      gives [(0, a)] (.vred d a o g w) 6
        (rowRes (laneRow fmt (List.replicate (lanesOf fmt) (encodeElt fmt 0 (red xs).1).1)) fmt ((red xs).2 ||| (encodeElt fmt 0 (red xs).1).2)) ∧
      gives [(0, a)] (.vscan d a o g w) 6 (lanesRes fmt (encLanes fmt ((List.range xs.length).map fun n => red (xs.take (n + 1)))))) ∧
    (let pos := [(0, a), (1, b)]
    VecReads s g d w pos vs es →
    (tagsFit (fun q t => if q = 0 then tagFI t else tagNotCS t) pos vs = true → lanesOf bt = lanesOf fmt →
      gives pos (.vsegred d a b g o w) 6 (lanesRes fmt (encLanes fmt
        ((lastHeads 0 0 (laneCodes bt (row bt 1))).zipIdx.map fun h => red ((xs.take (h.2 + 1)).drop h.1))))) ∧
    (tagsFit (fun q t => if q = 0 then tagNoX t else tagNotCS t) pos vs = true → lanesOf bt = lanesOf fmt →
      let sorted (lt : FV → FV → Bool) : VRes :=
        let l := sortLanes lt (((laneCodes fmt (row fmt 0)).zip (laneCodes bt (row bt 1))).map fun q => (decodeElt fmt q.1, q.1, q.2))
        ⟨laneRow fmt (l.map (·.2.1)), some fmt, (laneRow bt (l.map (·.2.2)), (vs.getD 1 ⟨0, none, none, none⟩).tag), 0, false⟩
      vs.length = 2 →
      gives pos (.vsortAsc d a b g w) 12 (sorted fvKeyLt) ∧ gives pos (.vsortDesc d a b g w) 12 (sorted fun x y => fvKeyLt y x)) ∧
    (tagsFit (fun q t => if q = 0 then tagFI t else tagIdx t) pos vs = true → lanesOf fmt ≤ lanesOf bt →
      gives pos (.vshuf d a b g w) 2 (rowRes (laneRow fmt ((List.range (lanesOf fmt)).map fun n =>
        (laneCodes fmt (row fmt 0)).getD ((laneCodes bt (row bt 1)).getD n 0) 0)) fmt 0)) ∧
    (tagsFit (fun q t => if q = 0 then tagT t else tagI t) pos vs = true →
      let ls := (List.range (lanesOf fmt / 2)).map fun j => ropePair fmt (Nat.log2 (lanesOf fmt / 2)) j
        ((laneCodes fmt (row fmt 0)).getD (2 * j) 0) ((laneCodes fmt (row fmt 0)).getD (2 * j + 1) 0) ((laneCodes 8 (row fmt 1)).getD j 0)
      gives pos (.vrope d a b g w) 4 (lanesRes fmt (ls.flatMap (·.1), ls.foldl (fun acc l => acc ||| l.2) 0))) ∧
    (tagsFit (fun _ => tagT) pos vs = true → tagsSame fmt vs = true →
      let m := fvPickList true ((laneVals fmt (row fmt 1)).take 1 ++ xs)
      let cs := xs.map fun x =>
        let df := fvSum false [x, fvNeg m.1]
        ((exp2Val (encodeElt fmt 0) df.1).1, df.2 ||| (exp2Val (encodeElt fmt 0) df.1).2)
      gives pos (.vsmax d a b g w) 6 (if m.1 = .inf true then rowRes 0 fmt 0
        else lanesRes fmt (cs.map (·.1), cs.foldl (fun acc c => acc ||| c.2) m.2))))

/-- R190, R191: a row moves between the scratchpad and a vector place, 64-byte aligned and inside the scratchpad, at S[a] plus 512 times the
sign-extended 8-bit field; VLD's row is tagged WFMT. Both stop with ALIGN where that is no multiple of 64, and with DATAXL where the row does not lie
in the scratchpad. -/
def Obligations.ScratchpadRows : Prop :=
  ∀ (s : State) (d a i g w ea : Nat), i < 256 → predReady s g = true → predVal s g = true → regReady s a = true →
    ea = (regVal s a + BitVec.ofInt 64 ((if i < 128 then (i : Int) else i - 256) * 512)).toNat →
    (let stops (j : Instr) : Prop :=
       (ea % 64 ≠ 0 → exec j s = .next (halted s (faultOf 3 s.issue.slot))) ∧
       (ea % 64 = 0 → 0x200000 < ea + 512 → exec j s = .next (halted s (faultOf 5 ea)))
     ((w = 0 → passes (vecStall s d 0 true) = true) → (ea + 512 ≤ 0x200000 → passes (touchRange s ea 512 false) = true) →
       stops (.vld d a i g w)) ∧
     (bcastLegal s [d] = .ok () → passes (vecStall s d 0 false) = true →
       (w ≠ 1 → ea + 512 ≤ 0x200000 → passes (touchRange s ea 512 true) = true) → stops (.vst d a i g w))) ∧
    (∀ p, ea % 64 = 0 → ea + 512 ≤ 0x200000 → (w = 0 → passes (vecStall s d 0 true) = true) → passes (touchRange s ea 512 false) = true →
      pendingOn (ctx s) (spadPending ea 512) = false → isBad s (windowPa s.focus ea) 512 = false → VecGoes s d w (some (ctx s).wfmt) p →
      ∃ v : Row, (∀ k, k < 512 → rowByte v k = memGet (cur s).spad (ea + k)) ∧
        exec (.vld d a i g w) s = .next (noted s (vecEffs 2 (rowRes v (ctx s).wfmt 0) p))) ∧
    (∀ v es, ea % 64 = 0 → ea + 512 ≤ 0x200000 → bcastLegal s [d] = .ok () → passes (vecStall s d 0 false) = true → (w ≠ 1 → passes (touchRange s ea 512 true) = true) →
      readVecs s [(2, d)] [] = .ok ([v], es) →
      let row := v.rowIn (opFmt (ctx s) [v])
      exec (.vst d a i g w) s = .next (noted s (es ++ holdEffs (opFmt (ctx s) [v]) [(2, d)] [v] ++
        [.land 2 (if w = 1 then none else some (.spad ea 512 row.toNat)) (some (row, v.tag)) 0])))

/-- R192, whole, with R191: VMOVS gives the lane's code zero-extended to 64 bits, VINS writes the low bits of the scalar, as many as a lane has. At a
lane number that the format does not have VMOVS gives 0, and VINS writes the row unchanged. -/
def Obligations.SingleLanes : Prop :=
  ∀ (s : State) (d a i g w : Nat) (v : VSrc) (es : List Eff),
    let fmt := opFmt (ctx s) [v]
    (VecReads s g d 1 [(0, a)] [v] es → tagsFit (fun _ => tagNotCS) [(0, a)] [v] = true → i < lanesOf fmt → fmtWidth fmt ≤ 64 →
      (w = 0 → regFree s d = true) → w < 2 →
      ∃ r : Word, r.toNat = elt (fmtWidth fmt) (v.rowIn fmt).toNat i ∧ r.toNat < 2 ^ fmtWidth fmt ∧
        exec (.vmovs d a i g w) s = .next (noted s (es ++ holdEffs fmt [(0, a)] [v] ++
          [.land 2 (if w = 1 then none else some (.sreg d r)) (some (BitVec.ofNat 4096 r.toNat, none)) 0]))) ∧
    (lanesOf fmt ≤ i →
      (VecReads s g d 1 [(0, a)] [v] es → tagsFit (fun _ => tagNotCS) [(0, a)] [v] = true → (w = 0 → regFree s d = true) → w < 2 →
        exec (.vmovs d a i g w) s = .next (noted s (es ++ holdEffs fmt [(0, a)] [v] ++
          [.land 2 (if w = 1 then none else some (.sreg d 0)) (some (0, none)) 0]))) ∧
      (∀ p, VecReads s g d w [(2, d)] [v] es → tagsFit (fun _ => tagNotCS) [(2, d)] [v] = true → regReady s a = true → VecGoes s d w (some fmt) p →
        exec (.vins d a i g w) s = .next (noted s (es ++ holdEffs fmt [(2, d)] [v] ++ vecEffs 2 (rowRes (v.rowIn fmt) fmt 0) p)))) ∧
    (∀ p, VecReads s g d w [(2, d)] [v] es → tagsFit (fun _ => tagNotCS) [(2, d)] [v] = true → i < lanesOf fmt → regReady s a = true →
      VecGoes s d w (some fmt) p →
      exec (.vins d a i g w) s = .next (noted s (es ++ holdEffs fmt [(2, d)] [v] ++ vecEffs 2
        (rowRes (laneRow fmt ((List.range (lanesOf fmt)).map fun n =>
          if n = i then (regVal s a).toNat % 2 ^ fmtWidth fmt else elt (fmtWidth fmt) (v.rowIn fmt).toNat n)) fmt 0) p)))

/-! ### The matrix slot -/

/-- R195, R199, R200, R206-R208: the latch loads, MZERO, MTRANS and MCAST enter the matrix queue with their operands captured as constants where their
types suit, their storage fits and is held, nothing they name is busy, and the queue has room: none of them enters a queue of sixteen. That MTRANS and
MCAST write no type word is a reading of the spec (log 45), as is what a fill does to the group of latches that the last fill took (log 46). -/
def Obligations.MatrixCommandsIssue : Prop :=
  ∀ (s : State) (d a l g r : Nat) (p : PCtx) (loc loc' : Local) (e de : List Nat),
    let x := ctx s
    let at' := tileOf x a
    let dt := tileOf x d
    let aw := at'.tw.toNat
    let dw := dt.tw.toNat
    let no : Opnd := ⟨0, 0⟩
    let cmd (i : Instr) (ops : List Opnd) (q : PCtx) : Eff := .mcmd (mCmd s i ops q)
    (mBefore s (tileRange at' false) = .ok () → checkType s [] 1 at'.tw = .ok () → fmtIsOp (twFmt aw) = true →
      latchFits l (twFmt aw) = true →
      (twLayout aw ≤ 1 → twRank aw = 1 → extsNeeded s [] 1 at'.tw = .ok e → e.getD 0 1 ≤ 64 → e.getD 1 1 ≤ 128 →
        checkFit s 1 at'.tw e at'.bd = .ok () → banksHeld s at'.bd = .ok () →
        let lt := twMake 1 (twFmt aw) 0 (twScale aw) [e.getD 0 1, e.getD 1 1]
        exec (.mlatch a l) s = .next (noted s (latchFill x l lt (twLayout aw == 1) ++
          [cmd (.mlatch a l) [no, capture at' e, latchOpnd lt, no] PCtx.empty]))) ∧
      (twLayout aw = 5 → pgCounted s g = .ok p → (pctxDom x p).1 ≤ 64 → (pctxDom x p).2 ≤ 128 →
        unify s [] 1 4 (extOf (twExt aw 0)) (.const (pctxLeft p)) = .ok loc → extsNeeded s loc 1 at'.tw = .ok e →
        checkFit s 1 at'.tw e at'.bd = .ok () → e.getD 0 1 ≠ 0 →
        let lt := twMake 1 (twFmt aw) 0 0 [(pctxDom x p).1, (pctxDom x p).2]
        checkType s loc 2 lt = .ok () →
        exec (.mlatchX a l g) s = .next (noted s (bindEffs loc ++ latchFill x l lt false ++
          [pgEff g { p with outcur := p.outcur + e.getD 0 1 }, cmd (.mlatchX a l g) [no, capture at' e, latchOpnd lt, no] p])))) ∧
    (mBefore s (tileRange dt true) = .ok () → checkType s [] 0 dt.tw = .ok () → extsNeeded s [] 0 dt.tw = .ok de →
      checkFit s 0 dt.tw de dt.bd = .ok () → banksHeld s dt.bd = .ok () →
      exec (.mzero d) s = .next (noted s [cmd (.mzero d) [capture dt de, no, no, no] PCtx.empty])) ∧
    (mBefore s (tileRange dt true ++ tileRange at' false) = .ok () → checkType s [] 0 dt.tw = .ok () → checkType s [] 1 at'.tw = .ok () →
      bdOverlap dt.bd at'.bd = 0 → twRank dw = twRank aw →
      (∀ c, checkType s c 0 dt.tw = .ok () → extsNeeded s c 1 at'.tw = .ok e → extsNeeded s c 0 dt.tw = .ok de →
        checkFit s 1 at'.tw e at'.bd = .ok () → checkFit s 0 dt.tw de dt.bd = .ok () → banksHeld s at'.bd = .ok () →
        banksHeld s dt.bd = .ok () →
        let out (i : Instr) : Prop := exec i s = .next (noted s (bindEffs c ++ [cmd i [capture dt de, capture at' e, no, no] PCtx.empty]))
        (twLayout aw ∈ [0, 1, 3, 4] → twLayout dw ∈ [0, 1, 3, 4] → twRank aw = 1 → twScale aw = 0 → twScale dw = 0 →
          twFmt dw = twFmt aw → unify s [] 0 4 (extOf (twExt dw 0)) (extOf (twExt aw 1)) = .ok loc' →
          unify s loc' 0 5 (extOf (twExt dw 1)) (extOf (twExt aw 0)) = .ok c → out (.mtrans d a)) ∧
        (twLayout aw ≠ 5 → twLayout dw ≠ 5 → unifyAll s 0 (twRank aw) dw aw 4 [] = .ok c → out (.mcast d a r)))) ∧
    (∀ (i : Instr) (es : List Eff), i ∈ [.mlatch a l, .mlatchX a l g, .mzero d, .mtrans d a, .mcast d a r] → exec i s = .next (noted s es) →
      x.mq.length < 16)

/-- R121, R197, R201-R203: MMA enters the queue where A is a band tile, D (and C with the third operand) lie in the accumulator file, A and the latch
are of one kind, D's format is one the pair allows, and the extents unify; D's type word becomes constant. That the captured latch operand says in
LAYOUT along which dimension block scales run is the model's choice (log 14). -/
def Obligations.MatrixMultiplyIssues : Prop :=
  ∀ (s : State) (d a l c h x u n q : Nat) (k1 k2 k3 : Local) (ae de le : List Nat),
    let k := ctx s
    let dt := tileOf k d
    let at' := tileOf k a
    let ct := tileOf k c
    let lt := (latchOf k l).tw
    let dw := dt.tw.toNat
    let aw := at'.tw.toNat
    let cw := ct.tw.toNat
    let lw := lt.toNat
    tileFree s d = .ok () →
    mBefore s (tileRange dt true ++ tileRange at' false ++ (if u = 1 then tileRange ct false else [])) = .ok () →
    checkType s [] 0 dt.tw = .ok () → checkType s [] 1 at'.tw = .ok () → checkType s [] 2 lt = .ok () →
    twLayout aw = 2 → twLayout dw = 3 → fmtIsInt (twFmt lw) = fmtIsInt (twFmt aw) → (accPair (twFmt aw) (twFmt lw) (twFmt dw)).1 = true →
    unify s [] 1 5 (extOf (twExt aw 1)) (extOf (twExt lw 0)) = .ok k1 →
    unify s k1 0 4 (extOf (twExt dw 0)) (extOf (twExt aw 0)) = .ok k2 →
    unify s k2 0 5 (extOf (twExt dw 1)) (extOf (twExt lw 1)) = .ok k3 →
    banksHeld s dt.bd = .ok () →
    let goes (k : Local) (third : Opnd) : Prop :=
      checkType s k 0 dt.tw = .ok () → extsNeeded s k 1 at'.tw = .ok ae → extsNeeded s k 0 dt.tw = .ok de → extsNeeded s k 2 lt = .ok le →
      checkFit s 1 at'.tw ae at'.bd = .ok () → checkFit s 0 dt.tw de dt.bd = .ok () →
      exec (.mma d a l c h x u n q) s = .next (noted s (bindEffs k ++ [tileEff d (some (twConst dt.tw de)) none,
        .mcmd (mCmd s (.mma d a l c h x u n q) [capture dt de, capture at' ae, latchOpnd (latchWord (twConst lt le) (latchOf (ctx s) l).col), third]
          PCtx.empty)]))
    (u ≠ 1 → goes k3 ⟨0, 0⟩) ∧
    (u = 1 → ∀ k4 k5 ce, checkType s [] 3 ct.tw = .ok () → twLayout cw = twLayout dw → twFmt cw = twFmt dw →
      unify s k3 3 4 (extOf (twExt cw 0)) (extOf (twExt dw 0)) = .ok k4 → unify s k4 3 5 (extOf (twExt cw 1)) (extOf (twExt dw 1)) = .ok k5 →
      (bdOverlap ct.bd dt.bd = 0 ∨ ct.bd = dt.bd) → extsNeeded s k5 3 ct.tw = .ok ce → checkFit s 3 ct.tw ce ct.bd = .ok () →
      banksHeld s ct.bd = .ok () → goes k5 (capture ct ce))

/-- R198, R209-R213: MSYNC goes on with an empty queue and no waiting DATAERR, MSAVE and MRESUME enter the queue with a scratchpad tile that holds the
engine image, MPROBE answers how many commands wait and how many are away, and the opcode and counters of the one that runs. That MRESUME reads and
checks header and records at issue, through the writes still in flight, and that both act later, from the queue, is the model's choice (log 48), as
are the records' LAYOUT (log 14), the counters of lines (log 4), and which commands MPROBE shows: the core's own that are not away, without a recall
and without a stall for a window, as MSYNC (log 106). -/
def Obligations.MatrixEngineState : Prop :=
  ∀ (s : State) (t d : Nat),
    let x := ctx s
    let r := tileOf x t
    let now := landed s s.focus
    let bs := coreLoad now s.focus (bdOff r.bd) 0x1100
    let im := mOfImage bs
    let rs := im.cmds.flatMap mRanges
    let no : Opnd := ⟨0, 0⟩
    let queued := (x.mq.filter fun c => !c.started).length
    let gone := (x.mq.filter fun c => c.away.isSome).length
    let cells := match x.cells with | some l => 2 ^ 46 + l * 2 ^ 47 | none => 0
    let runs := x.mq.find? fun c => c.running && c.away.isNone
    (x.mq = [] → x.matErrs = [] → exec .msync s = .next (noted s [])) ∧
    (∀ e es, x.mq = [] → x.matErrs = e :: es → exec .msync s = .next (halted s (faultOf 14 e.pa))) ∧
    (x.mq ≠ [] → exec .msync s = .next (halted s (.stall .wait))) ∧
    (regFree s d = true →
      (runs = none → ∀ es, replyTo s d (queued * 2 ^ 59 + gone * 2 ^ 54 + cells) = .ok es → exec (.mprobe d) s = .next (noted s es)) ∧
      (∀ c es, runs = some c → c.rows < 2 ^ 15 → c.col < 2 ^ 15 → c.depth < 2 ^ 14 →
        replyTo s d (queued * 2 ^ 59 + gone * 2 ^ 54 + 2 ^ 53 + fld c.word 26 6 * 2 ^ 49 + cells + c.rows * 2 ^ 31 + c.col * 2 ^ 16 +
          c.depth * 4) = .ok es → exec (.mprobe d) s = .next (noted s es))) ∧
    (∀ e, mBefore s (tileRange r true) = .ok () → saveTile s 0 r = .ok e →
      exec (.msave t) s = .next (noted s [.mcmd (mCmd s (.msave t) [capture r e, no, no, no] PCtx.empty)])) ∧
    (∀ e, mBefore s (tileRange r false) = .ok () → x.mq = [] → saveTile s 1 r = .ok e →
      (viewOf s.focus ⟨r.tw, r.bd⟩).bad now 0 0x1100 = none → mImageBad s bs = none → noClash s rs = .ok () → touchRanges s rs = .ok () →
      (im.cmds.all fun c => c.ops.all fun o => passes (banksHeld s o.bd)) = true →
      exec (.mresume t) s = .next (noted s [.act (.mback im),
        .mcmd { mCmd s (.mresume t) [no, capture r e, no, no] PCtx.empty with num := 8192 }]))

/-! ### The copy slots -/

/-- R266, R270, R271: TLOAD and TSTORE enter their engine's queue where tile and window agree in rank, format, layout and scale (turned with the
transpose form), the extents unify from the origins on, the storage fits and is held, the window covers the span, and nothing is busy. -/
def Obligations.TileTransfersIssue : Prop :=
  ∀ (s : State) (t w c g tr red sc : Nat) (sig : Option Nat) (o : List Nat) (on : List Eff) (rb : List Byte) (fill : List Eff) (r : WinRec)
    (x : List Nat × Local) (e : List Nat),
    let reg := tileOf (ctx s) t
    let tw := reg.tw.toNat
    let va := (regVal s w).toNat
    regReady s w = true → regReady s c = true → kSig s g = .ok sig → kOrigins s c = .ok (o, on) → checkType s [] 0 reg.tw = .ok () →
    recRead s va = .ok (rb, fill) → recCheck s va 1 rb = .ok r → twRank tw = r.rank → twFmt tw = r.fmt → twScale tw = r.scale →
    (tr ≠ 1 → twLayout tw = r.layout ∨ (twLayout tw = 3 ∧ r.layout = 0)) →
    (tr = 1 → r.rank = 1 ∧ r.layout ≤ 1 ∧ (twLayout tw ≤ 1 ∨ twLayout tw = 3) ∧ r.scale = 0) →
    kExtents s r tw (tr == 1) o 4 = .ok x → extsNeeded s x.2 0 reg.tw = .ok e → checkFit s 0 reg.tw e reg.bd = .ok () →
    winCheck s va r o (if tr = 1 then swap01 e else e) = .ok () → banksHeld s reg.bd = .ok () →
    let exts := if tr = 1 then swap01 x.1 else x.1
    let rec' := recConst rb ((List.range 4).map fun k => if r.rank < k then 0 else exts.getD k 1)
    let goes (i : Instr) (src : Nat) : Prop := exec i s = .next (noted s (bindEffs x.2 ++ fill ++ on ++
      [.kcmd (kEngine s) { kCmd s i sig with tile := kOpnd reg e, orig := o, wrec := rec', src := src }]))
    (kBefore s (kRange reg true) [w, c, g] = .ok () → goes (.tload t w c g tr) va) ∧
    (kBefore s (kRange reg false) [w, c, g] = .ok () → (red = 0 ∨ kReduces (twFmt tw) (twScale tw) = true) →
      goes (.tstore t w c g red tr sc) 0)

/-- R272: TLOAD.IX, GATHER and SCATTER enter their queue for a rank-2 row window without scales, a row or accumulator tile of its format, and a rank-1
index tile of 16 or 32-bit integers, one index for each row. -/
def Obligations.IndexedTransfersIssue : Prop :=
  ∀ (s : State) (t w ix g red sc : Nat) (sig : Option Nat) (rb : List Byte) (fill : List Eff) (r : WinRec) (k1 k2 : Local)
    (e ie : List Nat) (e0 e1 : Nat),
    let reg := tileOf (ctx s) t
    let ireg := tileOf (ctx s) ix
    let tw := reg.tw.toNat
    let iw := ireg.tw.toNat
    let va := (regVal s w).toNat
    regReady s w = true → kSig s g = .ok sig → checkType s [] 0 reg.tw = .ok () → recRead s va = .ok (rb, fill) →
    recCheck s va 1 rb = .ok r → checkType s [] 2 ireg.tw = .ok () → r.rank = 1 → r.layout = 0 → r.scale = 0 → twRank tw = 1 →
    (twLayout tw = 0 ∨ twLayout tw = 3) → twRank iw = 0 → twLayout iw = 0 → (twFmt iw = 8 ∨ twFmt iw = 7) → twFmt tw = r.fmt →
    unify s [] 0 4 (extOf (twExt tw 0)) (extOf (twExt iw 0)) = .ok k1 → unify s k1 0 5 (extOf (twExt tw 1)) (r.extOf 1) = .ok k2 →
    extsNeeded s k2 0 reg.tw = .ok e → recExtNeeded s k2 1 r 0 = .ok e0 → recExtNeeded s k2 1 r 1 = .ok e1 →
    extsNeeded s k2 2 ireg.tw = .ok ie → checkFit s 0 reg.tw e reg.bd = .ok () → checkFit s 2 ireg.tw ie ireg.bd = .ok () →
    winCheck s va r [0, 0, 0, 0] [e0, e1, 1, 1] = .ok () → banksHeld s reg.bd = .ok () →
    let goes (i : Instr) : Prop := exec i s = .next (noted s (bindEffs k2 ++ fill ++
      [.kcmd (kEngine s) { kCmd s i sig with tile := kOpnd reg e, idx := kOpnd ireg ie, wrec := recConst rb [e0, e1, 0, 0] }]))
    (kBefore s (kRange reg true ++ kRange ireg false) [w, g] = .ok () → goes (.tloadIx t w ix g) ∧ goes (.gather t w ix g sc)) ∧
    (kBefore s (kRange reg false ++ kRange ireg false) [w, g] = .ok () → (red = 0 ∨ kReduces (twFmt tw) (twScale tw) = true) →
      goes (.scatter t w ix g red sc))

/-- R273-R276, R278, R279, R281: COPY, TSEND, TRECV, SIGNAL, the two prefetches, ROUTE and ROUTE.CLOSE enter their engine's queue with their operands
captured; DRAIN goes on once both engines are done and the earlier stores have performed at its scope, and orders what follows after them (log 101).
R277: KSAVE writes its engine's image over translated bytes once no acquire is pending and no access in flight meets them, and KRESUME fills an empty
engine, after the same wait, from an image that passes the check, its storage free; that KSAVE and KRESUME act whole at issue is the model's choice
(log 48). -/
def Obligations.CopyCommandsIssue : Prop :=
  (∀ (s : State) (t l w c g sc : Nat) (sig : Option Nat) (e : List Nat) (loc : Local),
    let reg := tileOf (ctx s) t
    let tw := reg.tw.toNat
    let va := (regVal s w).toNat
    let goes (pre : List Eff) (i : Instr) (f : KCmd → KCmd) : Prop :=
      exec i s = .next (noted s (pre ++ [.kcmd (kEngine s) (f (kCmd s i sig))]))
    kSig s g = .ok sig → regReady s w = true →
    (kBefore s [] [l, w, c, g] = .ok () → regReady s l = true → regReady s c = true → (regVal s l).toNat < 2 ^ 40 →
      goes [] (.copy l w c g sc) fun k => { k with value := (regVal s l).toNat, dst := va, src := (regVal s c).toNat }) ∧
    (kBefore s (kRange reg false) [w, g] = .ok () → va % 64 = 0 → checkType s [] 0 reg.tw = .ok () → extsNeeded s [] 0 reg.tw = .ok e →
      checkFit s 0 reg.tw e reg.bd = .ok () → banksHeld s reg.bd = .ok () →
      goes [] (.tsend t w g sc) fun k => { k with tile := kOpnd reg e, dst := va }) ∧
    (∀ bs, kBefore s (kRange reg true) [w, g] = .ok () → va % 64 = 0 → loadV s va 64 = .ok bs → mailboxBad bs = none →
      let ty := BitVec.ofNat 128 (bytesNat ((bs.drop 0x10).take 16))
      checkType s [] 0 reg.tw = .ok () → checkType s [] 1 ty = .ok () → twRank tw = twRank ty.toNat → twFmt tw = twFmt ty.toNat →
      twLayout tw = twLayout ty.toNat → twScale tw = twScale ty.toNat → unifyExts s 0 tw (fun k => extOf (twExt ty.toNat k)) 4 [] = .ok loc →
      extsNeeded s loc 0 reg.tw = .ok e → checkFit s 0 reg.tw e reg.bd = .ok () → banksHeld s reg.bd = .ok () →
      goes (bindEffs loc ++ readNotes s va 64) (.trecv t w g) fun k => { k with tile := kOpnd reg e, dst := va }) ∧
    (kBefore s [] [w, g] = .ok () → goes [] (.signal w g sc) fun k => { k with value := va }) ∧
    (kBefore s [] [w, c, g] = .ok () → regReady s c = true → va % 8192 = 0 →
      let f (k : KCmd) : KCmd := { k with value := (regVal s c).toNat % 8192 + 1, dst := va, src := (regVal s c).toNat }
      goes [] (.prefetchUp w c g) f ∧ goes [] (.prefetchDn w c g) f) ∧
    (∀ a bs ns, routeRecord s w = .ok (a, bs, ns) →
      (kBefore s [] [w, g] = .ok () → goes ns (.routeClose w g) fun k => { k with dst := a, wrec := bs }) ∧
      (kBefore s (kRange reg false) [w, g] = .ok () → checkType s [] 0 reg.tw = .ok () → twRank tw = 1 →
        (twFmt tw = 0x12 ∨ twFmt tw = 0x0F) → twLayout tw = 0 → twScale tw = 0 →
        unify s [] 0 5 (extOf (twExt tw 1)) (.const (routeE bs)) = .ok loc → extsNeeded s loc 0 reg.tw = .ok e →
        checkFit s 0 reg.tw e reg.bd = .ok () →
        goes (ns ++ bindEffs loc) (.route t w g) fun k => { k with tile := kOpnd reg e, dst := a, wrec := bs })) ∧
    (engineFault (ctx s) 0 = none → engineFault (ctx s) 1 = none →
      exec (.drain sc) s = .next (if (ctx s).kq0 = [] ∧ (ctx s).kq1 = [] ∧ storesDone s s.focus sc = true
        then noted s [.act (.observe (min (sc + 1) 3))] else halted s (.stall .wait)))) ∧
  (∀ (s : State) (w : Nat), let va := (regVal s w).toNat
    regReady s w = true → va % 64 = 0 →
    (∀ ps, xlateSpan s s.focus (ctx s).mode (rootPa (ctx s).droot) va 4160 false true = .ok ps →
      postedLeft (cur s) (kEngine s) 3 (fun _ => true) = false →
      imageWaits s va true = false →
      let met := issueNotes s va 4160 false true
      exec (.ksave w) s = .next (noted s ((if met = [] then [] else [.act (.met met)]) ++ [.act (.ksave (kEngine s) ps)]))) ∧
    (∀ bs, kQueue (ctx s) (kEngine s) = [] → imageWaits s va false = false → loadV s va 4160 = .ok bs → kImageBad s bs = none →
      let cs := (List.range (bytesNat ((bs.drop 8).take 4))).map fun i => kOfRecord s bs (0x40 + 256 * i)
      noClash s (cs.flatMap kRanges) = .ok () → touchRanges s (cs.flatMap kRanges) = .ok () →
      (cs.all fun c => passes (banksHeld s c.tile.bd)) = true →
      exec (.kresume w) s = .next (noted s (readNotes s va 4160 ++ [.act (.kresume (kEngine s) cs)]))))

/-- R286-R288, R292: the pit commands enter their engine's queue with a record that passes its field checks, the compute forms with a tile of their
format and row length; PIT.FENCE needs neither. None of them enters a queue of sixteen. -/
def Obligations.PitCommandsIssue : Prop :=
  ∀ (s : State) (t w g : Nat) (sig : Option Nat) (bs : List Byte) (ns : List Eff) (op : Opnd) (loc : Local),
    let reg := tileOf (ctx s) t
    let goes (pre : List Eff) (i : Instr) (o : Opnd) : Prop :=
      exec i s = .next (noted s (pre ++ [.kcmd (kEngine s) { kCmd s i sig with tile := o, wrec := bs ++ natBytes 64 0 }]))
    kSig s g = .ok sig →
    (kBefore s (kRange reg false) [w, g] = .ok () →
      (pitRecord s w (fun _ => fieldsScaleadd) = .ok (bs, ns) → pitTile s t 0x12 256 (some (bytesNat (bs.take 4))) = .ok (op, loc) →
        goes (ns ++ bindEffs loc) (.pitScaleadd t w g) op) ∧
      (pitRecord s w (fun _ => fieldsAtomadd) = .ok (bs, ns) → pitTile s t 8 2 none = .ok (op, loc) → goes (ns ++ bindEffs loc) (.pitAtomadd t w g) op) ∧
      (pitRecord s w (fun _ => [fieldEngine]) = .ok (bs, ns) → pitTile s t 8 4 none = .ok (op, loc) → goes (ns ++ bindEffs loc) (.pitXload t w g) op)) ∧
    (kBefore s (kRange reg true) [w, g] = .ok () → pitRecord s w fieldsAttn = .ok (bs, ns) → pitTile s t 0x12 128 (some 2) = .ok (op, loc) →
      goes (ns ++ bindEffs loc) (.pitAttn t w g) op) ∧
    (kBefore s [] [w, g] = .ok () → pitRecord s w (fun _ => fieldsLock) = .ok (bs, ns) →
      goes ns (.pitXlock w g) ⟨0, 0⟩ ∧ goes ns (.pitXunlock w g) ⟨0, 0⟩) ∧
    (kBefore s [] [g] = .ok () → exec (.pitFence g) s = .next (noted s [.kcmd (kEngine s) (kCmd s (.pitFence g) sig)])) ∧
    (∀ (i : Instr) (es : List Eff),
      i ∈ [.pitScaleadd t w g, .pitAtomadd t w g, .pitAttn t w g, .pitXload t w g, .pitXlock w g, .pitXunlock w g, .pitFence g] →
      exec i s = .next (noted s es) → (kQueue (ctx s) (kEngine s)).length < 16)

/-! ### Tile registers, dimension variables, accumulators and ports -/

/-- R138, R139, R150-R152, R154-R159: the tile register instructions write a type, a binding or both at the boundary, once their checks pass. -/
def Obligations.TileRegisterInstructions : Prop :=
  ∀ (s : State) (t a b f : Nat) (tw : BitVec 128),
    let x := ctx s
    let r := tileOf x t
    let q := tileOf x a
    let w := q.tw.toNat
    let va := (regVal s a).toNat
    (regReady s a = true → tileFree s t = .ok () → touchBd s r.bd false = .ok () →
      (readType s va = .ok tw → checkType s [] 2 tw = .ok () →
        (∀ e, extsKnown s [] tw.toNat = some e → bdSpace r.bd ≠ 0 → checkFit s 0 tw e r.bd = .ok ()) → banksHeld s r.bd = .ok () →
        exec (.tdef t a) s = .next (noted s (readNotes s va 16 ++ [tileEff t (some tw) none]))) ∧
      (checkBinding (regVal s a) = .ok () →
        (∀ e, r.tw ≠ 0#128 → extsKnown s [] r.tw.toNat = some e → checkFit s 0 r.tw e (regVal s a) = .ok ()) →
        exec (.tbind t a) s = .next (noted s [tileEff t none (some (regVal s a))]))) ∧
    (regReady s a = true → va % 32 = 0 → banksHeld s r.bd = .ok () → ∀ es, storeV s va (natBytes 32 (r.tw.toNat + r.bd.toNat * 2 ^ 128)) = .ok es →
      exec (.ttype t a) s = .next (noted s es)) ∧
    (regReady s a = true → checkType s [] 0 r.tw = .ok () → ∀ rb fill k loc, recRead s va = .ok (rb, fill) → recCheck s va 2 rb = .ok k →
      twRank r.tw.toNat = k.rank → twFmt r.tw.toNat = k.fmt → twLayout r.tw.toNat = k.layout → twScale r.tw.toNat = k.scale →
      unifyRec s r.tw.toNat k 4 [] = .ok loc → (∀ e, extsKnown s loc r.tw.toNat = some e → checkFit s 0 r.tw e r.bd = .ok ()) →
      banksHeld s r.bd = .ok () → exec (.tcheck t a) s = .next (noted s (fill ++ bindEffs loc))) ∧
    (tileFree s t = .ok () → touchBd s q.bd false = .ok () → checkType s [] 1 q.tw = .ok () →
      (let nw := twMake 1 (twFmt w) (1 - twLayout w) (twScale w) [twExt w 1, twExt w 0, twExt w 2, twExt w 3]
       twRank w = 1 → twLayout w ≤ 1 → scBand (twScale w) = false →
        (∀ e, extsKnown s [] nw.toNat = some e → checkFit s 0 nw e q.bd = .ok ()) → banksHeld s q.bd = .ok () →
        exec (.ttranspose t a) s = .next (noted s [tileEff t (some nw) (some q.bd)])) ∧
      (let nw := twMake (twRank w) f (twLayout w) (twScale w) [twExt w 0, twExt w 1, twExt w 2, twExt w 3]
       fmtKnown f = true → fmtWidth f = fmtWidth (twFmt w) → checkType s [] 0 nw = .ok () →
        (∀ e, extsKnown s [] nw.toNat = some e → checkFit s 0 nw e q.bd = .ok ()) → banksHeld s q.bd = .ok () →
        exec (.tcast t a f) s = .next (noted s [tileEff t (some nw) (some q.bd)])) ∧
      (regReady s b = true → ∀ se loc ne, extsNeeded s [] 1 q.tw = .ok se → readType s (regVal s b).toNat = .ok tw →
        checkType s [] 2 tw = .ok () → twLayout w ≤ 1 → twLayout tw.toNat = twLayout w → twFmt tw.toNat = twFmt w →
        twScale tw.toNat = twScale w → reshapeBind s (se.foldl (· * ·) 1) tw.toNat = .ok loc → extsNeeded s loc 2 tw = .ok ne →
        ne.foldl (· * ·) 1 = se.foldl (· * ·) 1 →
        (scBlock (twScale w) = 0 ∨ (scRun (twLayout w) se % scBlock (twScale w) = 0 ∧ scRun (twLayout w) ne % scBlock (twScale w) = 0)) →
        (scBand (twScale w) = true → ∀ k, k < 4 → se.getD k 1 = ne.getD k 1) → checkFit s 0 tw ne q.bd = .ok () → banksHeld s q.bd = .ok () →
        exec (.treshape t a b) s = .next (noted s (readNotes s (regVal s b).toNat 16 ++ bindEffs loc ++ [tileEff t (some (twConst tw ne)) (some q.bd)]))))

/-- R142, R148, R149, R160-R163: the dimension-variable instructions. DV.SET binds a value from 1 to the bound, DV.GET answers the value or 0,
DV.CLEAR makes the variable unbound and leaves its bound as it is, DV.BOUND takes a bound from 1 to 32,767 that the value, also one that a lower slot
of the bundle binds, does not pass; a value out of range is a SHAPE fault that names the variable. That its SHAPEINFO says operand 0 is a reading of
the spec (log 26). -/
def Obligations.DimensionVariables : Prop :=
  ∀ (s : State) (d n b : Nat),
    let dm := dimOf (ctx s) n
    let v := (regVal s b).toNat
    let shape (exp act : Nat) : Stop := .fault ⟨6, BitVec.ofNat 64 s.issue.slot, some (shapeWord s.issue.slot 0 8 exp act (some n))⟩
    (regFree s d = true → exec (.dvGet d n) s = .next (noted s [landS 1 d (BitVec.ofNat 64 (dm.val.getD 0)) 0])) ∧
    exec (.dvClear n) s = .next (noted s [.land 1 (some (.dim n none)) none 0]) ∧
    (∀ core, dimOf (coreOf (applyUpd s core (.dim n none)) core).ctx n = { dimOf (coreOf s core).ctx n with val := none }) ∧
    (regReady s b = true →
      (1 ≤ v → v ≤ dm.limit → exec (.dvSet n b) s = .next (noted s [.land 1 (some (.dim n (some v))) none 0])) ∧
      (v = 0 ∨ dm.limit < v → exec (.dvSet n b) s = .next (halted s (shape dm.limit v))) ∧
      (1 ≤ v → v ≤ 32767 → (∀ y, dm.val.or (tentOf s n) = some y → y ≤ v) →
        exec (.dvBound n b) s = .next (noted s [.land 1 (some (.dimLimit n v)) none 0])) ∧
      (v = 0 ∨ 32767 < v → exec (.dvBound n b) s = .next (halted s (shape 32767 v))) ∧
      (∀ y, 1 ≤ v → v ≤ 32767 → dm.val.or (tentOf s n) = some y → v < y → exec (.dvBound n b) s = .next (halted s (shape v y))))

/-- R164-R166, R169, R174, R175, R264: ACC.ALLOC answers the lowest run of free banks or one of three statuses, ACC.FREE gives back held banks,
ACC.WIN sets a window over twelve held banks, PORT.SET and PORT.RESET set a port, WFENCE waits for every earlier store, a copy engine's among them but
no failed command's (R268), and acquire. -/
def Obligations.AccumulatorAndPorts : Prop :=
  ∀ (s : State) (d a b f p : Nat),
    let x := ctx s
    let n := (regVal s a).toNat
    let m := (regVal s b).toNat
    let free (i : Nat) : Prop := i + n ≤ 256 ∧ ∀ k, k < n → bankTaken (cur s) (i + k) = false
    let out (es : List Eff) (v : Word) : Prop := exec (.accAlloc d a) s = .next (noted s (es ++ [landS 1 d v 0]))
    (regReady s a = true → regFree s d = true →
      (n = 0 ∨ 256 < n → out [] (BitVec.ofInt 64 (-3))) ∧
      (1 ≤ n → n ≤ 256 → declBanks x.decl < heldCount x + n → out [] (BitVec.ofInt 64 (-2))) ∧
      (1 ≤ n → n ≤ 256 → heldCount x + n ≤ declBanks x.decl →
        ((∀ i, ¬ free i) → out [] (BitVec.ofInt 64 (-1))) ∧
        (∀ i, free i → (∀ j, j < i → ¬ free j) → out [.land 1 (some (.accAlloc i n)) none 0] (BitVec.ofNat 64 i)))) ∧
    (regReady s a = true → regReady s b = true → 1 ≤ m → n + m ≤ 256 → (∀ k, k < m → holdsBank x (n + k) = true) →
      touchRange s (0x200000 + 2048 * n) (2048 * m) true = .ok () →
      exec (.accFree a b) s = .next (noted s [.land 1 (some (.accFree n m)) none 0])) ∧
    (regReady s a = true → n % 4 = 0 → n + 48 ≤ 1024 → (∀ k, k < 12 → holdsBank x (n / 4 + k) = true) →
      exec (.accWin a f) s = .next (noted s [.land 1 (some (.accWin n f)) none 0])) ∧
    (∀ bs, regReady s a = true → n % 64 = 0 → loadV s n 64 = .ok bs →
      let q (o k : Nat) : Nat := bytesNat ((bs.drop o).take k)
      portBad q = none → 0 ≤ (portReach (portOfRecord q)).1 → (portReach (portOfRecord q)).2 + 512 ≤ 2 ^ 21 →
      exec (.portSet a p) s = .next (noted s (readNotes s n 64 ++ [.land 1 (some (.port p (portOfRecord q))) none 0]))) ∧
    exec (.portReset p) s = .next (noted s [.land 1 (some (.port p Port.unset)) none 0]) ∧
    (storesDone s s.focus 1 = true → acquirePending (cur s) = false → (x.kq0 ++ x.kq1).any kWrites = false →
      exec .wfence s = .next (noted s [.act .windowFence]))

/-! ### Patterns and the token tree -/

/-- R229-R239: a program load, the two starts with their counting pass, the next members, the next block, and the image of a context. A start goes on,
or finds the set not invertible, once its bundle has stalled a cycle for each word of the walk, a restore of a started context once it has stalled
through walk and count (the longest count: log 40). -/
def Obligations.PatternInstructions : Prop :=
  ∀ (s : State) (d c b : Nat), pgFree s c = .ok () →
    let x := ctx s
    let p := pctxOf x c
    let v := (regVal s b).toNat
    let a := fld v 0 53
    let dest := fld v 53 8
    (∀ hd ps ws n, regReady s b = true → fld v 61 3 = 0 → a % 4 = 0 → loadV s a 4 = .ok hd → n = bytesNat hd → 1 ≤ n → n < 512 →
      dest + n ≤ 256 → ((pgCaptures x).any fun k => spanMeets k dest n) = false → loadWords s (a + 0x14) n = .ok ws →
      loadWords s (a + 4) 4 = .ok ps →
      let gone := (List.range 4).filter fun h => h != c && (pctxOf x h).state == 2 && spanMeets (pctxOf x h) dest n
      exec (.pgLoad c b) s = .next (noted s (readNotes s a (0x14 + 4 * n) ++ .land 1 (some (.pgMem dest ws)) none 0 ::
        gone.map (pgEff · PCtx.empty) ++ [pgEff c { PCtx.empty with state := 1, pc := dest, pars := ps }]))) ∧
    (∀ k i, p.state ≠ 0 → walkProgram ⟨x.pgMem, p.pars, declProfile x.decl⟩ p.pc = .ok (k, i) →
      let started (order : Nat) : PCtx := { p with state := 2, order := order, total := 0, outcur := 0, blkMajor := 0, blkMinor := 0,
                                                   spanLo := i.lo, spanHi := i.hi, counting := true }
      (i.n ≤ x.spent → exec (.pgStartFwd c) s = .next (noted s [pgEff c (started 0)]) ∧
        (i.hash = none → exec (.pgStartTr c) s = .next (noted s [pgEff c (started 1)])) ∧
        (∀ h, i.hash = some h → exec (.pgStartTr c) s = .next (halted s (faultOf 10 h)))) ∧
      (x.spent < i.n → exec (.pgStartFwd c) s = .next (halted s (.stall .wait)) ∧ exec (.pgStartTr c) s = .next (halted s (.stall .wait)))) ∧
    (∀ r, p.counting = false → vecStall s d 0 true = .ok () → vecRow s d = .ok r →
      let n := min 128 (pctxLeft p)
      let ms := if n = 0 then [] else pctxTake x.pgMem p n
      let lanes := (List.range 128).map fun i => match ms[i]? with | some m => m.1 * 2 ^ 16 + m.2 | none => 0xFFFFFFFF
      exec (.pgNext d c) s = .next (noted s [.land 2 (some (.row r (laneRow 8 lanes) (some 8))) none 0,
        pgEff c { p with outcur := p.outcur + n }])) ∧
    (p.counting = false →
      ((∀ k, (p.state = 2 ∧ pctxSet x.pgMem p = some k) → blockFind k p.order 513 p.blkMajor p.blkMinor = none) →
        ∀ es, replyTo s d (2 ^ 64 - 1) = .ok es → exec (.pgNextblk d c) s = .next (noted s es)) ∧
      (∀ k bp bq m es, p.state = 2 → pctxSet x.pgMem p = some k → blockFind k p.order 513 p.blkMajor p.blkMinor = some (bp, bq, m) →
        replyTo s d (m * 2 ^ 32 + bp * 2 ^ 16 + bq) = .ok es →
        let nx := if bq + 1 = (k.minors p.order + 127) / 128 then (bp + 1, 0) else (bp, bq + 1)
        exec (.pgNextblk d c) s = .next (noted s (es ++ [pgEff c { p with blkMajor := nx.1, blkMinor := nx.2 }])))) ∧
    (∀ es, regReady s b = true → p.counting = false → v % 64 = 0 → storeV s v (pctxImage x.pgMem p) = .ok es →
      exec (.pgSave c b) s = .next (noted s es)) ∧
    (∀ bs, regReady s b = true → v % 64 = 0 → loadV s v 64 = .ok bs →
      let q (o n : Nat) : Nat := bytesNat ((bs.drop o).take n)
      let im := pctxOfImage bs
      im.state ≠ 3 → fld (q 0 4) 3 1 = 0 → fld (q 0 4) 12 20 = 0 →
      (∀ r, im.state = 2 → pgWalk s im im.order = .ok r → imageBad x.pgMem bs r.1 r.2 = none →
        r.2.n + countTime r.1 im.order ≤ x.spent → exec (.pgRestore c b) s = .next (noted s (readNotes s v 64 ++ [pgEff c im]))) ∧
      (im.state ≠ 2 → fld (q 0 4) 2 1 = 0 → (∀ o ∈ [4, 8, 0x0C, 0x20, 0x24, 0x28, 0x2C, 0x30], q o 4 = 0) → q 0x34 12 = 0 →
        exec (.pgRestore c b) s = .next (noted s (readNotes s v 64 ++ [pgEff c im]))))

/-- R243-R255: the token tree. A root or a child is added with its position one past its parent's, masks are the ancestors of a node, pruning keeps
the path to a node, the map is read as a row (R251), and an image of the file is saved and loaded. That a prune and a load stall their cycles after
the effect is the model's choice (log 40, with R255). -/
def Obligations.TreeInstructions : Prop :=
  ∀ (s : State) (d a b n r r' : Nat) (nd : Node),
    let t := (ctx s).tree
    let va := (regVal s a).toNat
    let row (fmt : Nat) (codes : List Nat) (k : Nat) : Eff := .land 2 (some (.row k (laneRow fmt codes) (some fmt))) none 0
    let bit (i : Nat) : Bool := (treeMask t n).testBit i
    let place (k q : Nat) : Prop := vecStall s k 0 true = .ok () ∧ vecRow s k = .ok q
    (exec .treeClear s = .next (noted s [treeEff ⟨[], []⟩])) ∧
    (regReady s a = true → regReady s b = true → va < 2 ^ 24 →
      exec (.treeRoot a b) s = .next (noted s [treeEff ⟨[⟨0xFF, 0, va, (regVal s b).toNat % 2 ^ 32⟩], []⟩])) ∧
    (t.nodes[n]? = some nd →
      (regReady s a = true → regFree s d = true → t.nodes.length ≠ 256 → nd.pos + 1 < 2 ^ 24 →
        exec (.treeAdd d a n) s = .next (noted s
          [treeEff { t with nodes := t.nodes ++ [⟨n, nd.depth + 1, nd.pos + 1, va % 2 ^ 32⟩] },
           landS 1 d (BitVec.ofNat 64 t.nodes.length) 0])) ∧
      (place d r → place (d + 1) r' → exec (.treeMaskF32 d n) s = .next (noted s
        [row 0x12 ((List.range 128).map fun i => if bit i then 0 else 0xFF800000) r,
         row 0x12 ((List.range 128).map fun i => if bit (128 + i) then 0 else 0xFF800000) r'])) ∧
      (place d r → exec (.treeMaskBf16 d n) s = .next (noted s
        [row 0x0F ((List.range 256).map fun i => if bit i then 0 else 0xFF80) r])) ∧
      (exec (.treeMaskk d n) s = .next (noted s [.land 2 (some (.kmask d (BitVec.ofNat 512 (treeMask t n)) 256)) none 0])) ∧
      (exec (.treePrune n) s = .next (noted s [treeEff (treePrune t n), treeSpend (treePrune t n)]))) ∧
    (place d r →
      (exec (.treePosLo d) s = .next (noted s [row 8 ((List.range 128).map fun i => ((t.nodes[i]?).map (·.pos)).getD 0) r])) ∧
      (exec (.treePosHi d) s = .next (noted s [row 8 ((List.range 128).map fun i => ((t.nodes[128 + i]?).map (·.pos)).getD 0) r])) ∧
      (exec (.treeMap d) s = .next (noted s [row 7 ((List.range 256).map fun i => t.map.getD i 0xFFFF) r]))) ∧
    (regReady s a = true → va % 64 = 0 →
      (∀ es, storeV s va (treeImage t) = .ok es → exec (.treeSave a) s = .next (noted s es)) ∧
      (∀ bs, loadV s va 0x1140 = .ok bs → treeImageBad bs = none →
        exec (.treeLoad a) s = .next (noted s (treeEff (treeOfImage bs) :: treeSpend (treeOfImage bs) :: readNotes s va 0x1140))))

/-! ### What goes on beside the slots -/

/-- R54, R98, R99, R335: a scalar access that may perform leaves the pipe. A load or an atomic delivers what the bytes held, a store changes its own
bytes of memory and no other, a copy engine's write those of its span that it does not leave out; one that may not stays; an uncorrectable error
leaves register and bytes alone and waits. An acquire also notes which accesses in flight it comes after (R338; log 101), and changes nothing else of
another core. In a core's scratchpad window an access reads and writes that scratchpad, and in a disabled core's it reads 0, writes nothing and is
logged (R9, R258); in the control range it reads and writes the register that answers, and elsewhere there reads 0 or is discarded and logged (R360,
R375). A load that a curtain left in flight gives its value to the saved context and to that one's image (R54, R363). Where the spec gives no finer
order, an access performs in one move (log 2). -/
def Obligations.ScalarAccessesPerform : Prop :=
  ∀ (s : State) (core idx : Nat) (a : Access), core < 512 → (coreOf s core).pend[idx]? = some a →
    let bare (c : Core) : Core := { c with pend := c.pend.map fun b => { b with seen := [] } }
    let gone (t : State) : Prop := (bare (coreOf t core)).pend = (bare (coreOf s core)).pend.eraseIdx idx ∧
      (a.acq = false → (coreOf t core).pend = (coreOf s core).pend.eraseIdx idx)
    let reg (t : State) (v : Word) : Prop := ∀ n, sregOf (coreOf t core).ctx n = if n = a.dst ∧ n ≠ 0 then v else sregOf (coreOf s core).ctx n
    let bytes (t : State) (v : Nat) : Prop := ∀ x, memGet t.mem x =
      if a.pa ≤ x ∧ x < a.pa + a.size then (natBytes a.size v).getD (x - a.pa) 0 else memGet s.mem x
    (mayGo s core 3 idx = false → exec (.scalarAccessComplete core idx) s = .next s) ∧
    (mayGo s core 3 idx = true → a.home = none → isStore a.pa = true →
      let reads : Prop := a.kind = .load ∨ ∃ f, a.kind = .amo f
      ∃ t, exec (.scalarAccessComplete core idx) s = .next t ∧ gone t ∧ t.pits = s.pits ∧
        (¬ (reads ∧ isBad s a.pa a.size = true ∧ a.dst = 0) →
          ∀ n, n ≠ core → bare (coreOf t n) = bare (coreOf s n) ∧ (a.acq = false → coreOf t n = coreOf s n)) ∧
        (¬ (reads ∧ isBad s a.pa a.size = true) →
          { t.house with admission := s.house.admission, waived := s.house.waived } = s.house) ∧
        (a.kind = .load → isBad s a.pa a.size = false → reg t (BitVec.ofNat 64 (physNat s a.pa a.size)) ∧ t.mem = s.mem) ∧
        (a.kind = .store → reg t 0 ∧ bytes t a.data) ∧
        (a.kind = .block ∨ (∃ e, a.kind = .posted e) → reg t 0 ∧ ((∀ p ∈ a.parts, isStore p.1 = true) → ∀ y, memGet t.mem y =
          if a.pa ≤ y ∧ y < a.pa + a.size ∧ a.hole.testBit (y - a.pa) = false then (natBytes a.size a.data).getD (y - a.pa) 0
          else memGet s.mem y)) ∧
        (∀ f, a.kind = .amo f → isBad s a.pa a.size = false → reg t (BitVec.ofNat 64 (physNat s a.pa a.size)) ∧
          bytes t (amoNew f a.size (physNat s a.pa a.size) a.data a.swap)) ∧
        (a.kind = .reply → a.dst ≠ 0 → reg t (BitVec.ofNat 64 a.data) ∧ t.mem = s.mem) ∧
        (reads → isBad s a.pa a.size = true → a.dst ≠ 0 →
          reg t (sregOf (coreOf s core).ctx a.dst) ∧ t.mem = s.mem ∧
          (coreOf t core).ctx.regErrs = (coreOf s core).ctx.regErrs ++ [⟨a.dst, a.va⟩])) ∧
    (mayGo s core 3 idx = true → a.home = none → isWindow a.pa = true → windowOff a.pa < 0x200000 → 0 < a.size → a.pa % 64 + a.size ≤ 64 →
      a.hole = 0 →
      let owner := windowCore a.pa
      let off := windowOff a.pa
      let logged (t : State) (w : Nat) : Prop := t.house.log = s.house.log ++ [⟨.disabledCore, owner, off, w, 0⟩]
      let stored (t : State) (v : Nat) : Prop := t.mem = s.mem ∧ ∀ n y, memGet (coreOf t n).spad y =
        if n = owner ∧ off ≤ y ∧ y < off + a.size then (natBytes a.size v).getD (y - off) 0 else memGet (coreOf s n).spad y
      let kept (t : State) : Prop := t.mem = s.mem ∧ ∀ n, (coreOf t n).spad = (coreOf s n).spad
      ∃ t, exec (.scalarAccessComplete core idx) s = .next t ∧ gone t ∧
        (a.kind = .load → isBad s a.pa a.size = false → reg t (BitVec.ofNat 64 (physNat s a.pa a.size)) ∧ kept t ∧
          (enabled s owner = false → physNat s a.pa a.size = 0 ∧ logged t 1)) ∧
        (a.kind = .store → reg t 0 ∧ (enabled s owner = true → stored t a.data) ∧ (enabled s owner = false → kept t ∧ logged t 0)) ∧
        (∀ f, a.kind = .amo f → isBad s a.pa a.size = false → enabled s owner = true → reg t (BitVec.ofNat 64 (physNat s a.pa a.size)) ∧
          stored t (amoNew f a.size (physNat s a.pa a.size) a.data a.swap))) ∧
    (mayGo s core 3 idx = true → a.home = none → isControl a.pa = true → a.size ≤ 8 →
      let off := a.pa - controlBase
      ∃ t, exec (.scalarAccessComplete core idx) s = .next t ∧ gone t ∧ (∀ n, (coreOf t n).spad = (coreOf s n).spad) ∧
        (a.kind = .load → isBad s a.pa a.size = false → t.mem = s.mem ∧
          (controlHit a.pa a.size = true → reg t (BitVec.ofNat 64 (bar0Read s off)) ∧ t.house = s.house ∧ t.dies = s.dies) ∧
          (controlHit a.pa a.size = false → reg t 0 ∧ t.dies = s.dies ∧ t.house.log = s.house.log ++ [⟨.unmapped, a.pa, 0, 1, 0⟩])) ∧
        (a.kind = .store → reg t 0 ∧
          (controlHit a.pa a.size = true → t.mem = (bar0Write s off a.data).mem ∧ t.house = (bar0Write s off a.data).house ∧
            t.dies = (bar0Write s off a.data).dies) ∧
          (controlHit a.pa a.size = false → t.mem = s.mem ∧ t.dies = s.dies ∧
            t.house.log = s.house.log ++ [⟨.unmapped, a.pa, 0, 0, 0⟩]))) ∧
    (∀ k, mayGo s core 3 idx = true → a.home = some k → a.kind = .load → isStore a.pa = true → isBad s a.pa a.size = false →
      let v := physNat s a.pa a.size
      let y := mget Ctxt.start k (coreOf s core).saved
      ∃ t, exec (.scalarAccessComplete core idx) s = .next t ∧ gone t ∧ (coreOf t core).ctx.sregs = (coreOf s core).ctx.sregs ∧
        (∀ n, sregOf (mget Ctxt.start k (coreOf t core).saved) n = if n = a.dst ∧ n ≠ 0 then BitVec.ofNat 64 v else sregOf y n) ∧
        (∀ j, j ≠ k → mget Ctxt.start j (coreOf t core).saved = mget Ctxt.start j (coreOf s core).saved) ∧
        (y.saveBase = none ∨ a.dst = 0 → t.mem = s.mem) ∧
        (∀ b, y.saveBase = some b → a.dst ≠ 0 → isStore (b + 0x100 + 8 * a.dst) = true →
          let at' := b + 0x100 + 8 * a.dst
          ∀ p, memGet t.mem p = if at' ≤ p ∧ p < at' + 8 then (natBytes 8 (v % 2 ^ 64)).getD (p - at') 0 else memGet s.mem p))

/-- R43, R44, R81-R83, R85, R214-R217, R230, R265-R268, R287-R298, R325, R331, R345: the events of a core, its engines and the pit engines answer a
next state for every core and pit engine that exists, and what that state is: a finished matrix command leaves its queue, a migrated one stands on a
neighbour that takes it, a window of duet mode unloads the cells, a dispatched pit command leaves its engine for the queues of its parts, and the
completion word follows the last part. A row of MLATCH and of MMA, and a unit of COPY, TLOAD and TSTORE, writes the elements or bytes that the rules
give and no others of its operand; what runs to an end is such rows and units. An MSAVE or MRESUME that stands alone is served (log 48). Which rows a
halt or a suspension leaves done is free (log 4), and a command that starts may fill a bad granule of its array's own SRAM (logs 3, 97). The moment at
which each event takes place is the agenda's (log 2). -/
def Obligations.EngineEventsComplete : Prop :=
  ∀ (s : State) (core eng pit ens g job idx : Nat),
    let c := coreOf s core
    let x := c.ctx
    let put (x' : Ctxt) : State := setCoreOf s core { c with ctx := x' }
    (core < 512 →
      exec (.resultLand core) s = .next (if drains c = true ∧ x.inflight ≠ [] then pipeStep s core else s) ∧
      (∀ n, x.nopre = some n → exec (.nopreTimeout core) s =
        .next (put (if Config.nopreLimit ≤ n then { x with nopre := none, sticky := stickySet x.sticky flagNopreOver } else x))) ∧
      (x.nopre = none → exec (.nopreTimeout core) s = .next (put x)) ∧
      (∀ w, c.status = .running → c.debugStop = false → x.resumeErr = some w →
        exec (.trapEntry core) s = .next (trapOn (put { x with resumeErr := none }) core x.pc ⟨14, w, none⟩)) ∧
      (∀ t ts, c.status = .running → c.debugStop = false → x.resumeErr = none → x.draining = none → live x = false → x.pitTraps = t :: ts →
        exec (.trapEntry core) s = .next (trapOn (put { x with pitTraps := ts }) core x.pc ⟨t.code, t.info, none⟩)) ∧
      (c.status ≠ .running ∨ c.debugStop = true ∨ (x.resumeErr = none ∧ (x.draining ≠ none ∨ live x = true ∨ x.pitTraps = [])) →
        exec (.trapEntry core) s = .next s) ∧
      exec (.waitaRetest core) s = .next { s with agenda := .core core :: s.agenda } ∧
      (keysRise c.marks = true → ∃ t, exec (.ensembleCountNotice core ens) s = .next t ∧ t.house = s.house ∧
        ∀ m, let k := markOf c m
          markOf (coreOf t core) m = if k.bound = true ∧ k.inited = true ∧ k.expect = ens ∧ ensCount s ens ≤ k.arrived
            then { k with arrived := 0, gen := (k.gen + 1) % 65536 } else k) ∧
      ((pctxOf x g).counting = false → exec (.countPassEnd core g) s = .next s) ∧
      ((pctxOf x g).counting = true → ∃ t, exec (.countPassEnd core g) s = .next t ∧
        (pctxOf (coreOf t core).ctx g).counting = false ∧
        ∀ k, pctxSet x.pgMem (pctxOf x g) = some k → (pctxOf (coreOf t core).ctx g).total = (k.members (pctxOf x g).order).length) ∧
      (mNext s core = none → exec (.mCommandStart core) s = .next s) ∧
      (∀ i m, mNext s core = some i → x.mq[i]? = some m → exec (.mCommandStart core) s =
        .next (setCtxOf (sramFill s (arrayOf s core).1 0) core { x with mq := x.mq.set i { m with started := true, running := true }
                                                                        cells := if fld m.word 26 6 = 3 then some (fld m.word 14 2) else x.cells })) ∧
      exec (.mCommandComplete core) s = .next (mComplete s core) ∧ exec (.migration core) s = .next (mMigrate s core) ∧
      exec (.recall core) s = .next (mRecall s core) ∧ exec (.duetWindowSwitch core) s = .next (duetTick s core) ∧
      (c.foreign = none → mRecall s core = s ∧ (mServes s core = false → mRunning x.mq = none → mComplete s core = s)) ∧
      (mServes s core = true → mComplete s core = mServe s core) ∧
      (∀ m, x.mq = [m] → m.running = false → m.away = none → fld m.word 26 6 = 7 → latchSick s core (latchOf x) = none →
        let off := bdOff (mOp m 0).bd
        let t := mServe s core
        off + 73984 ≤ 0x200000 → (coreOf t core).ctx.mq = [] ∧ (coreOf t core).ctx.latches = x.latches ∧ t.mem = s.mem ∧
          ∀ y, memGet (coreOf t core).spad y = if off ≤ y ∧ y < off + 73984 then (mImage x []).getD (y - off) 0 else memGet c.spad y) ∧
      (∀ m b, x.mq = [m] → fld m.word 26 6 = 8 → x.mback = some b →
        let v := viewOf core (mOp m 1)
        let now := landed s core
        let t := mServe s core
        v.bad now 0x1100 0x11000 = none → t.mem = s.mem ∧ (coreOf t core).spad = c.spad ∧
          (coreOf t core).ctx.mq = b.cmds.map (fun k => { k with issuedAt := c.cycles }) ∧ (coreOf t core).ctx.mback = none ∧
          (coreOf t core).ctx.latches = (b.fill (coreLoad now core v.off 73984)).latches ∧ (coreOf t core).ctx.cells = b.cells) ∧
      (∀ m t m', m.old = [] → mNextRow s core m = .ok (t, m') →
        (fld m.word 26 6 = 1 → let v := viewOf core (mOp m 1)
          v.ext 1 ≤ 128 → m'.rows = m.rows + 1 ∧ ∀ k j, j < 128 →
            latchCode (latchOf (coreOf t core).ctx) (fld m.word 14 2) v.fmt k j =
              if k = m.rows ∧ j < v.ext 1 then v.code s [k, j] else latchCode (latchOf x) (fld m.word 14 2) v.fmt k j) ∧
        (fld m.word 26 6 = 3 → let d := viewOf core (mOp m 0)
          d.layout = 3 → 0x200000 ≤ d.off → d.ext 1 * d.ew ≤ 4096 → m'.rows = m.rows + 1 ∧ t.mem = s.mem ∧ (coreOf t core).spad = c.spad ∧
            ∀ i j, j < d.ext 1 → d.code t [i, j] =
              if i = m.rows then (mmaCode s s core m (mmaLeft s core m i) i j).1 % 2 ^ d.ew else d.code s [i, j])) ∧
      (∀ i m, c.foreign = none → mServes s core = false → mRunning x.mq = some i → x.mq[i]? = some m → mTotal m ≤ m.rows →
        let t := mComplete s core
        (coreOf t core).ctx.mq = x.mq.eraseIdx i ∧ (coreOf t core).ctx.matErrs = x.matErrs ∧ t.mem = s.mem ∧
          ∀ n, n ≠ core → coreOf t n = coreOf s n) ∧
      (∀ home k, c.foreign = some (home, k) → mAwayAt (coreOf s home).ctx.mq core = none →
        mRecall s core = setCoreOf s core { c with foreign := none }) ∧
      (let t := mMigrate s core
       t.mem = s.mem ∧ t.house = s.house ∧ t.pits = s.pits ∧
        (t = s ∨ ∃ n i k, migTarget s n = true ∧ migCommand c i = true ∧ x.mq[i]? = some k ∧ c.migctl.getLsbD 0 = true ∧
          (x.mq.filter fun q => q.away.isSome).length < maxAway c.migctl ∧
          ∃ k', k'.away = some n ∧ k'.word = k.word ∧ k'.ops = k.ops ∧ k'.rows = k.rows ∧ (coreOf t core).ctx.mq = x.mq.set i k' ∧
            (coreOf t n).foreign = some (core, k'))) ∧
      (duetPartner s core = none → duetTick s core = s) ∧
      (∀ p, duetPartner s core = some p →
        let a := (arrayOf s core).1
        let b := if a = core then p else core
        let side := (coreOf s a).cycles / 64 % 2 == 1
        let t := duetTick s core
        ((coreOf s a).duetSide = side → t = s) ∧
        ((coreOf s a).duetSide ≠ side → mRunning (coreOf s (if side then a else b)).ctx.mq = none → a ≠ b →
          (coreOf t a).duetSide = side ∧ (coreOf t a).ctx.cells = none ∧ (coreOf t b).ctx.cells = none ∧
          (coreOf t a).ctx.mq = (coreOf s a).ctx.mq ∧ (coreOf t b).ctx.mq = (coreOf s b).ctx.mq)) ∧
      (eng < 2 → kMayStart s core eng = false → exec (.kCommandStart core eng) s = .next s) ∧
      (∀ k ks, eng < 2 → kMayStart s core eng = true → kQueue x eng = k :: ks →
        exec (.kCommandStart core eng) s = .next (setKq (kbufClear (sramFill s core (1 + eng)) core eng) core eng ({ k with started := true } :: ks))) ∧
      (∀ (k k' : KCmd) (lim : Nat) (t : State), kUnit s core eng lim k = .ok (t, k') →
        let p := k.progress
        let v := viewOf core k.tile
        let n := kTotal k
        let at' := winElt (winRec k.wrec) (winIndex k (fld k.word 3 1 == 1) (v.lin p))
        (fld k.word 26 6 = 6 → p < k.value →
          let len := min (64 - (k.dst + p) % 64) (k.value - p)
          ∀ pa qa f f', (k.src + p) % 8192 + len ≤ 8192 → kXlate s core k (k.src + p) true false = .ok (pa, f) →
            kXlate s core k (k.dst + p) false true = .ok (qa, f') → isWindow pa = false →
            k'.progress = p + len ∧ t.mem = s.mem ∧ ∃ sent, (coreOf t core).pend = c.pend ++ sent ∧
              (∀ a ∈ sent, a.kind = .posted eng ∧ qa ≤ a.pa ∧ a.pa + a.size ≤ qa + len) ∧
              ∀ y, y < len → ∃ a ∈ sent, a.pa ≤ qa + y ∧ qa + y < a.pa + a.size ∧
                BitVec.ofNat 8 (a.data / 2 ^ (8 * (qa + y - a.pa))) = physByte s (pa + y)) ∧
        (v.layout = 0 → twScale v.w = 0 → fmtWidth v.fmt = 32 → k.ahead = [] → p < n → at'.1 % 4 = 0 → at'.2 = 0 →
          (∀ pa f, fld k.word 26 6 = 1 → v.off + 4 * n ≤ 0x200000 → stagedLines s core k = [] →
            kXlate s core k at'.1 true false = .ok (pa, f) → isStore pa = true →
            p < k'.progress ∧ t.mem = s.mem ∧ v.code t (v.lin p) = physNat s pa 4 ∧
              ∀ y, y < v.off ∨ v.off + 4 * n ≤ y → memGet (coreOf t core).spad y = memGet c.spad y) ∧
          (∀ pa f, fld k.word 26 6 = 2 → fld k.word 4 2 = 0 → k.old = [] → p + 1 = n → pa % 4 = 0 →
            kXlate s core k at'.1 false true = .ok (pa, f) → eltsBad s v [v.lin p] = none →
            t.mem = s.mem ∧ ∃ a, (coreOf t core).pend = c.pend ++ [a] ∧ a.kind = .posted eng ∧ a.pa = pa ∧ a.size = 4 ∧ a.hole = 0 ∧
              a.data = v.code s (v.lin p)))) ∧
      (∀ k, eng < 2 → kRunning s core eng = some k →
        let all := kRunTo s core eng (kTotal k)
        (kIsPit k = false → exec (.kCommandComplete core eng) s = .next (if all.2 = true then kFinish all.1 core eng else all.1)) ∧
        (fld k.word 26 6 = 0x0E → exec (.routePairArrival core eng) s = .next (kRunTo s core eng (min (k.progress + 1) (kTotal k))).1)) ∧
      (eng < 2 → kRunning s core eng = none → exec (.kCommandComplete core eng) s = .next s ∧ exec (.routePairArrival core eng) s = .next s ∧
        exec (.pitDispatch core eng) s = .next s) ∧
      (eng < 2 → exec (.pitDispatch core eng) s = .next (pitDispatch s core eng)) ∧
      (∀ k p sig, kRunning s core eng = some k →
        let t := pitDispatch s core eng
        (kIsPit k = false → t = s) ∧
        (kIsPit k = true → engineBad s core (1 + eng) = false → pitParts s core eng k = .ok p → pitSig s core eng k = .ok sig → p.2 ≠ [] →
          (∀ e ∈ p.2, (pitOf s e.1).queue.length < 64) →
          t.mem = s.mem ∧ kQueue (coreOf t core).ctx eng = (kQueue x eng).drop 1 ∧ t.house.nextGroup = s.house.nextGroup + 1 ∧
          ∀ n, (pitOf t n).queue = (pitOf s n).queue ++ (p.2.filter fun e => e.1 == n).map fun e =>
            { e.2 with sig := sig, group := s.house.nextGroup, status := p.1.status, statusAt := p.1.statusAt }))) ∧
    (pit < 192 →
      let e := pitOf s pit
      (e.queue = [] → exec (.pitCommandRun pit) s = .next s ∧ (e.sent = [] → exec (.pitCommandComplete pit) s = .next (setPit s pit e))) ∧
      (∀ p ps, e.queue = p :: ps → exec (.pitCommandRun pit) s = .next (setPit s pit { e with queue := { p with ran := true } :: ps })) ∧
      exec (.pitCommandComplete pit) s = .next (pitComplete s pit) ∧
      (e.sent = [] → pitGoing s pit = false → pitComplete s pit = setPit s pit e) ∧
      (∀ p pa, e.sent = [] → e.queue = [p] → pitGoing s pit = true → pitTotal p ≤ p.rows → pitHeld s p = false → p.sig = some pa →
        isStore pa = true → (∀ q ∈ (setPit s pit { e with queue := [] }).pits, ((q.2.queue ++ q.2.sent).any fun d => d.group == p.group) = false) →
        (pitOf (pitComplete s pit) pit).queue = [] ∧ ∀ y, memGet (pitComplete s pit).mem y =
          if pa ≤ y ∧ y < pa + 8 then (natBytes 8 (if p.status = 0 then 1 else p.status)).getD (y - pa) 0 else memGet s.mem y) ∧
      (pitGoing s pit = true →
        let t := pitAdvance s pit (pitFree s pit)
        exec (.pitSuspend pit) s = .next (setPit t pit { pitOf t pit with suspended := true }) ∧
        exec (.pitWindowEnd pit) s = .next (setPit t pit { pitOf t pit with windows := (pitOf t pit).windows + 1 })) ∧
      exec (.pitResume pit) s = .next (setPit s pit { e with suspended := false })) ∧
    (∀ t, s.house.statuses[idx]? = some t → exec (.pitStatusArrival idx) s =
      .next (deliverTrap { s with house := { s.house with statuses := s.house.statuses.eraseIdx idx } } t.core t.serial
        ⟨t.code, t.info, false, t.tag⟩)) ∧
    (∀ a, s.house.audits.find? (fun e => e.1 == job) = some (job, a) →
      exec (.admitReport job) s = .next (if auditBlocked s job a then s else auditEnd s job a))

/-- R9, R17, R258, R303-R316, R371-R386: the events of the prompter, the hosts, the house die, the links and the debug port answer a next state for
every die, core and host that exists, and what that state is. A host reaches only what its dies hold; a push enters its wing once its host's earlier
writes have performed. The debug port's register kinds, its refusal of a core that is not stopped and its restart of a halted core are the model's
(logs 20, 67, 68), as are the kinds of unit of a self-test (log 97), that NEEDBOTH is judged against the division in force (log 96), that a proposal
forgets the bytes of APPROVE (log 69), that IN keeps its lanes until the last contribution (log 72), the entries of the error log (log 78), and that a
read at issue takes its timeout at the next such read (log 4). The moment at which each event takes place is the agenda's (log 2). -/
def Obligations.ModuleEventsComplete : Prop :=
  ∀ (s : State) (core die wing host off val pa n data kind idx slot lane : Nat),
    let w := wing % 8
    let d := dieOf s die
    (core < 512 → die < 8 → host < 2 →
      exec (.prompterPick die) s = .next (prompterPick s die) ∧
      (wingOcc (wingOf s die w) = 0 → exec (.ageStep die wing) s = .next s) ∧
      (wingOcc (wingOf s die w) ≠ 0 → ∃ t, exec (.ageStep die wing) s = .next t ∧ (wingOf t die w).age = (wingOf s die w).age + 1 ∧
        ∀ v, v ≠ w → wingOf t die v = wingOf s die v) ∧
      (liveWings s die = [] → (∀ i, i < 64 → (coreOf s (die * 64 + i)).saved = []) → prompterPick s die = s) ∧
      exec (.prestageFill die wing) s = .next (prestageFill s die w) ∧ (prestageFill s die w).mem = s.mem ∧
      (w ∉ liveWings s die → prestageFill s die w = guardNotes s die) ∧
      exec (.enqueueBufferDrain die) s = .next (bufferDrain s die) ∧
      (d.buffer = [] → bufferDrain s die = s) ∧
      (∀ b bs, d.buffer = b :: bs → wingBase (wingOf s die b.wing) ≠ 0 → wingOcc (wingOf s die b.wing) < wingEntries (wingOf s die b.wing) →
        bufferDrain s die = wingAppend (setDie s die { d with buffer := bs }) die b.wing b.entry) ∧
      exec (.curtain die) s = .next (curtainFall s die) ∧
      ((saveRoot s die = 0 ∨ ∃ i, i < 64 ∧ coreIdle s (die * 64 + i) = true) → curtainFall s die = guardNotes s die) ∧
      (∀ r, let y := (coreOf (startCue s core w r) core).ctx
        (coreOf (startCue s core w r) core).status = .running ∧ y.pc = BitVec.ofNat 64 (recWord (recSetClass r w) 0) ∧
        sregOf y 1 = BitVec.ofNat 64 (recWord (recSetClass r w) 1) ∧ y.cls = w ∧ y.inflight = [] ∧ y.held = 0 ∧ y.mq = [] ∧ y.kq0 = [] ∧
        y.kq1 = [] ∧ y.ens = []) ∧
      (∀ k, bestCand (candidates s core) = some k → exec (.contextResume core) s =
        .next (if k.head = 0 then (pickFor s core).getD s else s)) ∧
      (bestCand (candidates s core) = none → exec (.contextResume core) s = .next s) ∧
      exec (.remoteWritePerform core) s = .next (heldMove s core) ∧
      (s.house.pushes = [] →
        (heldReady s core = none → heldMove s core = s) ∧
        (∀ i h, heldReady s core = some (i, h) → h.off + h.data.length ≤ 0x200000 →
          let t := heldMove s core
          (coreOf t core).remote = (coreOf s core).remote.eraseIdx i ∧ t.mem = s.mem ∧
          ∀ y, memGet (coreOf t core).spad y = if h.off ≤ y ∧ y < h.off + h.data.length then h.data.getD (y - h.off) 0
            else memGet (coreOf s core).spad y)) ∧
      (let go (i : Instr) (t : State) (u : State) : Prop := exec i s = .next (if hostOwns s host die = true then t else u)
       let p : HeldPush := ⟨host, die, w, n, data⟩
       let v := wingOf s die w
       let pushed := pushArrive s p
       let based := qbaseSet s die w val
       go (.hostPush host die wing n data) pushed (logErr s .hostRefused host die wing) ∧
       go (.qbaseWrite host die wing val) based (logErr s .hostRefused host die wing) ∧
       go (.pushstatWrite host die wing val) (setWing s die w { v with dropped := val % 2 ^ 32 }) (logErr s .hostRefused host die wing) ∧
       (pushWaits s p = true → pushed = { s with house := { s.house with pushes := s.house.pushes ++ [p] } }) ∧
       (pushWaits s p = false →
         (wingBase v ≠ 0 → n = 64 → programRoom v 1 = true → pushed = wingAppend s die w (recSetClass (natBytes 64 data) w)) ∧
         (wingBase v = 0 ∨ n ≠ 64 ∨ programRoom v 1 = false →
           pushed.mem = s.mem ∧ wingOf pushed die w = { v with dropped := (v.dropped + 1) % 2 ^ 32 })) ∧
       based.mem = s.mem ∧ (∀ u, u ≠ w → wingOf based die u = wingOf s die u) ∧
       wingOf based die w = { v with
         qbase := BitVec.ofNat 64 (fld val 16 32 * 2 ^ 16 + fld val 4 1 * 2 ^ 4 + fld val 0 4), head := 0, tail := 0, age := 0 }) ∧
      exec (.hostMemoryAccess host 0 pa n data) s = .next (hostAccess s host 0 pa n data) ∧
      exec (.hostMemoryAccess host 1 pa n data) s = .next (hostAccess s host 1 pa n data) ∧
      (pa + n ≤ hbmEnd ∨ (loftBase ≤ pa ∧ pa + n ≤ loftEnd) →
        (hostAccess s host 0 pa n data).reply = physNat s pa n ∧ (hostAccess s host 0 pa n data).mem = s.mem ∧
        ∀ y, memGet (hostAccess s host 1 pa n data).mem y =
          if pa ≤ y ∧ y < pa + n then (natBytes n data).getD (y - pa) 0 else memGet s.mem y) ∧
      ((∀ y, pa ≤ y → y < pa + n → isWindow y = true ∧ hostOwns s host (dieOfCore (windowCore y)) = false) → 0 < n →
        (hostAccess s host 0 pa n data).reply = 0 ∧ (hostAccess s host 1 pa n data).mem = s.mem ∧
        (hostAccess s host 1 pa n data).cores = s.cores) ∧
      exec (.approveWrite host off val) s = .next (approveSet s host off val) ∧
      (off % 8 ≠ 0 ∨ 64 ≤ off → approveSet s host off val = logErr s .hostRefused host (0x2080 + off) 1) ∧
      (off % 8 = 0 → off < 64 →
        let ws := mput (off / 8) (val % 2 ^ 64) (hostBlk s host).approve
        let t := approveSet s host off val
        (s.house.stagestat.getLsbD 0 = false → t = s) ∧
        (s.house.stagestat.getLsbD 0 = true →
          (ws.length < 8 → t = setHostBlk s host { hostBlk s host with approve := ws }) ∧
          (8 ≤ ws.length → (hostBlk t host).approve = [] ∧
            (packElts 64 (ws.map (·.2)) = s.house.digest → t.house.stagestat.getLsbD (2 + host) = true) ∧
            (packElts 64 (ws.map (·.2)) ≠ s.house.digest → t.house.stagestat.getLsbD (4 + host) = true) ∧
            (t.house.record = s.house.record ∨ (t.house.record = s.house.proposal ∧ t.house.previous = s.house.record ∧
              t.house.stagestat.getLsbD 6 = true ∧ approvalsIn t.house.stagestat = true))))) ∧
      exec (.nonceWrite host off val) s = .next (nonceSet s host off val) ∧
      (off % 8 ≠ 0 ∨ 32 ≤ off → nonceSet s host off val = logErr s .hostRefused host (0x3000 + off) 1) ∧
      (off % 8 = 0 → off < 32 → ((hostBlk s host).request = true → nonceSet s host off val = s) ∧
        ((hostBlk s host).request = false → fld (hostBlk (nonceSet s host off val) host).nonce (8 * off) 64 = val % 2 ^ 64)) ∧
      exec (.attestRequest host) s =
        .next (setHostBlk s host { hostBlk s host with request := true, ready := false, atRequest := (hostBlk s host).nonce }) ∧
      (∃ t, exec (.attestReportReady host) s = .next t ∧ ((hostBlk s host).request = false → t = s) ∧
        ((hostBlk s host).request = true → hostBlk t host =
          { hostBlk s host with request := false, ready := true, report := attestReport s (hostBlk s host).atRequest })) ∧
      exec (.registerWrite host off val) s = .next (hostRegWrite s host off (val % 2 ^ 64)) ∧
      (bar0Denied s host off = true ∨ (off % 8 ≠ 0 ∧ pushAt off = none) →
        hostRegWrite s host off (val % 2 ^ 64) = logErr s .hostRefused host off 1) ∧
      (∀ q, bar0Denied s host off = false → pushAt off = some q →
        hostRegWrite s host off (val % 2 ^ 64) = pushArrive s ⟨host, q.1, q.2, 8, val % 2 ^ 64⟩) ∧
      exec (.remoteTimeout core kind idx) s = .next (remoteTimeout s core kind idx) ∧
      (kind = 3 → remoteTimeout s core kind idx = setCoreOf s core { coreOf s core with noReply := true }) ∧
      (∀ a, kind ≠ 1 → kind ≠ 3 → (coreOf s core).pend[idx]? = some a →
        (isPeer a.pa = false → remoteTimeout s core kind idx = s) ∧
        (isPeer a.pa = true → a.kind = .load ∨ (∃ f, a.kind = .amo f) → kind = 0 → a.home = none → a.dst ≠ 0 →
          let y := coreOf (remoteTimeout s core kind idx) core
          y.pend = (coreOf s core).pend.eraseIdx idx ∧ y.ctx.regErrs = (coreOf s core).ctx.regErrs ++ [⟨a.dst, a.va⟩] ∧
          y.ctx.sregs = (coreOf s core).ctx.sregs) ∧
        (isPeer a.pa = true → a.kind = .store → kind = 2 → a.home = none →
          let t := remoteTimeout s core kind idx
          (coreOf t core).pend = (coreOf s core).pend.eraseIdx idx ∧ t.mem = s.mem ∧
          t.house.log = s.house.log ++ [⟨.lostWrite, core, a.pa, a.size, 0⟩])) ∧
      exec (.selfTestStart kind core idx) s = .next (testStart s kind core idx) ∧
      (kind % 12 / 2 ≠ 2 → (testStart s kind core idx).house.tests = mput s.house.nextTest ⟨kind % 12, core, idx⟩ s.house.tests) ∧
      (let refused : State := { logErr s .hostRefused host core 2 with reply := 0 }
       let owns := hostOwns s host (dieOfCore core)
       let c := coreOf s core
       (owns = false → exec (.debugStop host core) s = .next refused ∧ exec (.debugRestart host core) s = .next refused ∧
         exec (.debugRegisterWrite host core kind idx val) s = .next refused ∧ exec (.debugRegisterRead host core kind idx) s = .next refused) ∧
       (owns = true → exec (.debugStop host core) s = .next (setCoreOf s core { c with debugStop := true }) ∧
         exec (.debugRestart host core) s = .next (setCoreOf s core (debugGo c)) ∧
         (debugHas c = true → exec (.debugRegisterWrite host core kind idx val) s = .next (debugPut s core kind idx val) ∧
           exec (.debugRegisterRead host core kind idx) s = .next (debugGet s core kind idx) ∧
           (let t := debugPut s core kind idx val
            let back : Nat := (debugGet t core kind idx).reply
            t.mem = s.mem ∧ (∀ k, k ≠ core → coreOf t k = coreOf s k) ∧
            (kind = 0 → back = if idx % 32 = 0 then 0 else val % 2 ^ 64) ∧ (kind = 1 → back = if idx % 16 = 0 then 1 else val % 2) ∧
            (kind = 2 → back = val % 2 ^ 64) ∧ (kind = 3 → back = val % 2 ^ 512 + fld val 512 10 * 2 ^ 512) ∧
            (kind = 4 → back = val % 2 ^ 128) ∧ (kind = 5 → back = val % 2 ^ 64) ∧
            (kind = 8 → (debugRow c.ctx idx).isSome = true → back = val % 2 ^ 4096) ∧
            (9 ≤ kind ∨ (kind = 7 ∧ sysRegDefined idx = false) ∨ (kind = 8 ∧ debugRow c.ctx idx = none) →
              t = debugRefuse s core kind idx ∧ debugGet s core kind idx = debugRefuse s core kind idx))) ∧
         (let t := debugRefuse s core kind idx
          t.reply = 0 ∧ t.mem = s.mem ∧ (coreOf t core).ctx = c.ctx ∧ (coreOf t core).debugNote = c.debugNote + 1) ∧
         (debugHas c = false → exec (.debugRegisterWrite host core kind idx val) s = .next (debugRefuse s core kind idx) ∧
           exec (.debugRegisterRead host core kind idx) s = .next (debugRefuse s core kind idx))))) ∧
    (∃ t, exec (.remoteWrite pa n data) s = .next t ∧ (pa + n ≤ hbmEnd ∨ loftBase ≤ pa →
      ∀ x, memGet t.mem x = if pa ≤ x ∧ x < pa + n then (natBytes n data).getD (x - pa) 0 else memGet s.mem x)) ∧
    (∃ t, exec (.remoteRead pa n) s = .next t ∧ t.reply = physNat s pa n ∧ t.mem = s.mem ∧ t.cores = s.cores) ∧
    exec (.configProposal n data) s = .next (proposeRecord s (natBytes n data)) ∧
    (let img := natBytes n data
     let t := proposeRecord s img
     (2048 < n ∨ (recordCounter img ≤ recordCounter s.house.record ∧ s.house.record ≠ []) → t = logErr s .hostRefused 2 n 0) ∧
     (n ≤ 2048 → recordCounter s.house.record < recordCounter img →
       t.house.proposal = img ∧ t.house.pcounter = recordCounter img ∧ t.house.record = s.house.record ∧ t.house.previous = s.house.previous ∧
       t.house.stagestat = (if recordOwners img = s.house.owners then 1 else 3) ∧ ∀ h ∈ t.house.hosts, h.2.approve = [])) ∧
    (∃ t, exec (.throttleWrite val) s = .next t ∧ t = { s with house := { s.house with throttle := val % 2 ^ 32 } }) ∧
    (∃ t, exec (.pstateWrite val) s = .next t ∧ t = { s with house := { s.house with pstate := val % 4 } }) ∧
    (∃ t, exec .moduleReset s = .next t ∧ t.cores = [] ∧ t.dies = [] ∧ t.pits = [] ∧ t.house.bootstat = 0 ∧ t.house.record = s.house.record) ∧
    (∃ t, exec (.clockStep val) s = .next t ∧
      t = { s with house := { s.house with clock := val % 4096, throttle := (s.house.throttle + 1) % 2 ^ 32 } }) ∧
    (∃ t u, exec (.linkFailure idx) s = .next t ∧ exec (.linkRetrainComplete idx) s = .next u ∧
      ∀ k, k < 16 → t.house.links.getLsbD k = (s.house.links.getLsbD k && k != idx % 16) ∧
        u.house.links.getLsbD k = (s.house.links.getLsbD k || k == idx % 16)) ∧
    (let codes := (List.range n).map fun i => fld data (32 * i) 32
     exec (.reduceContribution slot lane n data) s = .next (if redOn s = true ∧ slot < 64 ∧ lane + n ≤ 256
       then (redArrive (redAdd s slot lane codes) slot).1 else s) ∧
     (redOn s = true → slot < 64 → lane + n ≤ 256 →
       let r := mget ⟨0, []⟩ slot s.house.red
       let t := (redArrive (redAdd s slot lane codes) slot).1
       r.count + 1 ≠ physNat s (redSlotPa s slot + 0x800) 8 →
         t.mem = s.mem ∧ (mget ⟨0, []⟩ slot t.house.red).count = r.count + 1 ∧
         ∀ l, mget [] l (mget ⟨0, []⟩ slot t.house.red).lanes =
           mget [] l r.lanes ++ (if lane ≤ l ∧ l < lane + n then [fld data (32 * (l - lane)) 32] else []))) ∧
    exec (.selfTestEnd idx val) s = .next (testEnd s idx val) ∧
    ((∀ e ∈ s.house.tests, e.1 ≠ idx) → testEnd s idx val = s) ∧
    (∀ e, s.house.tests.find? (fun o => o.1 == idx) = some e →
      let t := testEnd s idx val
      t.house.tests = s.house.tests.filter (fun o => o.1 != idx) ∧ t.cores = s.cores ∧ t.mem = s.mem ∧
      (val = 1 → t.house.retired = s.house.retired ∧ t.house.failed = s.house.failed) ∧
      (val ≠ 1 → e.2.kind % 2 = 0 → t.house.retired = s.house.retired ++ [e.2] ∧ t.house.failed = s.house.failed) ∧
      (val ≠ 1 → e.2.kind % 2 = 1 → t.house.failed = s.house.failed ++ [e.2] ∧ t.house.retired = s.house.retired))

/-! ### The machine -/

/-- R22, R45, R58: a slot instruction answers a next state in every state, and that state differs from the one before only in what the bundle in issue
has gathered: effects and stops of its own slot, behind those of lower slots. No register, flag, special register or byte changes before the bundle
closes. -/
def Obligations.SlotInstructionsOnlyGather : Prop :=
  ∀ (i : Instr) (s : State), i.info.slot ≠ none → ∃ (es : List Eff) (ss : List Stop),
    exec i s = .next { s with issue := { s.issue with
      effs := s.issue.effs ++ es.map fun e => (s.issue.slot, e)
      stops := s.issue.stops ++ ss.map fun e => (s.issue.slot, e) } }

/-- R43, R89: the frame of a result that lands. The location that the update names takes the value, under the rules for s0 and p0 and for a row whose
bank is not held; every other scalar register, predicate, target register, mask, tile, dimension variable, port, accumulator row and tag, scratchpad
byte, bank, window, tree, pattern word and context, latch, and every further field of the context, stays as it is but for a system register's own
field; so do the memory, the pit engines, every other core, and the house die but for its lists of admitted and waived leaves, which a changed leaf
leaves (R79). ACC.ALLOC, ACC.FREE and ACC.WIN change banks, rows, tags and window as R164-R166 and R169 say; that a freed bank's results in flight and
in the trap capture no longer land is a reading of the spec (log 34). -/
def Obligations.LandingFrame : Prop :=
  ∀ (s : State) (core : Nat) (u : Upd),
    let t := applyUpd s core u
    let x := (coreOf s core).ctx
    let y := (coreOf t core).ctx
    t.mem = s.mem ∧ t.pits = s.pits ∧ { t.house with admission := s.house.admission, waived := s.house.waived } = s.house ∧
    (∀ n, n ≠ core → coreOf t n = coreOf s n) ∧
    y.mode = x.mode ∧ y.pc = x.pc ∧
    (∀ n, sregOf y n = match u with | .sreg d v => if n = d ∧ n ≠ 0 then v else sregOf x n | _ => sregOf x n) ∧
    (∀ n, n < 16 → predOf y n = match u with | .pred d v => if n = d ∧ n ≠ 0 then v else predOf x n | _ => predOf x n) ∧
    (∀ n, kmaskOf y n = match u with | .kmask d b k => if n = d then (b, k) else kmaskOf x n | _ => kmaskOf x n) ∧
    (∀ n, bregOf y n = match u with
      | .breg d v => if n = d then v else bregOf x n
      | .sys d v => if 8 ≤ d ∧ d ≤ 15 ∧ n = d - 8 then v else bregOf x n
      | _ => bregOf x n) ∧
    (∀ n, tileOf y n = match u with
      | .tile d tw bd => if n = d then ⟨tw.getD (tileOf x n).tw, bd.getD (tileOf x n).bd⟩ else tileOf x n
      | _ => tileOf x n) ∧
    (∀ n, dimOf y n = match u with
      | .dim d v => if n = d then { dimOf x n with val := v } else dimOf x n
      | .dimLimit d b => if n = d then { dimOf x n with limit := b } else dimOf x n
      | _ => dimOf x n) ∧
    (∀ n, portOf y n = match u with | .port d p => if n = d then p else portOf x n | _ => portOf x n) ∧
    (∀ a, memGet (coreOf t core).spad a = match u with
      | .spad off n v => if off < 0x200000 ∧ off ≤ a ∧ a < off + n then (natBytes n v).getD (a - off) 0 else memGet (coreOf s core).spad a
      | _ => memGet (coreOf s core).spad a) ∧
    ((∀ off n v, u = .spad off n v → off < 0x200000) →
      (∀ n, rowOf (coreOf t core) n = match u with
        | .row r v _ => if n = r ∧ holdsBank x (r / 4) = true then v else rowOf (coreOf s core) n
        | .accAlloc f k => if 4 * f ≤ n ∧ n < 4 * f + 4 * k then 0 else rowOf (coreOf s core) n
        | _ => rowOf (coreOf s core) n) ∧
      ∀ n, tagOf (coreOf t core) n = match u with
        | .row r _ tag => if n = r ∧ holdsBank x (r / 4) = true then tag else tagOf (coreOf s core) n
        | .accAlloc f k => if 4 * f ≤ n ∧ n < 4 * f + 4 * k then none else tagOf (coreOf s core) n
        | .accWin w fmt => if w ≤ n ∧ n < w + 48 then some fmt else tagOf (coreOf s core) n
        | _ => tagOf (coreOf s core) n) ∧
    (∀ b, b < 256 → holdsBank y b = match u with
      | .accAlloc f k => holdsBank x b || (decide (f ≤ b) && decide (b < f + k))
      | .accFree f k => holdsBank x b && !(decide (f ≤ b) && decide (b < f + k))
      | _ => holdsBank x b) ∧
    (y.window, y.wfmt, y.rot) = (match u with
      | .accWin w fmt => (some w, fmt, 0)
      | .accFree f k => (x.window.filter (fun w => !(decide (w / 4 < f + k) && decide (f < w / 4 + 12))), x.wfmt, x.rot)
      | .rot v => (x.window, x.wfmt, v)
      | .sys n v => (x.window, x.wfmt, if n = 3 then v.toNat % 16 else x.rot)
      | _ => (x.window, x.wfmt, x.rot)) ∧
    (y.inflight, y.trapCap) = (match u with
      | .accFree f k => (x.inflight.map (dropRows f k), x.trapCap.map (dropRows f k))
      | _ => (x.inflight, x.trapCap)) ∧
    y.tree = (match u with | .tree v => v | _ => x.tree) ∧
    (∀ n, mget 0 n y.pgMem = match u with
      | .pgMem dest ws => if dest ≤ n ∧ n < dest + ws.length then ws.getD (n - dest) 0 else mget 0 n x.pgMem
      | _ => mget 0 n x.pgMem) ∧
    (∀ n, pctxOf y n = match u with | .pgCtx g p => if n = g then p else pctxOf x n | _ => pctxOf x n) ∧
    (∀ n, latchOf y n = match u with
      | .latchType l tw col g => if n = l then { latchOf x l with tw := tw, col := col, grp := g.getD (latchOf x l).grp } else latchOf x n
      | _ => latchOf x n) ∧
    ((∀ n v, u ≠ .sys n v) → (coreOf t core).tvec = (coreOf s core).tvec ∧
      y = { x with
        sregs := y.sregs, preds := y.preds, bregs := y.bregs, kmasks := y.kmasks, tiles := y.tiles, dims := y.dims, ports := y.ports
        held := y.held, window := y.window, wfmt := y.wfmt, rot := y.rot, inflight := y.inflight, trapCap := y.trapCap, tree := y.tree
        pgMem := y.pgMem, pgCtxs := y.pgCtxs, latches := y.latches })

/-- R20-R23, R57: a step issues the bundle that the core in focus has fetched: its slots run in order, each the instruction that its word decodes to,
and the bundle closes; where a fault that comes after every stall would be taken, the slots have run once more for the stalls behind it. A bundle
whose one word that is not a NOP stands in slot k and decodes to i runs exec of i, with the slot noted, and then closes; where that word decodes to no
instruction, the step raises ILLEGAL with the slot in FAULTINFO. Which core acts in a step is log 2. -/
def Obligations.StepRunsDecodedBundle : Prop :=
  ∀ (s : State), booting s = false → s.agenda = [] → s.focus < 512 →
    (∀ s1 slots t, prepare s = .ok (s1, slots) → runSlots slots s1 = .next t →
      (lateFault t = false → step s = .next (useFree (close t))) ∧
      (∀ u, lateFault t = true → runSlots slots (calm s1) = .next u → step s = .next (useFree (close (withStalls t u))))) ∧
    (∀ t, prepare s = .error t → step s = .next (useFree t)) ∧
    (∀ (e : TlbEnt) (wv : Bool) (k w : Nat) (i : Instr) (t : State),
      let c := cur s
      let woken := setCur s { c with ctx := { c.ctx with wait := none } }
      let ws := (List.range 8).map fun j => if j = k then w else 0
      let issued : State := { tlbFill woken s.focus true e with issue := ⟨k, ws, [], []⟩ }
      c.status = .running → c.debugStop = false → c.ctx.resumeErr = none → c.ctx.owed = 0 → c.ctx.draining = none →
      boundaryTrap s s.focus = none → c.ctx.wait = none → c.icache.contains (icacheKey c.ctx) = true →
      fetchBundle woken s.focus = .ok (e, ws, wv) → k < 8 → w ≠ 0 → decodeSlot (slotKindOf k) w = .ok i → (wv && waivedIllegal c.ctx i) = false →
      (wv && waivedIllegal c.ctx .nop) = false → exec i issued = .next t →
      (lateFault t = false → step s = .next (useFree (close t))) ∧
      (∀ u, lateFault t = true → exec i (calm issued) = .next u → step s = .next (useFree (close (withStalls t u))))) ∧
    (∀ (e : TlbEnt) (wv : Bool) (k w : Nat) (r : DecodeError),
      let c := cur s
      let woken := setCur s { c with ctx := { c.ctx with wait := none } }
      c.status = .running → c.debugStop = false → c.ctx.resumeErr = none → c.ctx.owed = 0 → c.ctx.draining = none →
      boundaryTrap s s.focus = none → c.ctx.wait = none → c.icache.contains (icacheKey c.ctx) = true →
      fetchBundle woken s.focus = .ok (e, (List.range 8).map fun j => if j = k then w else 0, wv) → k < 8 →
      decodeSlot (slotKindOf k) w = .error r → (wv && waivedIllegal c.ctx .nop) = false →
      live c.ctx = false → c.tvec ≠ 0 → c.tvec.toNat % 32 = 0 →
      ∃ t, step s = .next t ∧ (ctx t).cause.toNat % 256 = 1 ∧ (ctx t).faultinfo = BitVec.ofNat 64 k ∧ (ctx t).faultpc = c.ctx.pc ∧
        (ctx t).pc = c.tvec ∧ live (ctx t) = true ∧ (ctx t).sregs = c.ctx.sregs ∧ (cur t).spad = c.spad ∧ t.mem = s.mem)

/-- R22, R43-R45, R89, R92: one step over a bundle that holds ADD in slot 1 and NOPs beside it, in a state with no result in flight, no pending
branch, no mark wait and no duet. The destination takes the sum (s0 stays zero), every other scalar register and predicate keeps its value, the pc
goes on by one bundle, and no byte of memory and no other core changes, nor the house die but for what the fetch of the bundle left there. That a lone
move is the focus core's is log 2. -/
def Obligations.AddBundleStep : Prop :=
  ∀ (s s1 : State) (d a b : Nat), booting s = false → s.agenda = [] → s.focus < 512 →
    prepare s = .ok (s1, (List.range 8).map fun k => (k, if k = 1 then .add d a b else .nop)) → s1.issue.stops = [] → regReady s a = true →
    regReady s b = true → regFree s d = true → (ctx s).inflight = [] → (ctx s).delay = none → (ctx s).wait = none → duetPartner s s.focus = none →
    ∃ t, step s = .next t ∧ t.mem = s.mem ∧ t.house = s1.house ∧ t.pits = s.pits ∧ (∀ n, n ≠ s.focus → coreOf t n = coreOf s n) ∧
      t.focus = s.focus ∧ (ctx t).pc = (ctx s).pc + 32#64 ∧ (ctx t).preds = (ctx s).preds ∧ (ctx t).mode = (ctx s).mode ∧
      (cur t).spad = (cur s).spad ∧ (ctx t).inflight = [] ∧
      ∀ n, sregOf (ctx t) n = if n = d ∧ n ≠ 0 then regVal s a + regVal s b else regVal s n

/-- R21-R31: decoding a well-formed slot instruction's word in its slot gives the instruction back, with every operand at every value that its
encoding holds. -/
def Obligations.DecodeEncodeAgree : Prop :=
  ∀ (i : Instr) (q : SlotKind), i.wf = true → i.info.slot = some q → decodeSlot q (encode i) = .ok i

/-- R24, R57: what a slot's decoder reads is well-formed, and (but for the event rows, which no word holds) it is an instruction of that slot. -/
def Obligations.DecodedIsWellFormed : Prop :=
  ∀ (q : SlotKind) (w : Nat) (i : Instr), decodeSlot q w = .ok i → i.wf = true ∧ (i = .nop ∨ i.info.slot = some q)

/-- R20-R31: words written out from the encodings of the manual decode to the instructions that they stand for. -/
def Obligations.WrittenWordsDecode : Prop :=
  decodeSlot .s 0x04A63800 = .ok (.add 5 6 7) ∧ decodeSlot .c 0x0D800000 = .ok (.br 3) ∧ decodeSlot .c 0xC0000005 = .ok (.trap 5) ∧
  decodeSlot .k 0x8C000300 = .ok (.pitFence 12) ∧ decodeSlot .s 0x00000001 = .error (.nopBits 1)

/-- The memory, the admitted text and every scratchpad keep their canonical form over every step, from any state in which they have it. The canonical
form, with 0 for a byte that nothing has written, is the model's choice (log 1); the latch storage, kept in the same form, is not part of this
statement. -/
def Obligations.StepKeepsMemoriesCanonical : Prop :=
  ∀ (s t : State), MemoriesCanonical s → step s = .next t → MemoriesCanonical t

/-- R19, R87, R109, R141, R213, R303, R324, R386 and the module's memories: what reset leaves. The values of the rules: the special registers at zero
but CAPF, an unbound variable with the bound 32,767, no wing enabled, no command queued, no mark initialised, and the clock at 4,000; that unlisted
bytes read 0 and that the memories are canonical is log 1. Registers without a stated reset value are log 8 and are not part of this statement. -/
def Obligations.ResetState : Prop :=
  let s := State.reset
  MemoriesCanonical s ∧ (∀ a, memGet s.mem a = 0) ∧ s.house.bootstat = 0 ∧ s.house.stagestat = 0 ∧ s.house.clock = 4000 ∧
  s.house.pstate = 0 ∧ s.house.throttle = 0 ∧
  (∀ d w, (wingOf s d w).qbase = 0 ∧ (wingOf s d w).qroot = 0 ∧ (wingOf s d w).dropped = 0) ∧
  (∀ d, (dieOf s d).ctab = 0 ∧ (dieOf s d).savebase = 0) ∧
  (∀ n, (∀ r, r ∈ [0x03, 0x04, 0x05, 0x08, 0x09, 0x0A, 0x0B, 0x0C, 0x0D, 0x0E, 0x0F, 0x10, 0x11, 0x12, 0x13, 0x14, 0x15, 0x16, 0x20, 0x21, 0x30,
      0x31, 0x40, 0x41, 0x42, 0x43, 0x48, 0x49, 0x4A, 0x4B] → sysRead s n r = 0) ∧ sysRead s n 0x32 = 0x100 ∧
    (coreOf s n).status = .idle ∧ (coreOf s n).ctx.mq = [] ∧ (coreOf s n).ctx.kq0 = [] ∧ (coreOf s n).ctx.kq1 = [] ∧
    (∀ m, (markOf (coreOf s n) m).inited = false) ∧ (∀ k, dimOf (coreOf s n).ctx k = ⟨32767, none⟩) ∧
    (∀ g, (pitOf s g).queue = []))
end

