-- ==== Sys2Proof/Laws/Map.lean ====
section
/-! SUPPORT. Read after write on number maps and byte memory, and the canonical form: every memory operation keeps it, and canonical
memories that read alike are equal. -/

namespace Sys2Proof.Machine

variable {α : Type}

/-! ### Number maps -/

theorem mget_mput_same (d : α) (k : Nat) (v : α) (m : List (Nat × α)) : mget d k (mput k v m) = v := by
  induction m with
  | nil => simp [mput, mget]
  | cons e r ih =>
    simp only [mput]
    split
    · simp [mget]
    · split
      · simp [mget]
      · rename_i h; simp [mget, h, ih]

theorem mget_mput_other (d : α) {j k : Nat} (h : j ≠ k) (v : α) (m : List (Nat × α)) : mget d j (mput k v m) = mget d j m := by
  induction m with
  | nil => simp [mput, mget, Ne.symm h]
  | cons e r ih =>
    simp only [mput]
    split
    · simp [mget, Ne.symm h]
    · split
      · rename_i h1; subst h1; simp [mget, Ne.symm h]
      · simp [mget, ih]

/-- Read after write, both cases at once. -/
theorem mget_mput (d : α) (j k : Nat) (v : α) (m : List (Nat × α)) : mget d j (mput k v m) = if j = k then v else mget d j m := by
  split
  · rename_i h; subst h; exact mget_mput_same d j v m
  · rename_i h; exact mget_mput_other d h v m

/-- Strictly rising keys, as a relation between any two places. -/
theorem keysRise_iff (m : List (Nat × α)) : keysRise m = true ↔ m.Pairwise fun a b => a.1 < b.1 := by
  induction m with
  | nil => simp [keysRise]
  | cons e r ih =>
    cases r with
    | nil => simp [keysRise]
    | cons f t =>
      simp only [keysRise, Bool.and_eq_true, decide_eq_true_eq, ih, List.pairwise_cons]
      constructor
      · rintro ⟨h, h2, h3⟩
        refine ⟨fun x hx => ?_, h2, h3⟩
        rcases List.mem_cons.1 hx with rfl | hx
        · exact h
        · exact Nat.lt_trans h (h2 x hx)
      · rintro ⟨h1, h2, h3⟩
        exact ⟨h1 f (List.mem_cons_self ..), h2, h3⟩

theorem mem_mput {k : Nat} {v : α} {m : List (Nat × α)} {e : Nat × α} (h : e ∈ mput k v m) : e = (k, v) ∨ e ∈ m := by
  induction m with
  | nil => left; simpa [mput] using h
  | cons f r ih =>
    simp only [mput] at h
    split at h
    · simpa using h
    · split at h
      · rcases List.mem_cons.1 h with h | h
        · exact .inl h
        · exact .inr (List.mem_cons_of_mem _ h)
      · rcases List.mem_cons.1 h with rfl | h
        · exact .inr (List.mem_cons_self ..)
        · exact (ih h).imp_right (List.mem_cons_of_mem _)

theorem keysRise_mput (k : Nat) (v : α) {m : List (Nat × α)} (h : keysRise m = true) : keysRise (mput k v m) = true := by
  rw [keysRise_iff] at *
  induction m with
  | nil => simp [mput]
  | cons f r ih =>
    have h' := List.pairwise_cons.1 h
    simp only [mput]
    split
    · rename_i hk
      refine List.pairwise_cons.2 ⟨fun x hx => ?_, h⟩
      rcases List.mem_cons.1 hx with rfl | hx
      · exact hk
      · exact Nat.lt_trans hk (h'.1 x hx)
    · split
      · rename_i hk; subst hk; exact List.pairwise_cons.2 ⟨h'.1, h'.2⟩
      · refine List.pairwise_cons.2 ⟨fun x hx => ?_, ih h'.2⟩
        rcases mem_mput hx with rfl | hx
        · omega
        · exact h'.1 x hx

theorem mget_absent (d : α) {k : Nat} {m : List (Nat × α)} (h : ∀ e ∈ m, e.1 ≠ k) : mget d k m = d := by
  induction m with
  | nil => rfl
  | cons e r ih =>
    simp only [mget, h e (List.mem_cons_self ..), if_false]
    exact ih fun x hx => h x (List.mem_cons_of_mem _ hx)

theorem mget_mem (d : α) {m : List (Nat × α)} (h : keysRise m = true) {e : Nat × α} (he : e ∈ m) : mget d e.1 m = e.2 := by
  rw [keysRise_iff] at h
  induction m with
  | nil => cases he
  | cons f r ih =>
    have h' := List.pairwise_cons.1 h
    rcases List.mem_cons.1 he with rfl | he
    · simp [mget]
    · have : f.1 ≠ e.1 := Nat.ne_of_lt (h'.1 e he)
      simp only [mget, this, if_false]
      exact ih h'.2 he

/-- What a map gives is its default or the value of one of its entries. -/
theorem mget_cases (d : α) (k : Nat) (m : List (Nat × α)) : mget d k m = d ∨ ∃ e ∈ m, e.1 = k ∧ mget d k m = e.2 := by
  induction m with
  | nil => exact .inl rfl
  | cons e r ih =>
    by_cases h : e.1 = k
    · exact .inr ⟨e, List.mem_cons_self .., h, by simp [mget, h]⟩
    · simp only [mget, h, if_false]
      exact ih.imp_right fun ⟨x, hx, h1, h2⟩ => ⟨x, List.mem_cons_of_mem _ hx, h1, h2⟩

theorem mget_append_absent (d : α) {k : Nat} (a b : List (Nat × α)) (h : ∀ e ∈ a, e.1 ≠ k) : mget d k (a ++ b) = mget d k b := by
  induction a with
  | nil => rfl
  | cons e r ih =>
    simp only [List.cons_append, mget, h e (List.mem_cons_self ..), if_false]
    exact ih fun x hx => h x (List.mem_cons_of_mem _ hx)

theorem mget_append_right (d : α) {k : Nat} (a b : List (Nat × α)) (h : ∀ e ∈ b, e.1 ≠ k) : mget d k (a ++ b) = mget d k a := by
  induction a with
  | nil => rw [List.nil_append, mget_absent d h]; rfl
  | cons e r ih =>
    simp only [List.cons_append, mget]
    split
    · rfl
    · exact ih

theorem mget_filter (d : α) {k : Nat} (p : Nat × α → Bool) (m : List (Nat × α)) (h : ∀ e, e.1 = k → p e = true) :
    mget d k (m.filter p) = mget d k m := by
  induction m with
  | nil => rfl
  | cons e r ih =>
    by_cases hk : e.1 = k
    · simp [h e hk, mget, hk]
    · by_cases hp : p e = true
      · simp [hp, mget, hk, ih]
      · simp [hp, mget, hk, ih]

/-! ### The canonical form -/

theorem Memory.wf_iff (m : Memory) : Memory.wf m = true ↔ (m.Pairwise fun a b => a.1 < b.1) ∧ ∀ e ∈ m, e.2 ≠ 0#8 := by
  simp [Memory.wf, keysRise_iff]

@[simp] theorem Memory.wf_nil : Memory.wf [] = true := rfl

theorem memSet_above {a : Nat} {v : Byte} {m : Memory} {b : Nat} (h : ∀ e ∈ m, b < e.1) (hb : b < a) : ∀ e ∈ memSet a v m, b < e.1 := by
  induction m with
  | nil => intro e he; simp only [memSet, memCons] at he; split at he <;> simp_all
  | cons f r ih =>
    intro e he
    simp only [memSet] at he
    have hf := h f (List.mem_cons_self ..)
    have hr : ∀ e ∈ r, b < e.1 := fun x hx => h x (List.mem_cons_of_mem _ hx)
    split at he
    · simp only [memCons] at he; split at he
      · exact h e he
      · rcases List.mem_cons.1 he with rfl | he
        · exact hb
        · exact h e he
    · split at he
      · simp only [memCons] at he; split at he
        · exact hr e he
        · rcases List.mem_cons.1 he with rfl | he
          · exact hb
          · exact hr e he
      · rcases List.mem_cons.1 he with rfl | he
        · exact hf
        · exact ih hr e he

/-- Writing a byte keeps the canonical form. -/
theorem wf_memSet (a : Nat) (v : Byte) {m : Memory} (h : Memory.wf m = true) : Memory.wf (memSet a v m) = true := by
  rw [Memory.wf_iff] at *
  induction m with
  | nil => simp only [memSet, memCons]; split <;> simp_all
  | cons f r ih =>
    obtain ⟨hp, hz⟩ := h
    have hp' := List.pairwise_cons.1 hp
    have hz' : ∀ e ∈ r, e.2 ≠ 0#8 := fun x hx => hz x (List.mem_cons_of_mem _ hx)
    simp only [memSet]
    split
    · rename_i ha
      simp only [memCons]; split
      · exact ⟨hp, hz⟩
      · rename_i hv
        refine ⟨List.pairwise_cons.2 ⟨fun x hx => ?_, hp⟩, fun x hx => ?_⟩
        · rcases List.mem_cons.1 hx with rfl | hx
          · exact ha
          · exact Nat.lt_trans ha (hp'.1 x hx)
        · rcases List.mem_cons.1 hx with rfl | hx
          · exact hv
          · exact hz x hx
    · split
      · rename_i ha; subst ha
        simp only [memCons]; split
        · exact ⟨hp'.2, hz'⟩
        · rename_i hv
          refine ⟨List.pairwise_cons.2 ⟨hp'.1, hp'.2⟩, fun x hx => ?_⟩
          rcases List.mem_cons.1 hx with rfl | hx
          · exact hv
          · exact hz' x hx
      · have := ih ⟨hp'.2, hz'⟩
        refine ⟨List.pairwise_cons.2 ⟨memSet_above hp'.1 (by omega), this.1⟩, fun x hx => ?_⟩
        rcases List.mem_cons.1 hx with rfl | hx
        · exact hz _ (List.mem_cons_self ..)
        · exact this.2 x hx

/-- Writing bytes one by one keeps the canonical form. -/
theorem wf_memWrite (bs : List Byte) (a : Nat) {m : Memory} (h : Memory.wf m = true) : Memory.wf (memWrite m a bs) = true := by
  induction bs generalizing a m with
  | nil => exact h
  | cons b r ih => exact ih (a + 1) (wf_memSet a b h)

theorem memCells_range {a : Nat} {bs : List Byte} {e : Host.Cell} (h : e ∈ memCells a bs) : a ≤ e.1 ∧ e.1 < a + bs.length ∧ e.2 ≠ 0#8 := by
  induction bs generalizing a with
  | nil => cases h
  | cons b r ih =>
    simp only [memCells, memCons] at h
    have step (h : e ∈ memCells (a + 1) r) : a ≤ e.1 ∧ e.1 < a + (b :: r).length ∧ e.2 ≠ 0#8 := by
      obtain ⟨h1, h2, h3⟩ := ih h
      simp only [List.length_cons]
      exact ⟨by omega, by omega, h3⟩
    split at h
    · exact step h
    · rename_i hb
      rcases List.mem_cons.1 h with rfl | h
      · exact ⟨Nat.le_refl _, by simp, hb⟩
      · exact step h

theorem memCells_rise (a : Nat) (bs : List Byte) : (memCells a bs).Pairwise fun x y => x.1 < y.1 := by
  induction bs generalizing a with
  | nil => exact List.Pairwise.nil
  | cons b r ih =>
    simp only [memCells, memCons]
    split
    · exact ih _
    · exact List.pairwise_cons.2 ⟨fun x hx => by have := (memCells_range hx).1; omega, ih _⟩

/-- Writing a range at once keeps the canonical form. -/
theorem wf_memBlock (bs : List Byte) (a : Nat) {m : Memory} (h : Memory.wf m = true) : Memory.wf (memBlock m a bs) = true := by
  rw [Memory.wf_iff] at *
  obtain ⟨hp, hz⟩ := h
  unfold memBlock
  refine ⟨List.pairwise_append.2 ⟨hp.filter _, List.pairwise_append.2 ⟨memCells_rise a bs, hp.filter _, ?_⟩, ?_⟩, ?_⟩
  · intro x hx y hy
    have := (memCells_range hx).2.1
    have := of_decide_eq_true (List.mem_filter.1 hy).2
    omega
  · intro x hx y hy
    have h1 := of_decide_eq_true (List.mem_filter.1 hx).2
    rcases List.mem_append.1 hy with hy | hy
    · have := (memCells_range hy).1; omega
    · have := of_decide_eq_true (List.mem_filter.1 hy).2; omega
  · intro x hx
    rcases List.mem_append.1 hx with hx | hx
    · exact hz x (List.mem_filter.1 hx).1
    · rcases List.mem_append.1 hx with hx | hx
      · exact (memCells_range hx).2.2
      · exact hz x (List.mem_filter.1 hx).1

/-! ### Read after write -/

theorem memGet_absent {m : Memory} {a : Nat} (h : ∀ e ∈ m, e.1 ≠ a) : memGet m a = 0#8 := mget_absent _ h

/-- One byte written: it reads as written, every other byte as before. -/
theorem memGet_memSet (a b : Nat) (v : Byte) {m : Memory} (h : Memory.wf m = true) :
    memGet (memSet a v m) b = if b = a then v else memGet m b := by
  have hp := ((Memory.wf_iff m).1 h).1
  clear h
  unfold memGet
  induction m with
  | nil =>
    simp only [memSet, memCons]
    by_cases hv : v = 0#8 <;> by_cases hb : b = a
    · simp [hv, hb, mget]
    · simp [hv, hb, mget]
    · simp [hv, hb, mget]
    · simp [hv, hb, mget, Ne.symm hb]
  | cons f r ih =>
    have hp' := List.pairwise_cons.1 hp
    simp only [memSet]
    split
    · rename_i ha
      have absent : b = a → mget 0#8 b (f :: r) = 0#8 := by
        rintro rfl
        refine mget_absent _ fun e he => ?_
        rcases List.mem_cons.1 he with rfl | he
        · omega
        · have := hp'.1 e he; omega
      simp only [memCons]
      split
      · rename_i hv; subst hv
        split
        · exact absent ‹_›
        · rfl
      · split
        · rename_i hb; subst hb; simp [mget]
        · rename_i hb; exact if_neg (Ne.symm hb)
    · split
      · rename_i ha; subst ha
        simp only [memCons]
        split
        · rename_i hv; subst hv
          split
          · rename_i hb; subst hb
            exact mget_absent _ fun e he => by have := hp'.1 e he; omega
          · rename_i hb; simp [mget, Ne.symm hb]
        · split
          · rename_i hb; subst hb; simp [mget]
          · rename_i hb; simp [mget, Ne.symm hb]
      · rename_i h1 h2
        simp only [mget]
        split
        · rename_i hb; subst hb; split
          · rename_i h; subst h; exact absurd rfl h2
          · rfl
        · exact ih hp'.2

theorem memGet_memCells (a : Nat) (bs : List Byte) (b : Nat) (h1 : a ≤ b) (h2 : b < a + bs.length) :
    memGet (memCells a bs) b = bs.getD (b - a) 0#8 := by
  unfold memGet
  induction bs generalizing a with
  | nil => simp at h2; omega
  | cons x r ih =>
    simp only [memCells, memCons]
    by_cases hb : b = a
    · subst hb
      have habs : mget 0#8 b (memCells (b + 1) r) = 0#8 :=
        mget_absent _ fun e he => by have := (memCells_range he).1; omega
      split
      · rename_i hx; subst hx; simpa using habs
      · simp [mget]
    · have h3 : a + 1 ≤ b := by omega
      have h4 : b < a + 1 + r.length := by simp only [List.length_cons] at h2; omega
      have := ih (a + 1) h3 h4
      have hs : b - a = (b - (a + 1)) + 1 := by omega
      split
      · rw [this, hs]; simp
      · rw [mget, if_neg (by simpa using Ne.symm hb), this, hs]; simp

/-- A range written: inside it the bytes given, outside it what was there. -/
theorem memGet_memBlock (m : Memory) (a : Nat) (bs : List Byte) (b : Nat) :
    memGet (memBlock m a bs) b = if a ≤ b ∧ b < a + bs.length then bs.getD (b - a) 0#8 else memGet m b := by
  unfold memBlock
  split
  · rename_i h
    rw [← memGet_memCells a bs b h.1 h.2]
    unfold memGet
    rw [mget_append_absent, mget_append_right]
    · intro e he; have := of_decide_eq_true (List.mem_filter.1 he).2; omega
    · intro e he; have := of_decide_eq_true (List.mem_filter.1 he).2; omega
  · rename_i h
    unfold memGet
    by_cases hb : b < a
    · rw [mget_append_right]
      · exact mget_filter _ _ _ fun e he => by simp [he, hb]
      · intro e he
        rcases List.mem_append.1 he with he | he
        · have := (memCells_range he).1; omega
        · have := of_decide_eq_true (List.mem_filter.1 he).2; omega
    · rw [mget_append_absent, mget_append_absent]
      · exact mget_filter _ _ _ fun e he => by simp [he]; omega
      · intro e he; have := (memCells_range he).2.1; omega
      · intro e he; have := of_decide_eq_true (List.mem_filter.1 he).2; omega

/-- Canonical memories that read alike are equal. -/
theorem Memory.ext_of_memGet {m n : Memory} (hm : Memory.wf m = true) (hn : Memory.wf n = true) (h : ∀ a, memGet m a = memGet n a) :
    m = n := by
  have key : ∀ {m n : Memory}, Memory.wf m = true → Memory.wf n = true → (∀ a, memGet m a = memGet n a) → ∀ e ∈ m, e ∈ n := by
    intro m n hm hn h e he
    have hm' := (Memory.wf_iff m).1 hm
    have hk : keysRise m = true := (keysRise_iff m).2 hm'.1
    have h1 : memGet m e.1 = e.2 := mget_mem _ hk he
    rcases mget_cases 0#8 e.1 n with h2 | ⟨x, hx, h2, h3⟩
    · exact absurd (h1.symm.trans ((h e.1).trans h2)) (hm'.2 e he)
    · have : e = x := Prod.ext h2.symm (h1.symm.trans ((h e.1).trans h3))
      exact this ▸ hx
  have hm' := (Memory.wf_iff m).1 hm
  have hn' := (Memory.wf_iff n).1 hn
  have nd : ∀ {m : Memory}, (m.Pairwise fun a b => a.1 < b.1) → m.Nodup := fun hp => hp.imp fun {a b} hab heq => by subst heq; omega
  refine List.Perm.eq_of_pairwise (le := fun a b => a.1 < b.1) (fun a b _ _ h1 h2 => by omega) hm'.1 hn'.1 ?_
  exact (List.perm_ext_iff_of_nodup (nd hm'.1) (nd hn'.1)).2 fun e => ⟨key hm hn h e, key hn hm (fun a => (h a).symm) e⟩

end Sys2Proof.Machine
end

