-- ==== Sys2Proof/Laws/State.lean ====
section
/-! SUPPORT. One lemma per field per update: what each shared update leaves in each field of the state and of a context. -/

namespace Sys2Proof.Machine

/-! ### Cores, dies, pit engines -/

@[simp] theorem setCoreOf_focus (s : State) (n : Nat) (c : Core) : (setCoreOf s n c).focus = s.focus := rfl
@[simp] theorem setCoreOf_agenda (s : State) (n : Nat) (c : Core) : (setCoreOf s n c).agenda = s.agenda := rfl
@[simp] theorem setCoreOf_uses (s : State) (n : Nat) (c : Core) : (setCoreOf s n c).uses = s.uses := rfl
@[simp] theorem setCoreOf_issue (s : State) (n : Nat) (c : Core) : (setCoreOf s n c).issue = s.issue := rfl
@[simp] theorem setCoreOf_cores (s : State) (n : Nat) (c : Core) : (setCoreOf s n c).cores = mput n c s.cores := rfl
@[simp] theorem setCoreOf_dies (s : State) (n : Nat) (c : Core) : (setCoreOf s n c).dies = s.dies := rfl
@[simp] theorem setCoreOf_house (s : State) (n : Nat) (c : Core) : (setCoreOf s n c).house = s.house := rfl
@[simp] theorem setCoreOf_pits (s : State) (n : Nat) (c : Core) : (setCoreOf s n c).pits = s.pits := rfl
@[simp] theorem setCoreOf_mem (s : State) (n : Nat) (c : Core) : (setCoreOf s n c).mem = s.mem := rfl
@[simp] theorem setCoreOf_bad (s : State) (n : Nat) (c : Core) : (setCoreOf s n c).bad = s.bad := rfl
@[simp] theorem setCoreOf_reply (s : State) (n : Nat) (c : Core) : (setCoreOf s n c).reply = s.reply := rfl
@[simp] theorem setCoreOf_sensors (s : State) (n : Nat) (c : Core) : (setCoreOf s n c).sensors = s.sensors := rfl
@[simp] theorem setCoreOf_rels (s : State) (n : Nat) (c : Core) : (setCoreOf s n c).rels = s.rels := rfl

@[simp] theorem setCur_focus (s : State) (c : Core) : (setCur s c).focus = s.focus := rfl
@[simp] theorem setCur_agenda (s : State) (c : Core) : (setCur s c).agenda = s.agenda := rfl
@[simp] theorem setCur_uses (s : State) (c : Core) : (setCur s c).uses = s.uses := rfl
@[simp] theorem setCur_issue (s : State) (c : Core) : (setCur s c).issue = s.issue := rfl
@[simp] theorem setCur_cores (s : State) (c : Core) : (setCur s c).cores = mput s.focus c s.cores := rfl
@[simp] theorem setCur_dies (s : State) (c : Core) : (setCur s c).dies = s.dies := rfl
@[simp] theorem setCur_house (s : State) (c : Core) : (setCur s c).house = s.house := rfl
@[simp] theorem setCur_pits (s : State) (c : Core) : (setCur s c).pits = s.pits := rfl
@[simp] theorem setCur_mem (s : State) (c : Core) : (setCur s c).mem = s.mem := rfl
@[simp] theorem setCur_bad (s : State) (c : Core) : (setCur s c).bad = s.bad := rfl
@[simp] theorem setCur_reply (s : State) (c : Core) : (setCur s c).reply = s.reply := rfl
@[simp] theorem setCur_sensors (s : State) (c : Core) : (setCur s c).sensors = s.sensors := rfl
@[simp] theorem setCur_rels (s : State) (c : Core) : (setCur s c).rels = s.rels := rfl

@[simp] theorem setCtx_focus (s : State) (x : Ctxt) : (setCtx s x).focus = s.focus := rfl
@[simp] theorem setCtx_agenda (s : State) (x : Ctxt) : (setCtx s x).agenda = s.agenda := rfl
@[simp] theorem setCtx_uses (s : State) (x : Ctxt) : (setCtx s x).uses = s.uses := rfl
@[simp] theorem setCtx_issue (s : State) (x : Ctxt) : (setCtx s x).issue = s.issue := rfl
@[simp] theorem setCtx_dies (s : State) (x : Ctxt) : (setCtx s x).dies = s.dies := rfl
@[simp] theorem setCtx_house (s : State) (x : Ctxt) : (setCtx s x).house = s.house := rfl
@[simp] theorem setCtx_pits (s : State) (x : Ctxt) : (setCtx s x).pits = s.pits := rfl
@[simp] theorem setCtx_mem (s : State) (x : Ctxt) : (setCtx s x).mem = s.mem := rfl
@[simp] theorem setCtx_bad (s : State) (x : Ctxt) : (setCtx s x).bad = s.bad := rfl
@[simp] theorem setCtx_reply (s : State) (x : Ctxt) : (setCtx s x).reply = s.reply := rfl
@[simp] theorem setCtx_sensors (s : State) (x : Ctxt) : (setCtx s x).sensors = s.sensors := rfl
@[simp] theorem setCtx_rels (s : State) (x : Ctxt) : (setCtx s x).rels = s.rels := rfl

@[simp] theorem setDie_focus (s : State) (d : Nat) (x : Die) : (setDie s d x).focus = s.focus := rfl
@[simp] theorem setDie_agenda (s : State) (d : Nat) (x : Die) : (setDie s d x).agenda = s.agenda := rfl
@[simp] theorem setDie_uses (s : State) (d : Nat) (x : Die) : (setDie s d x).uses = s.uses := rfl
@[simp] theorem setDie_issue (s : State) (d : Nat) (x : Die) : (setDie s d x).issue = s.issue := rfl
@[simp] theorem setDie_cores (s : State) (d : Nat) (x : Die) : (setDie s d x).cores = s.cores := rfl
@[simp] theorem setDie_dies (s : State) (d : Nat) (x : Die) : (setDie s d x).dies = mput d x s.dies := rfl
@[simp] theorem setDie_house (s : State) (d : Nat) (x : Die) : (setDie s d x).house = s.house := rfl
@[simp] theorem setDie_pits (s : State) (d : Nat) (x : Die) : (setDie s d x).pits = s.pits := rfl
@[simp] theorem setDie_mem (s : State) (d : Nat) (x : Die) : (setDie s d x).mem = s.mem := rfl
@[simp] theorem setDie_bad (s : State) (d : Nat) (x : Die) : (setDie s d x).bad = s.bad := rfl
@[simp] theorem setDie_reply (s : State) (d : Nat) (x : Die) : (setDie s d x).reply = s.reply := rfl
@[simp] theorem setDie_sensors (s : State) (d : Nat) (x : Die) : (setDie s d x).sensors = s.sensors := rfl
@[simp] theorem setDie_rels (s : State) (d : Nat) (x : Die) : (setDie s d x).rels = s.rels := rfl

@[simp] theorem setPit_focus (s : State) (p : Nat) (x : Pit) : (setPit s p x).focus = s.focus := rfl
@[simp] theorem setPit_agenda (s : State) (p : Nat) (x : Pit) : (setPit s p x).agenda = s.agenda := rfl
@[simp] theorem setPit_uses (s : State) (p : Nat) (x : Pit) : (setPit s p x).uses = s.uses := rfl
@[simp] theorem setPit_issue (s : State) (p : Nat) (x : Pit) : (setPit s p x).issue = s.issue := rfl
@[simp] theorem setPit_cores (s : State) (p : Nat) (x : Pit) : (setPit s p x).cores = s.cores := rfl
@[simp] theorem setPit_dies (s : State) (p : Nat) (x : Pit) : (setPit s p x).dies = s.dies := rfl
@[simp] theorem setPit_house (s : State) (p : Nat) (x : Pit) : (setPit s p x).house = s.house := rfl
@[simp] theorem setPit_pits (s : State) (p : Nat) (x : Pit) : (setPit s p x).pits = mput p x s.pits := rfl
@[simp] theorem setPit_mem (s : State) (p : Nat) (x : Pit) : (setPit s p x).mem = s.mem := rfl
@[simp] theorem setPit_bad (s : State) (p : Nat) (x : Pit) : (setPit s p x).bad = s.bad := rfl
@[simp] theorem setPit_reply (s : State) (p : Nat) (x : Pit) : (setPit s p x).reply = s.reply := rfl
@[simp] theorem setPit_sensors (s : State) (p : Nat) (x : Pit) : (setPit s p x).sensors = s.sensors := rfl
@[simp] theorem setPit_rels (s : State) (p : Nat) (x : Pit) : (setPit s p x).rels = s.rels := rfl

/-! ### The error log, free values, errors healed -/

@[simp] theorem logErr_focus (s : State) (k : LogKind) (a b c : Nat) : (logErr s k a b c).focus = s.focus := rfl
@[simp] theorem logErr_agenda (s : State) (k : LogKind) (a b c : Nat) : (logErr s k a b c).agenda = s.agenda := rfl
@[simp] theorem logErr_uses (s : State) (k : LogKind) (a b c : Nat) : (logErr s k a b c).uses = s.uses := rfl
@[simp] theorem logErr_issue (s : State) (k : LogKind) (a b c : Nat) : (logErr s k a b c).issue = s.issue := rfl
@[simp] theorem logErr_cores (s : State) (k : LogKind) (a b c : Nat) : (logErr s k a b c).cores = s.cores := rfl
@[simp] theorem logErr_dies (s : State) (k : LogKind) (a b c : Nat) : (logErr s k a b c).dies = s.dies := rfl
@[simp] theorem logErr_pits (s : State) (k : LogKind) (a b c : Nat) : (logErr s k a b c).pits = s.pits := rfl
@[simp] theorem logErr_mem (s : State) (k : LogKind) (a b c : Nat) : (logErr s k a b c).mem = s.mem := rfl
@[simp] theorem logErr_bad (s : State) (k : LogKind) (a b c : Nat) : (logErr s k a b c).bad = s.bad := rfl
@[simp] theorem logErr_reply (s : State) (k : LogKind) (a b c : Nat) : (logErr s k a b c).reply = s.reply := rfl
@[simp] theorem logErr_sensors (s : State) (k : LogKind) (a b c : Nat) : (logErr s k a b c).sensors = s.sensors := rfl
@[simp] theorem logErr_rels (s : State) (k : LogKind) (a b c : Nat) : (logErr s k a b c).rels = s.rels := rfl
@[simp] theorem logErr_text (s : State) (k : LogKind) (a b c : Nat) : (logErr s k a b c).house.text = s.house.text := rfl
@[simp] theorem logErr4_focus (s : State) (k : LogKind) (a b c d : Nat) : (logErr4 s k a b c d).focus = s.focus := rfl
@[simp] theorem logErr4_agenda (s : State) (k : LogKind) (a b c d : Nat) : (logErr4 s k a b c d).agenda = s.agenda := rfl
@[simp] theorem logErr4_uses (s : State) (k : LogKind) (a b c d : Nat) : (logErr4 s k a b c d).uses = s.uses := rfl
@[simp] theorem logErr4_issue (s : State) (k : LogKind) (a b c d : Nat) : (logErr4 s k a b c d).issue = s.issue := rfl
@[simp] theorem logErr4_cores (s : State) (k : LogKind) (a b c d : Nat) : (logErr4 s k a b c d).cores = s.cores := rfl
@[simp] theorem logErr4_dies (s : State) (k : LogKind) (a b c d : Nat) : (logErr4 s k a b c d).dies = s.dies := rfl
@[simp] theorem logErr4_pits (s : State) (k : LogKind) (a b c d : Nat) : (logErr4 s k a b c d).pits = s.pits := rfl
@[simp] theorem logErr4_mem (s : State) (k : LogKind) (a b c d : Nat) : (logErr4 s k a b c d).mem = s.mem := rfl
@[simp] theorem logErr4_bad (s : State) (k : LogKind) (a b c d : Nat) : (logErr4 s k a b c d).bad = s.bad := rfl
@[simp] theorem logErr4_reply (s : State) (k : LogKind) (a b c d : Nat) : (logErr4 s k a b c d).reply = s.reply := rfl
@[simp] theorem logErr4_sensors (s : State) (k : LogKind) (a b c d : Nat) : (logErr4 s k a b c d).sensors = s.sensors := rfl
@[simp] theorem logErr4_rels (s : State) (k : LogKind) (a b c d : Nat) : (logErr4 s k a b c d).rels = s.rels := rfl
@[simp] theorem logErr4_text (s : State) (k : LogKind) (a b c d : Nat) : (logErr4 s k a b c d).house.text = s.house.text := rfl

@[simp] theorem useFree_focus (s : State) : (useFree s).focus = s.focus := rfl
@[simp] theorem useFree_agenda (s : State) : (useFree s).agenda = s.agenda := rfl
@[simp] theorem useFree_uses (s : State) : (useFree s).uses = s.uses + 65536 := rfl
@[simp] theorem useFree_issue (s : State) : (useFree s).issue = s.issue := rfl
@[simp] theorem useFree_cores (s : State) : (useFree s).cores = s.cores := rfl
@[simp] theorem useFree_dies (s : State) : (useFree s).dies = s.dies := rfl
@[simp] theorem useFree_house (s : State) : (useFree s).house = s.house := rfl
@[simp] theorem useFree_pits (s : State) : (useFree s).pits = s.pits := rfl
@[simp] theorem useFree_mem (s : State) : (useFree s).mem = s.mem := rfl
@[simp] theorem useFree_bad (s : State) : (useFree s).bad = s.bad := rfl
@[simp] theorem useFree_reply (s : State) : (useFree s).reply = s.reply := rfl
@[simp] theorem useFree_rels (s : State) : (useFree s).rels = s.rels := rfl

@[simp] theorem useOne_focus (s : State) : (useOne s).focus = s.focus := rfl
@[simp] theorem useOne_agenda (s : State) : (useOne s).agenda = s.agenda := rfl
@[simp] theorem useOne_uses (s : State) : (useOne s).uses = s.uses + 1 := rfl
@[simp] theorem useOne_issue (s : State) : (useOne s).issue = s.issue := rfl
@[simp] theorem useOne_cores (s : State) : (useOne s).cores = s.cores := rfl
@[simp] theorem useOne_dies (s : State) : (useOne s).dies = s.dies := rfl
@[simp] theorem useOne_house (s : State) : (useOne s).house = s.house := rfl
@[simp] theorem useOne_pits (s : State) : (useOne s).pits = s.pits := rfl
@[simp] theorem useOne_mem (s : State) : (useOne s).mem = s.mem := rfl
@[simp] theorem useOne_bad (s : State) : (useOne s).bad = s.bad := rfl
@[simp] theorem useOne_reply (s : State) : (useOne s).reply = s.reply := rfl
@[simp] theorem useOne_sensors (s : State) : (useOne s).sensors = s.sensors := rfl
@[simp] theorem useOne_rels (s : State) : (useOne s).rels = s.rels := rfl

@[simp] theorem heal_focus (s : State) (pa n : Nat) : (heal s pa n).focus = s.focus := rfl
@[simp] theorem heal_agenda (s : State) (pa n : Nat) : (heal s pa n).agenda = s.agenda := rfl
@[simp] theorem heal_uses (s : State) (pa n : Nat) : (heal s pa n).uses = s.uses := rfl
@[simp] theorem heal_issue (s : State) (pa n : Nat) : (heal s pa n).issue = s.issue := rfl
@[simp] theorem heal_cores (s : State) (pa n : Nat) : (heal s pa n).cores = s.cores := rfl
@[simp] theorem heal_dies (s : State) (pa n : Nat) : (heal s pa n).dies = s.dies := rfl
@[simp] theorem heal_house (s : State) (pa n : Nat) : (heal s pa n).house = s.house := rfl
@[simp] theorem heal_pits (s : State) (pa n : Nat) : (heal s pa n).pits = s.pits := rfl
@[simp] theorem heal_mem (s : State) (pa n : Nat) : (heal s pa n).mem = s.mem := rfl
@[simp] theorem heal_reply (s : State) (pa n : Nat) : (heal s pa n).reply = s.reply := rfl
@[simp] theorem heal_sensors (s : State) (pa n : Nat) : (heal s pa n).sensors = s.sensors := rfl
@[simp] theorem heal_rels (s : State) (pa n : Nat) : (heal s pa n).rels = s.rels := rfl

@[simp] theorem withdrawn_focus (s : State) (pa n : Nat) : (withdrawn s pa n).focus = s.focus := rfl
@[simp] theorem withdrawn_agenda (s : State) (pa n : Nat) : (withdrawn s pa n).agenda = s.agenda := rfl
@[simp] theorem withdrawn_uses (s : State) (pa n : Nat) : (withdrawn s pa n).uses = s.uses := rfl
@[simp] theorem withdrawn_issue (s : State) (pa n : Nat) : (withdrawn s pa n).issue = s.issue := rfl
@[simp] theorem withdrawn_cores (s : State) (pa n : Nat) : (withdrawn s pa n).cores = s.cores := rfl
@[simp] theorem withdrawn_dies (s : State) (pa n : Nat) : (withdrawn s pa n).dies = s.dies := rfl
@[simp] theorem withdrawn_pits (s : State) (pa n : Nat) : (withdrawn s pa n).pits = s.pits := rfl
@[simp] theorem withdrawn_mem (s : State) (pa n : Nat) : (withdrawn s pa n).mem = s.mem := rfl
@[simp] theorem withdrawn_bad (s : State) (pa n : Nat) : (withdrawn s pa n).bad = s.bad := rfl
@[simp] theorem withdrawn_reply (s : State) (pa n : Nat) : (withdrawn s pa n).reply = s.reply := rfl
@[simp] theorem withdrawn_sensors (s : State) (pa n : Nat) : (withdrawn s pa n).sensors = s.sensors := rfl
@[simp] theorem withdrawn_rels (s : State) (pa n : Nat) : (withdrawn s pa n).rels = s.rels := rfl
@[simp] theorem withdrawn_text (s : State) (pa n : Nat) : (withdrawn s pa n).house.text = s.house.text := rfl

@[simp] theorem unreleased_focus (s : State) (pa n : Nat) : (unreleased s pa n).focus = s.focus := rfl
@[simp] theorem unreleased_agenda (s : State) (pa n : Nat) : (unreleased s pa n).agenda = s.agenda := rfl
@[simp] theorem unreleased_uses (s : State) (pa n : Nat) : (unreleased s pa n).uses = s.uses := rfl
@[simp] theorem unreleased_issue (s : State) (pa n : Nat) : (unreleased s pa n).issue = s.issue := rfl
@[simp] theorem unreleased_cores (s : State) (pa n : Nat) : (unreleased s pa n).cores = s.cores := rfl
@[simp] theorem unreleased_dies (s : State) (pa n : Nat) : (unreleased s pa n).dies = s.dies := rfl
@[simp] theorem unreleased_house (s : State) (pa n : Nat) : (unreleased s pa n).house = s.house := rfl
@[simp] theorem unreleased_pits (s : State) (pa n : Nat) : (unreleased s pa n).pits = s.pits := rfl
@[simp] theorem unreleased_mem (s : State) (pa n : Nat) : (unreleased s pa n).mem = s.mem := rfl
@[simp] theorem unreleased_bad (s : State) (pa n : Nat) : (unreleased s pa n).bad = s.bad := rfl
@[simp] theorem unreleased_reply (s : State) (pa n : Nat) : (unreleased s pa n).reply = s.reply := rfl
@[simp] theorem unreleased_sensors (s : State) (pa n : Nat) : (unreleased s pa n).sensors = s.sensors := rfl

@[simp] theorem released_focus (s : State) (pa n core level : Nat) : (released s pa n core level).focus = s.focus := rfl
@[simp] theorem released_agenda (s : State) (pa n core level : Nat) : (released s pa n core level).agenda = s.agenda := rfl
@[simp] theorem released_uses (s : State) (pa n core level : Nat) : (released s pa n core level).uses = s.uses := rfl
@[simp] theorem released_issue (s : State) (pa n core level : Nat) : (released s pa n core level).issue = s.issue := rfl
@[simp] theorem released_cores (s : State) (pa n core level : Nat) : (released s pa n core level).cores = s.cores := rfl
@[simp] theorem released_dies (s : State) (pa n core level : Nat) : (released s pa n core level).dies = s.dies := rfl
@[simp] theorem released_house (s : State) (pa n core level : Nat) : (released s pa n core level).house = s.house := rfl
@[simp] theorem released_pits (s : State) (pa n core level : Nat) : (released s pa n core level).pits = s.pits := rfl
@[simp] theorem released_mem (s : State) (pa n core level : Nat) : (released s pa n core level).mem = s.mem := rfl
@[simp] theorem released_bad (s : State) (pa n core level : Nat) : (released s pa n core level).bad = s.bad := rfl
@[simp] theorem released_reply (s : State) (pa n core level : Nat) : (released s pa n core level).reply = s.reply := rfl
@[simp] theorem released_sensors (s : State) (pa n core level : Nat) : (released s pa n core level).sensors = s.sensors := rfl

@[simp] theorem written_focus (s : State) (pa n : Nat) : (written s pa n).focus = s.focus := rfl
@[simp] theorem written_agenda (s : State) (pa n : Nat) : (written s pa n).agenda = s.agenda := rfl
@[simp] theorem written_uses (s : State) (pa n : Nat) : (written s pa n).uses = s.uses := rfl
@[simp] theorem written_issue (s : State) (pa n : Nat) : (written s pa n).issue = s.issue := rfl
@[simp] theorem written_cores (s : State) (pa n : Nat) : (written s pa n).cores = s.cores := rfl
@[simp] theorem written_dies (s : State) (pa n : Nat) : (written s pa n).dies = s.dies := rfl
@[simp] theorem written_pits (s : State) (pa n : Nat) : (written s pa n).pits = s.pits := rfl
@[simp] theorem written_mem (s : State) (pa n : Nat) : (written s pa n).mem = s.mem := rfl
@[simp] theorem written_reply (s : State) (pa n : Nat) : (written s pa n).reply = s.reply := rfl
@[simp] theorem written_sensors (s : State) (pa n : Nat) : (written s pa n).sensors = s.sensors := rfl
@[simp] theorem written_text (s : State) (pa n : Nat) : (written s pa n).house.text = s.house.text := rfl

@[simp] theorem testBegin_focus (s : State) (t : SelfTest) : (testBegin s t).focus = s.focus := rfl
@[simp] theorem testBegin_agenda (s : State) (t : SelfTest) : (testBegin s t).agenda = s.agenda := rfl
@[simp] theorem testBegin_uses (s : State) (t : SelfTest) : (testBegin s t).uses = s.uses := rfl
@[simp] theorem testBegin_issue (s : State) (t : SelfTest) : (testBegin s t).issue = s.issue := rfl
@[simp] theorem testBegin_cores (s : State) (t : SelfTest) : (testBegin s t).cores = s.cores := rfl
@[simp] theorem testBegin_dies (s : State) (t : SelfTest) : (testBegin s t).dies = s.dies := rfl
@[simp] theorem testBegin_pits (s : State) (t : SelfTest) : (testBegin s t).pits = s.pits := rfl
@[simp] theorem testBegin_mem (s : State) (t : SelfTest) : (testBegin s t).mem = s.mem := rfl
@[simp] theorem testBegin_bad (s : State) (t : SelfTest) : (testBegin s t).bad = s.bad := rfl
@[simp] theorem testBegin_reply (s : State) (t : SelfTest) : (testBegin s t).reply = s.reply := rfl
@[simp] theorem testBegin_sensors (s : State) (t : SelfTest) : (testBegin s t).sensors = s.sensors := rfl
@[simp] theorem testBegin_rels (s : State) (t : SelfTest) : (testBegin s t).rels = s.rels := rfl
@[simp] theorem testBegin_text (s : State) (t : SelfTest) : (testBegin s t).house.text = s.house.text := rfl

/-! ### The bundle in issue -/

@[simp] theorem settle_focus (s : State) (r : Except Stop (List Eff)) : (settle s r).focus = s.focus := by cases r <;> rfl
@[simp] theorem settle_agenda (s : State) (r : Except Stop (List Eff)) : (settle s r).agenda = s.agenda := by cases r <;> rfl
@[simp] theorem settle_uses (s : State) (r : Except Stop (List Eff)) : (settle s r).uses = s.uses := by cases r <;> rfl
@[simp] theorem settle_cores (s : State) (r : Except Stop (List Eff)) : (settle s r).cores = s.cores := by cases r <;> rfl
@[simp] theorem settle_dies (s : State) (r : Except Stop (List Eff)) : (settle s r).dies = s.dies := by cases r <;> rfl
@[simp] theorem settle_house (s : State) (r : Except Stop (List Eff)) : (settle s r).house = s.house := by cases r <;> rfl
@[simp] theorem settle_pits (s : State) (r : Except Stop (List Eff)) : (settle s r).pits = s.pits := by cases r <;> rfl
@[simp] theorem settle_mem (s : State) (r : Except Stop (List Eff)) : (settle s r).mem = s.mem := by cases r <;> rfl
@[simp] theorem settle_bad (s : State) (r : Except Stop (List Eff)) : (settle s r).bad = s.bad := by cases r <;> rfl
@[simp] theorem settle_reply (s : State) (r : Except Stop (List Eff)) : (settle s r).reply = s.reply := by cases r <;> rfl
@[simp] theorem settle_sensors (s : State) (r : Except Stop (List Eff)) : (settle s r).sensors = s.sensors := by cases r <;> rfl
@[simp] theorem settle_rels (s : State) (r : Except Stop (List Eff)) : (settle s r).rels = s.rels := by cases r <;> rfl

@[simp] theorem settle_slot (s : State) (r : Except Stop (List Eff)) : (settle s r).issue.slot = s.issue.slot := by cases r <;> rfl
@[simp] theorem settle_words (s : State) (r : Except Stop (List Eff)) : (settle s r).issue.words = s.issue.words := by cases r <;> rfl

/-! ### A context -/

@[simp] theorem setSreg_pc (x : Ctxt) (n : Nat) (v : Word) : (setSreg x n v).pc = x.pc := by unfold setSreg; split <;> rfl
@[simp] theorem setSreg_delay (x : Ctxt) (n : Nat) (v : Word) : (setSreg x n v).delay = x.delay := by unfold setSreg; split <;> rfl
@[simp] theorem setSreg_shadow (x : Ctxt) (n : Nat) (v : Word) : (setSreg x n v).shadow = x.shadow := by unfold setSreg; split <;> rfl
@[simp] theorem setSreg_preds (x : Ctxt) (n : Nat) (v : Word) : (setSreg x n v).preds = x.preds := by unfold setSreg; split <;> rfl
@[simp] theorem setSreg_bregs (x : Ctxt) (n : Nat) (v : Word) : (setSreg x n v).bregs = x.bregs := by unfold setSreg; split <;> rfl
@[simp] theorem setSreg_kmasks (x : Ctxt) (n : Nat) (v : Word) : (setSreg x n v).kmasks = x.kmasks := by unfold setSreg; split <;> rfl
@[simp] theorem setSreg_mode (x : Ctxt) (n : Nat) (v : Word) : (setSreg x n v).mode = x.mode := by unfold setSreg; split <;> rfl
@[simp] theorem setSreg_cause (x : Ctxt) (n : Nat) (v : Word) : (setSreg x n v).cause = x.cause := by unfold setSreg; split <;> rfl
@[simp] theorem setSreg_faultpc (x : Ctxt) (n : Nat) (v : Word) : (setSreg x n v).faultpc = x.faultpc := by unfold setSreg; split <;> rfl
@[simp] theorem setSreg_faultpcSet (x : Ctxt) (n : Nat) (v : Word) : (setSreg x n v).faultpcSet = x.faultpcSet := by unfold setSreg; split <;> rfl
@[simp] theorem setSreg_faultinfo (x : Ctxt) (n : Nat) (v : Word) : (setSreg x n v).faultinfo = x.faultinfo := by unfold setSreg; split <;> rfl
@[simp] theorem setSreg_shapeinfo (x : Ctxt) (n : Nat) (v : Word) : (setSreg x n v).shapeinfo = x.shapeinfo := by unfold setSreg; split <;> rfl
@[simp] theorem setSreg_esave (x : Ctxt) (n : Nat) (v : Word) : (setSreg x n v).esave = x.esave := by unfold setSreg; split <;> rfl
@[simp] theorem setSreg_rehearse (x : Ctxt) (n : Nat) (v : Word) : (setSreg x n v).rehearse = x.rehearse := by unfold setSreg; split <;> rfl
@[simp] theorem setSreg_sticky (x : Ctxt) (n : Nat) (v : Word) : (setSreg x n v).sticky = x.sticky := by unfold setSreg; split <;> rfl
@[simp] theorem setSreg_nopre (x : Ctxt) (n : Nat) (v : Word) : (setSreg x n v).nopre = x.nopre := by unfold setSreg; split <;> rfl
@[simp] theorem setSreg_rot (x : Ctxt) (n : Nat) (v : Word) : (setSreg x n v).rot = x.rot := by unfold setSreg; split <;> rfl
@[simp] theorem setSreg_window (x : Ctxt) (n : Nat) (v : Word) : (setSreg x n v).window = x.window := by unfold setSreg; split <;> rfl
@[simp] theorem setSreg_wfmt (x : Ctxt) (n : Nat) (v : Word) : (setSreg x n v).wfmt = x.wfmt := by unfold setSreg; split <;> rfl
@[simp] theorem setSreg_held (x : Ctxt) (n : Nat) (v : Word) : (setSreg x n v).held = x.held := by unfold setSreg; split <;> rfl
@[simp] theorem setSreg_tiles (x : Ctxt) (n : Nat) (v : Word) : (setSreg x n v).tiles = x.tiles := by unfold setSreg; split <;> rfl
@[simp] theorem setSreg_dims (x : Ctxt) (n : Nat) (v : Word) : (setSreg x n v).dims = x.dims := by unfold setSreg; split <;> rfl
@[simp] theorem setSreg_ports (x : Ctxt) (n : Nat) (v : Word) : (setSreg x n v).ports = x.ports := by unfold setSreg; split <;> rfl
@[simp] theorem setSreg_cls (x : Ctxt) (n : Nat) (v : Word) : (setSreg x n v).cls = x.cls := by unfold setSreg; split <;> rfl
@[simp] theorem setSreg_decl (x : Ctxt) (n : Nat) (v : Word) : (setSreg x n v).decl = x.decl := by unfold setSreg; split <;> rfl
@[simp] theorem setSreg_slotAddr (x : Ctxt) (n : Nat) (v : Word) : (setSreg x n v).slotAddr = x.slotAddr := by unfold setSreg; split <;> rfl
@[simp] theorem setSreg_serial (x : Ctxt) (n : Nat) (v : Word) : (setSreg x n v).serial = x.serial := by unfold setSreg; split <;> rfl
@[simp] theorem setSreg_joinAddr (x : Ctxt) (n : Nat) (v : Word) : (setSreg x n v).joinAddr = x.joinAddr := by unfold setSreg; split <;> rfl
@[simp] theorem setSreg_iroot (x : Ctxt) (n : Nat) (v : Word) : (setSreg x n v).iroot = x.iroot := by unfold setSreg; split <;> rfl
@[simp] theorem setSreg_droot (x : Ctxt) (n : Nat) (v : Word) : (setSreg x n v).droot = x.droot := by unfold setSreg; split <;> rfl
@[simp] theorem setSreg_inflight (x : Ctxt) (n : Nat) (v : Word) : (setSreg x n v).inflight = x.inflight := by unfold setSreg; split <;> rfl
@[simp] theorem setSreg_trapCap (x : Ctxt) (n : Nat) (v : Word) : (setSreg x n v).trapCap = x.trapCap := by unfold setSreg; split <;> rfl
@[simp] theorem setSreg_trapDelay (x : Ctxt) (n : Nat) (v : Word) : (setSreg x n v).trapDelay = x.trapDelay := by unfold setSreg; split <;> rfl
@[simp] theorem setSreg_trapShadow (x : Ctxt) (n : Nat) (v : Word) : (setSreg x n v).trapShadow = x.trapShadow := by unfold setSreg; split <;> rfl
@[simp] theorem setSreg_trapWait (x : Ctxt) (n : Nat) (v : Word) : (setSreg x n v).trapWait = x.trapWait := by unfold setSreg; split <;> rfl
@[simp] theorem setSreg_wait (x : Ctxt) (n : Nat) (v : Word) : (setSreg x n v).wait = x.wait := by unfold setSreg; split <;> rfl
@[simp] theorem setSreg_draining (x : Ctxt) (n : Nat) (v : Word) : (setSreg x n v).draining = x.draining := by unfold setSreg; split <;> rfl
@[simp] theorem setSreg_bypass (x : Ctxt) (n : Nat) (v : Word) : (setSreg x n v).bypass = x.bypass := by unfold setSreg; split <;> rfl
@[simp] theorem setSreg_holds (x : Ctxt) (n : Nat) (v : Word) : (setSreg x n v).holds = x.holds := by unfold setSreg; split <;> rfl
@[simp] theorem setSreg_ens (x : Ctxt) (n : Nat) (v : Word) : (setSreg x n v).ens = x.ens := by unfold setSreg; split <;> rfl
@[simp] theorem setSreg_pitCount (x : Ctxt) (n : Nat) (v : Word) : (setSreg x n v).pitCount = x.pitCount := by unfold setSreg; split <;> rfl
@[simp] theorem setSreg_pitTraps (x : Ctxt) (n : Nat) (v : Word) : (setSreg x n v).pitTraps = x.pitTraps := by unfold setSreg; split <;> rfl
@[simp] theorem setSreg_regErrs (x : Ctxt) (n : Nat) (v : Word) : (setSreg x n v).regErrs = x.regErrs := by unfold setSreg; split <;> rfl
@[simp] theorem setSreg_matErrs (x : Ctxt) (n : Nat) (v : Word) : (setSreg x n v).matErrs = x.matErrs := by unfold setSreg; split <;> rfl
@[simp] theorem setSreg_pgMem (x : Ctxt) (n : Nat) (v : Word) : (setSreg x n v).pgMem = x.pgMem := by unfold setSreg; split <;> rfl
@[simp] theorem setSreg_pgCtxs (x : Ctxt) (n : Nat) (v : Word) : (setSreg x n v).pgCtxs = x.pgCtxs := by unfold setSreg; split <;> rfl
@[simp] theorem setSreg_tree (x : Ctxt) (n : Nat) (v : Word) : (setSreg x n v).tree = x.tree := by unfold setSreg; split <;> rfl
@[simp] theorem setSreg_latches (x : Ctxt) (n : Nat) (v : Word) : (setSreg x n v).latches = x.latches := by unfold setSreg; split <;> rfl
@[simp] theorem setSreg_cells (x : Ctxt) (n : Nat) (v : Word) : (setSreg x n v).cells = x.cells := by unfold setSreg; split <;> rfl
@[simp] theorem setSreg_mq (x : Ctxt) (n : Nat) (v : Word) : (setSreg x n v).mq = x.mq := by unfold setSreg; split <;> rfl
@[simp] theorem setSreg_kq0 (x : Ctxt) (n : Nat) (v : Word) : (setSreg x n v).kq0 = x.kq0 := by unfold setSreg; split <;> rfl
@[simp] theorem setSreg_kq1 (x : Ctxt) (n : Nat) (v : Word) : (setSreg x n v).kq1 = x.kq1 := by unfold setSreg; split <;> rfl
@[simp] theorem setSreg_lastUnits (x : Ctxt) (n : Nat) (v : Word) : (setSreg x n v).lastUnits = x.lastUnits := by unfold setSreg; split <;> rfl
@[simp] theorem setSreg_saveBase (x : Ctxt) (n : Nat) (v : Word) : (setSreg x n v).saveBase = x.saveBase := by unfold setSreg; split <;> rfl
@[simp] theorem setSreg_fresh (x : Ctxt) (n : Nat) (v : Word) : (setSreg x n v).fresh = x.fresh := by unfold setSreg; split <;> rfl
@[simp] theorem setSreg_spent (x : Ctxt) (n : Nat) (v : Word) : (setSreg x n v).spent = x.spent := by unfold setSreg; split <;> rfl
@[simp] theorem setSreg_owed (x : Ctxt) (n : Nat) (v : Word) : (setSreg x n v).owed = x.owed := by unfold setSreg; split <;> rfl
@[simp] theorem setSreg_mback (x : Ctxt) (n : Nat) (v : Word) : (setSreg x n v).mback = x.mback := by unfold setSreg; split <;> rfl
@[simp] theorem setSreg_kaway (x : Ctxt) (n : Nat) (v : Word) : (setSreg x n v).kaway = x.kaway := by unfold setSreg; split <;> rfl
@[simp] theorem setSreg_resumeErr (x : Ctxt) (n : Nat) (v : Word) : (setSreg x n v).resumeErr = x.resumeErr := by unfold setSreg; split <;> rfl

@[simp] theorem setPred_pc (x : Ctxt) (n : Nat) (v : Bool) : (setPred x n v).pc = x.pc := by unfold setPred; split <;> rfl
@[simp] theorem setPred_delay (x : Ctxt) (n : Nat) (v : Bool) : (setPred x n v).delay = x.delay := by unfold setPred; split <;> rfl
@[simp] theorem setPred_shadow (x : Ctxt) (n : Nat) (v : Bool) : (setPred x n v).shadow = x.shadow := by unfold setPred; split <;> rfl
@[simp] theorem setPred_sregs (x : Ctxt) (n : Nat) (v : Bool) : (setPred x n v).sregs = x.sregs := by unfold setPred; split <;> rfl
@[simp] theorem setPred_bregs (x : Ctxt) (n : Nat) (v : Bool) : (setPred x n v).bregs = x.bregs := by unfold setPred; split <;> rfl
@[simp] theorem setPred_kmasks (x : Ctxt) (n : Nat) (v : Bool) : (setPred x n v).kmasks = x.kmasks := by unfold setPred; split <;> rfl
@[simp] theorem setPred_mode (x : Ctxt) (n : Nat) (v : Bool) : (setPred x n v).mode = x.mode := by unfold setPred; split <;> rfl
@[simp] theorem setPred_cause (x : Ctxt) (n : Nat) (v : Bool) : (setPred x n v).cause = x.cause := by unfold setPred; split <;> rfl
@[simp] theorem setPred_faultpc (x : Ctxt) (n : Nat) (v : Bool) : (setPred x n v).faultpc = x.faultpc := by unfold setPred; split <;> rfl
@[simp] theorem setPred_faultpcSet (x : Ctxt) (n : Nat) (v : Bool) : (setPred x n v).faultpcSet = x.faultpcSet := by unfold setPred; split <;> rfl
@[simp] theorem setPred_faultinfo (x : Ctxt) (n : Nat) (v : Bool) : (setPred x n v).faultinfo = x.faultinfo := by unfold setPred; split <;> rfl
@[simp] theorem setPred_shapeinfo (x : Ctxt) (n : Nat) (v : Bool) : (setPred x n v).shapeinfo = x.shapeinfo := by unfold setPred; split <;> rfl
@[simp] theorem setPred_esave (x : Ctxt) (n : Nat) (v : Bool) : (setPred x n v).esave = x.esave := by unfold setPred; split <;> rfl
@[simp] theorem setPred_rehearse (x : Ctxt) (n : Nat) (v : Bool) : (setPred x n v).rehearse = x.rehearse := by unfold setPred; split <;> rfl
@[simp] theorem setPred_sticky (x : Ctxt) (n : Nat) (v : Bool) : (setPred x n v).sticky = x.sticky := by unfold setPred; split <;> rfl
@[simp] theorem setPred_nopre (x : Ctxt) (n : Nat) (v : Bool) : (setPred x n v).nopre = x.nopre := by unfold setPred; split <;> rfl
@[simp] theorem setPred_rot (x : Ctxt) (n : Nat) (v : Bool) : (setPred x n v).rot = x.rot := by unfold setPred; split <;> rfl
@[simp] theorem setPred_window (x : Ctxt) (n : Nat) (v : Bool) : (setPred x n v).window = x.window := by unfold setPred; split <;> rfl
@[simp] theorem setPred_wfmt (x : Ctxt) (n : Nat) (v : Bool) : (setPred x n v).wfmt = x.wfmt := by unfold setPred; split <;> rfl
@[simp] theorem setPred_held (x : Ctxt) (n : Nat) (v : Bool) : (setPred x n v).held = x.held := by unfold setPred; split <;> rfl
@[simp] theorem setPred_tiles (x : Ctxt) (n : Nat) (v : Bool) : (setPred x n v).tiles = x.tiles := by unfold setPred; split <;> rfl
@[simp] theorem setPred_dims (x : Ctxt) (n : Nat) (v : Bool) : (setPred x n v).dims = x.dims := by unfold setPred; split <;> rfl
@[simp] theorem setPred_ports (x : Ctxt) (n : Nat) (v : Bool) : (setPred x n v).ports = x.ports := by unfold setPred; split <;> rfl
@[simp] theorem setPred_cls (x : Ctxt) (n : Nat) (v : Bool) : (setPred x n v).cls = x.cls := by unfold setPred; split <;> rfl
@[simp] theorem setPred_decl (x : Ctxt) (n : Nat) (v : Bool) : (setPred x n v).decl = x.decl := by unfold setPred; split <;> rfl
@[simp] theorem setPred_slotAddr (x : Ctxt) (n : Nat) (v : Bool) : (setPred x n v).slotAddr = x.slotAddr := by unfold setPred; split <;> rfl
@[simp] theorem setPred_serial (x : Ctxt) (n : Nat) (v : Bool) : (setPred x n v).serial = x.serial := by unfold setPred; split <;> rfl
@[simp] theorem setPred_joinAddr (x : Ctxt) (n : Nat) (v : Bool) : (setPred x n v).joinAddr = x.joinAddr := by unfold setPred; split <;> rfl
@[simp] theorem setPred_iroot (x : Ctxt) (n : Nat) (v : Bool) : (setPred x n v).iroot = x.iroot := by unfold setPred; split <;> rfl
@[simp] theorem setPred_droot (x : Ctxt) (n : Nat) (v : Bool) : (setPred x n v).droot = x.droot := by unfold setPred; split <;> rfl
@[simp] theorem setPred_inflight (x : Ctxt) (n : Nat) (v : Bool) : (setPred x n v).inflight = x.inflight := by unfold setPred; split <;> rfl
@[simp] theorem setPred_trapCap (x : Ctxt) (n : Nat) (v : Bool) : (setPred x n v).trapCap = x.trapCap := by unfold setPred; split <;> rfl
@[simp] theorem setPred_trapDelay (x : Ctxt) (n : Nat) (v : Bool) : (setPred x n v).trapDelay = x.trapDelay := by unfold setPred; split <;> rfl
@[simp] theorem setPred_trapShadow (x : Ctxt) (n : Nat) (v : Bool) : (setPred x n v).trapShadow = x.trapShadow := by unfold setPred; split <;> rfl
@[simp] theorem setPred_trapWait (x : Ctxt) (n : Nat) (v : Bool) : (setPred x n v).trapWait = x.trapWait := by unfold setPred; split <;> rfl
@[simp] theorem setPred_wait (x : Ctxt) (n : Nat) (v : Bool) : (setPred x n v).wait = x.wait := by unfold setPred; split <;> rfl
@[simp] theorem setPred_draining (x : Ctxt) (n : Nat) (v : Bool) : (setPred x n v).draining = x.draining := by unfold setPred; split <;> rfl
@[simp] theorem setPred_bypass (x : Ctxt) (n : Nat) (v : Bool) : (setPred x n v).bypass = x.bypass := by unfold setPred; split <;> rfl
@[simp] theorem setPred_holds (x : Ctxt) (n : Nat) (v : Bool) : (setPred x n v).holds = x.holds := by unfold setPred; split <;> rfl
@[simp] theorem setPred_ens (x : Ctxt) (n : Nat) (v : Bool) : (setPred x n v).ens = x.ens := by unfold setPred; split <;> rfl
@[simp] theorem setPred_pitCount (x : Ctxt) (n : Nat) (v : Bool) : (setPred x n v).pitCount = x.pitCount := by unfold setPred; split <;> rfl
@[simp] theorem setPred_pitTraps (x : Ctxt) (n : Nat) (v : Bool) : (setPred x n v).pitTraps = x.pitTraps := by unfold setPred; split <;> rfl
@[simp] theorem setPred_regErrs (x : Ctxt) (n : Nat) (v : Bool) : (setPred x n v).regErrs = x.regErrs := by unfold setPred; split <;> rfl
@[simp] theorem setPred_matErrs (x : Ctxt) (n : Nat) (v : Bool) : (setPred x n v).matErrs = x.matErrs := by unfold setPred; split <;> rfl
@[simp] theorem setPred_pgMem (x : Ctxt) (n : Nat) (v : Bool) : (setPred x n v).pgMem = x.pgMem := by unfold setPred; split <;> rfl
@[simp] theorem setPred_pgCtxs (x : Ctxt) (n : Nat) (v : Bool) : (setPred x n v).pgCtxs = x.pgCtxs := by unfold setPred; split <;> rfl
@[simp] theorem setPred_tree (x : Ctxt) (n : Nat) (v : Bool) : (setPred x n v).tree = x.tree := by unfold setPred; split <;> rfl
@[simp] theorem setPred_latches (x : Ctxt) (n : Nat) (v : Bool) : (setPred x n v).latches = x.latches := by unfold setPred; split <;> rfl
@[simp] theorem setPred_cells (x : Ctxt) (n : Nat) (v : Bool) : (setPred x n v).cells = x.cells := by unfold setPred; split <;> rfl
@[simp] theorem setPred_mq (x : Ctxt) (n : Nat) (v : Bool) : (setPred x n v).mq = x.mq := by unfold setPred; split <;> rfl
@[simp] theorem setPred_kq0 (x : Ctxt) (n : Nat) (v : Bool) : (setPred x n v).kq0 = x.kq0 := by unfold setPred; split <;> rfl
@[simp] theorem setPred_kq1 (x : Ctxt) (n : Nat) (v : Bool) : (setPred x n v).kq1 = x.kq1 := by unfold setPred; split <;> rfl
@[simp] theorem setPred_lastUnits (x : Ctxt) (n : Nat) (v : Bool) : (setPred x n v).lastUnits = x.lastUnits := by unfold setPred; split <;> rfl
@[simp] theorem setPred_saveBase (x : Ctxt) (n : Nat) (v : Bool) : (setPred x n v).saveBase = x.saveBase := by unfold setPred; split <;> rfl
@[simp] theorem setPred_fresh (x : Ctxt) (n : Nat) (v : Bool) : (setPred x n v).fresh = x.fresh := by unfold setPred; split <;> rfl
@[simp] theorem setPred_spent (x : Ctxt) (n : Nat) (v : Bool) : (setPred x n v).spent = x.spent := by unfold setPred; split <;> rfl
@[simp] theorem setPred_owed (x : Ctxt) (n : Nat) (v : Bool) : (setPred x n v).owed = x.owed := by unfold setPred; split <;> rfl
@[simp] theorem setPred_mback (x : Ctxt) (n : Nat) (v : Bool) : (setPred x n v).mback = x.mback := by unfold setPred; split <;> rfl
@[simp] theorem setPred_kaway (x : Ctxt) (n : Nat) (v : Bool) : (setPred x n v).kaway = x.kaway := by unfold setPred; split <;> rfl
@[simp] theorem setPred_resumeErr (x : Ctxt) (n : Nat) (v : Bool) : (setPred x n v).resumeErr = x.resumeErr := by unfold setPred; split <;> rfl

@[simp] theorem groupSwitch_pc (x : Ctxt) : (groupSwitch x).pc = x.pc := rfl
@[simp] theorem groupSwitch_delay (x : Ctxt) : (groupSwitch x).delay = x.delay := rfl
@[simp] theorem groupSwitch_shadow (x : Ctxt) : (groupSwitch x).shadow = x.shadow := rfl
@[simp] theorem groupSwitch_sregs (x : Ctxt) : (groupSwitch x).sregs = x.sregs := rfl
@[simp] theorem groupSwitch_preds (x : Ctxt) : (groupSwitch x).preds = x.preds := rfl
@[simp] theorem groupSwitch_bregs (x : Ctxt) : (groupSwitch x).bregs = x.bregs := rfl
@[simp] theorem groupSwitch_kmasks (x : Ctxt) : (groupSwitch x).kmasks = x.kmasks := rfl
@[simp] theorem groupSwitch_mode (x : Ctxt) : (groupSwitch x).mode = x.mode := rfl
@[simp] theorem groupSwitch_cause (x : Ctxt) : (groupSwitch x).cause = x.cause := rfl
@[simp] theorem groupSwitch_faultpc (x : Ctxt) : (groupSwitch x).faultpc = x.faultpc := rfl
@[simp] theorem groupSwitch_faultpcSet (x : Ctxt) : (groupSwitch x).faultpcSet = x.faultpcSet := rfl
@[simp] theorem groupSwitch_faultinfo (x : Ctxt) : (groupSwitch x).faultinfo = x.faultinfo := rfl
@[simp] theorem groupSwitch_shapeinfo (x : Ctxt) : (groupSwitch x).shapeinfo = x.shapeinfo := rfl
@[simp] theorem groupSwitch_esave (x : Ctxt) : (groupSwitch x).esave = x.esave := rfl
@[simp] theorem groupSwitch_rehearse (x : Ctxt) : (groupSwitch x).rehearse = x.rehearse := rfl
@[simp] theorem groupSwitch_sticky (x : Ctxt) : (groupSwitch x).sticky = x.sticky := rfl
@[simp] theorem groupSwitch_nopre (x : Ctxt) : (groupSwitch x).nopre = x.nopre := rfl
@[simp] theorem groupSwitch_rot (x : Ctxt) : (groupSwitch x).rot = x.rot := rfl
@[simp] theorem groupSwitch_window (x : Ctxt) : (groupSwitch x).window = x.window := rfl
@[simp] theorem groupSwitch_wfmt (x : Ctxt) : (groupSwitch x).wfmt = x.wfmt := rfl
@[simp] theorem groupSwitch_held (x : Ctxt) : (groupSwitch x).held = x.held := rfl
@[simp] theorem groupSwitch_tiles (x : Ctxt) : (groupSwitch x).tiles = x.tiles := rfl
@[simp] theorem groupSwitch_dims (x : Ctxt) : (groupSwitch x).dims = x.dims := rfl
@[simp] theorem groupSwitch_ports (x : Ctxt) : (groupSwitch x).ports = x.ports := rfl
@[simp] theorem groupSwitch_cls (x : Ctxt) : (groupSwitch x).cls = x.cls := rfl
@[simp] theorem groupSwitch_decl (x : Ctxt) : (groupSwitch x).decl = x.decl := rfl
@[simp] theorem groupSwitch_slotAddr (x : Ctxt) : (groupSwitch x).slotAddr = x.slotAddr := rfl
@[simp] theorem groupSwitch_serial (x : Ctxt) : (groupSwitch x).serial = x.serial := rfl
@[simp] theorem groupSwitch_joinAddr (x : Ctxt) : (groupSwitch x).joinAddr = x.joinAddr := rfl
@[simp] theorem groupSwitch_iroot (x : Ctxt) : (groupSwitch x).iroot = x.iroot := rfl
@[simp] theorem groupSwitch_droot (x : Ctxt) : (groupSwitch x).droot = x.droot := rfl
@[simp] theorem groupSwitch_inflight (x : Ctxt) : (groupSwitch x).inflight = x.inflight := rfl
@[simp] theorem groupSwitch_trapCap (x : Ctxt) : (groupSwitch x).trapCap = x.trapCap := rfl
@[simp] theorem groupSwitch_trapDelay (x : Ctxt) : (groupSwitch x).trapDelay = x.trapDelay := rfl
@[simp] theorem groupSwitch_trapShadow (x : Ctxt) : (groupSwitch x).trapShadow = x.trapShadow := rfl
@[simp] theorem groupSwitch_trapWait (x : Ctxt) : (groupSwitch x).trapWait = x.trapWait := rfl
@[simp] theorem groupSwitch_wait (x : Ctxt) : (groupSwitch x).wait = x.wait := rfl
@[simp] theorem groupSwitch_draining (x : Ctxt) : (groupSwitch x).draining = x.draining := rfl
@[simp] theorem groupSwitch_bypass (x : Ctxt) : (groupSwitch x).bypass = [] := rfl
@[simp] theorem groupSwitch_holds (x : Ctxt) : (groupSwitch x).holds = [] := rfl
@[simp] theorem groupSwitch_ens (x : Ctxt) : (groupSwitch x).ens = x.ens := rfl
@[simp] theorem groupSwitch_pitCount (x : Ctxt) : (groupSwitch x).pitCount = x.pitCount := rfl
@[simp] theorem groupSwitch_pitTraps (x : Ctxt) : (groupSwitch x).pitTraps = x.pitTraps := rfl
@[simp] theorem groupSwitch_regErrs (x : Ctxt) : (groupSwitch x).regErrs = x.regErrs := rfl
@[simp] theorem groupSwitch_matErrs (x : Ctxt) : (groupSwitch x).matErrs = x.matErrs := rfl
@[simp] theorem groupSwitch_pgMem (x : Ctxt) : (groupSwitch x).pgMem = x.pgMem := rfl
@[simp] theorem groupSwitch_pgCtxs (x : Ctxt) : (groupSwitch x).pgCtxs = x.pgCtxs := rfl
@[simp] theorem groupSwitch_tree (x : Ctxt) : (groupSwitch x).tree = x.tree := rfl
@[simp] theorem groupSwitch_latches (x : Ctxt) : (groupSwitch x).latches = x.latches := rfl
@[simp] theorem groupSwitch_cells (x : Ctxt) : (groupSwitch x).cells = x.cells := rfl
@[simp] theorem groupSwitch_mq (x : Ctxt) : (groupSwitch x).mq = x.mq := rfl
@[simp] theorem groupSwitch_kq0 (x : Ctxt) : (groupSwitch x).kq0 = x.kq0 := rfl
@[simp] theorem groupSwitch_kq1 (x : Ctxt) : (groupSwitch x).kq1 = x.kq1 := rfl
@[simp] theorem groupSwitch_lastUnits (x : Ctxt) : (groupSwitch x).lastUnits = x.lastUnits := rfl
@[simp] theorem groupSwitch_saveBase (x : Ctxt) : (groupSwitch x).saveBase = x.saveBase := rfl
@[simp] theorem groupSwitch_fresh (x : Ctxt) : (groupSwitch x).fresh = 0 := rfl
@[simp] theorem groupSwitch_spent (x : Ctxt) : (groupSwitch x).spent = x.spent := rfl
@[simp] theorem groupSwitch_owed (x : Ctxt) : (groupSwitch x).owed = x.owed := rfl
@[simp] theorem groupSwitch_mback (x : Ctxt) : (groupSwitch x).mback = x.mback := rfl
@[simp] theorem groupSwitch_kaway (x : Ctxt) : (groupSwitch x).kaway = x.kaway := rfl
@[simp] theorem groupSwitch_resumeErr (x : Ctxt) : (groupSwitch x).resumeErr = x.resumeErr := rfl

@[simp] theorem lateSwitch_bypass (x : Ctxt) : (lateSwitch x).bypass = x.bypass.take x.fresh := rfl
@[simp] theorem lateSwitch_holds (x : Ctxt) : (lateSwitch x).holds = [] := rfl
@[simp] theorem lateSwitch_pc (x : Ctxt) : (lateSwitch x).pc = x.pc := rfl
@[simp] theorem lateSwitch_delay (x : Ctxt) : (lateSwitch x).delay = x.delay := rfl
@[simp] theorem lateSwitch_shadow (x : Ctxt) : (lateSwitch x).shadow = x.shadow := rfl
@[simp] theorem lateSwitch_sregs (x : Ctxt) : (lateSwitch x).sregs = x.sregs := rfl
@[simp] theorem lateSwitch_preds (x : Ctxt) : (lateSwitch x).preds = x.preds := rfl
@[simp] theorem lateSwitch_bregs (x : Ctxt) : (lateSwitch x).bregs = x.bregs := rfl
@[simp] theorem lateSwitch_kmasks (x : Ctxt) : (lateSwitch x).kmasks = x.kmasks := rfl
@[simp] theorem lateSwitch_mode (x : Ctxt) : (lateSwitch x).mode = x.mode := rfl
@[simp] theorem lateSwitch_cause (x : Ctxt) : (lateSwitch x).cause = x.cause := rfl
@[simp] theorem lateSwitch_faultpc (x : Ctxt) : (lateSwitch x).faultpc = x.faultpc := rfl
@[simp] theorem lateSwitch_faultpcSet (x : Ctxt) : (lateSwitch x).faultpcSet = x.faultpcSet := rfl
@[simp] theorem lateSwitch_faultinfo (x : Ctxt) : (lateSwitch x).faultinfo = x.faultinfo := rfl
@[simp] theorem lateSwitch_shapeinfo (x : Ctxt) : (lateSwitch x).shapeinfo = x.shapeinfo := rfl
@[simp] theorem lateSwitch_esave (x : Ctxt) : (lateSwitch x).esave = x.esave := rfl
@[simp] theorem lateSwitch_rehearse (x : Ctxt) : (lateSwitch x).rehearse = x.rehearse := rfl
@[simp] theorem lateSwitch_sticky (x : Ctxt) : (lateSwitch x).sticky = x.sticky := rfl
@[simp] theorem lateSwitch_nopre (x : Ctxt) : (lateSwitch x).nopre = x.nopre := rfl
@[simp] theorem lateSwitch_rot (x : Ctxt) : (lateSwitch x).rot = x.rot := rfl
@[simp] theorem lateSwitch_window (x : Ctxt) : (lateSwitch x).window = x.window := rfl
@[simp] theorem lateSwitch_wfmt (x : Ctxt) : (lateSwitch x).wfmt = x.wfmt := rfl
@[simp] theorem lateSwitch_held (x : Ctxt) : (lateSwitch x).held = x.held := rfl
@[simp] theorem lateSwitch_tiles (x : Ctxt) : (lateSwitch x).tiles = x.tiles := rfl
@[simp] theorem lateSwitch_dims (x : Ctxt) : (lateSwitch x).dims = x.dims := rfl
@[simp] theorem lateSwitch_ports (x : Ctxt) : (lateSwitch x).ports = x.ports := rfl
@[simp] theorem lateSwitch_cls (x : Ctxt) : (lateSwitch x).cls = x.cls := rfl
@[simp] theorem lateSwitch_decl (x : Ctxt) : (lateSwitch x).decl = x.decl := rfl
@[simp] theorem lateSwitch_slotAddr (x : Ctxt) : (lateSwitch x).slotAddr = x.slotAddr := rfl
@[simp] theorem lateSwitch_serial (x : Ctxt) : (lateSwitch x).serial = x.serial := rfl
@[simp] theorem lateSwitch_joinAddr (x : Ctxt) : (lateSwitch x).joinAddr = x.joinAddr := rfl
@[simp] theorem lateSwitch_iroot (x : Ctxt) : (lateSwitch x).iroot = x.iroot := rfl
@[simp] theorem lateSwitch_droot (x : Ctxt) : (lateSwitch x).droot = x.droot := rfl
@[simp] theorem lateSwitch_inflight (x : Ctxt) : (lateSwitch x).inflight = x.inflight := rfl
@[simp] theorem lateSwitch_trapCap (x : Ctxt) : (lateSwitch x).trapCap = x.trapCap := rfl
@[simp] theorem lateSwitch_trapDelay (x : Ctxt) : (lateSwitch x).trapDelay = x.trapDelay := rfl
@[simp] theorem lateSwitch_trapShadow (x : Ctxt) : (lateSwitch x).trapShadow = x.trapShadow := rfl
@[simp] theorem lateSwitch_trapWait (x : Ctxt) : (lateSwitch x).trapWait = x.trapWait := rfl
@[simp] theorem lateSwitch_wait (x : Ctxt) : (lateSwitch x).wait = x.wait := rfl
@[simp] theorem lateSwitch_draining (x : Ctxt) : (lateSwitch x).draining = x.draining := rfl
@[simp] theorem lateSwitch_ens (x : Ctxt) : (lateSwitch x).ens = x.ens := rfl
@[simp] theorem lateSwitch_pitCount (x : Ctxt) : (lateSwitch x).pitCount = x.pitCount := rfl
@[simp] theorem lateSwitch_pitTraps (x : Ctxt) : (lateSwitch x).pitTraps = x.pitTraps := rfl
@[simp] theorem lateSwitch_regErrs (x : Ctxt) : (lateSwitch x).regErrs = x.regErrs := rfl
@[simp] theorem lateSwitch_matErrs (x : Ctxt) : (lateSwitch x).matErrs = x.matErrs := rfl
@[simp] theorem lateSwitch_pgMem (x : Ctxt) : (lateSwitch x).pgMem = x.pgMem := rfl
@[simp] theorem lateSwitch_pgCtxs (x : Ctxt) : (lateSwitch x).pgCtxs = x.pgCtxs := rfl
@[simp] theorem lateSwitch_tree (x : Ctxt) : (lateSwitch x).tree = x.tree := rfl
@[simp] theorem lateSwitch_latches (x : Ctxt) : (lateSwitch x).latches = x.latches := rfl
@[simp] theorem lateSwitch_cells (x : Ctxt) : (lateSwitch x).cells = x.cells := rfl
@[simp] theorem lateSwitch_mq (x : Ctxt) : (lateSwitch x).mq = x.mq := rfl
@[simp] theorem lateSwitch_kq0 (x : Ctxt) : (lateSwitch x).kq0 = x.kq0 := rfl
@[simp] theorem lateSwitch_kq1 (x : Ctxt) : (lateSwitch x).kq1 = x.kq1 := rfl
@[simp] theorem lateSwitch_lastUnits (x : Ctxt) : (lateSwitch x).lastUnits = x.lastUnits := rfl
@[simp] theorem lateSwitch_saveBase (x : Ctxt) : (lateSwitch x).saveBase = x.saveBase := rfl
@[simp] theorem lateSwitch_fresh (x : Ctxt) : (lateSwitch x).fresh = x.fresh := rfl
@[simp] theorem lateSwitch_spent (x : Ctxt) : (lateSwitch x).spent = x.spent := rfl
@[simp] theorem lateSwitch_owed (x : Ctxt) : (lateSwitch x).owed = x.owed := rfl
@[simp] theorem lateSwitch_mback (x : Ctxt) : (lateSwitch x).mback = x.mback := rfl
@[simp] theorem lateSwitch_kaway (x : Ctxt) : (lateSwitch x).kaway = x.kaway := rfl
@[simp] theorem lateSwitch_resumeErr (x : Ctxt) : (lateSwitch x).resumeErr = x.resumeErr := rfl

end Sys2Proof.Machine
end

