-- ==== Sys2Proof/Laws/Cores.lean ====
section
/-! SUPPORT. Read after write on the numbered parts of the module: a core, a die or a pit engine replaced is the only one that changes. -/

namespace Sys2Proof.Machine

theorem coreOf_setCoreOf (s : State) (n : Nat) (c : Core) (k : Nat) : coreOf (setCoreOf s n c) k = if k = n then c else coreOf s k := by
  simp [coreOf, mget_mput]

@[simp] theorem coreOf_setCoreOf_same (s : State) (n : Nat) (c : Core) : coreOf (setCoreOf s n c) n = c := by simp [coreOf_setCoreOf]

theorem coreOf_setCoreOf_other (s : State) {n k : Nat} (c : Core) (h : k ≠ n) : coreOf (setCoreOf s n c) k = coreOf s k := by
  simp [coreOf_setCoreOf, h]

@[simp] theorem cur_setCur (s : State) (c : Core) : cur (setCur s c) = c := by simp [cur, setCur]

@[simp] theorem ctx_setCtx (s : State) (x : Ctxt) : ctx (setCtx s x) = x := by simp [ctx, setCtx]

theorem dieOf_setDie (s : State) (n : Nat) (d : Die) (k : Nat) : dieOf (setDie s n d) k = if k = n then d else dieOf s k := by
  simp [dieOf, mget_mput]

theorem pitOf_setPit (s : State) (n : Nat) (p : Pit) (k : Nat) : pitOf (setPit s n p) k = if k = n then p else pitOf s k := by
  simp [pitOf, mget_mput]

@[simp] theorem coreOf_setDie (s : State) (n : Nat) (d : Die) (k : Nat) : coreOf (setDie s n d) k = coreOf s k := rfl
@[simp] theorem coreOf_setPit (s : State) (n : Nat) (p : Pit) (k : Nat) : coreOf (setPit s n p) k = coreOf s k := rfl
@[simp] theorem coreOf_logErr (s : State) (w : LogKind) (a b c k : Nat) : coreOf (logErr s w a b c) k = coreOf s k := rfl
@[simp] theorem coreOf_logErr4 (s : State) (w : LogKind) (a b c d k : Nat) : coreOf (logErr4 s w a b c d) k = coreOf s k := rfl
@[simp] theorem coreOf_withdrawn (s : State) (a n k : Nat) : coreOf (withdrawn s a n) k = coreOf s k := rfl
@[simp] theorem coreOf_written (s : State) (a n k : Nat) : coreOf (written s a n) k = coreOf s k := rfl
@[simp] theorem coreOf_heal (s : State) (a n k : Nat) : coreOf (heal s a n) k = coreOf s k := rfl
@[simp] theorem coreOf_useFree (s : State) (k : Nat) : coreOf (useFree s) k = coreOf s k := rfl
@[simp] theorem coreOf_useOne (s : State) (k : Nat) : coreOf (useOne s) k = coreOf s k := rfl
@[simp] theorem coreOf_testBegin (s : State) (t : SelfTest) (k : Nat) : coreOf (testBegin s t) k = coreOf s k := rfl
@[simp] theorem coreOf_unitMet (s : State) (u : SelfTest) (k : Nat) : coreOf (unitMet s u) k = coreOf s k := by
  unfold unitMet; dsimp only; repeat' split
  all_goals rfl
@[simp] theorem coreOf_errorMet (s : State) (pa k : Nat) : coreOf (errorMet s pa) k = coreOf s k := by
  unfold errorMet; split
  · rfl
  · split <;> simp
@[simp] theorem coreOf_noteRead (s : State) (pa k : Nat) : coreOf (noteRead s pa) k = coreOf s k := by
  unfold noteRead; repeat' split
  all_goals rfl
@[simp] theorem coreOf_notePieces (s : State) (ps : List (Nat × Nat)) (k : Nat) : coreOf (notePieces s ps) k = coreOf s k := by
  unfold notePieces
  induction ps generalizing s with
  | nil => rfl
  | cons p ps ih => simp [ih]

@[simp] theorem coreOf_piecesMet (s : State) (ps : List (Nat × Nat)) (k : Nat) : coreOf (piecesMet s ps) k = coreOf s k := by
  unfold piecesMet
  generalize s.bad.filter _ = l
  induction l generalizing s with
  | nil => rfl
  | cons b l ih => simp [ih]

/-- What a read leaves beside its bytes touches no core (R9, R372). -/
@[simp] theorem coreOf_noteMet (s : State) (ps : List (Nat × Nat)) (k : Nat) : coreOf (noteMet s ps) k = coreOf s k := by simp [noteMet]

@[simp] theorem coreOf_walkMet (s : State) (c : Nat) (i : Bool) (r va k : Nat) : coreOf (walkMet s c i r va) k = coreOf s k := by simp [walkMet]

@[simp] theorem coreOf_settle (s : State) (r : Except Stop (List Eff)) (k : Nat) : coreOf (settle s r) k = coreOf s k := by
  cases r <;> rfl

@[simp] theorem dieOf_setCoreOf (s : State) (n : Nat) (c : Core) (k : Nat) : dieOf (setCoreOf s n c) k = dieOf s k := rfl
@[simp] theorem dieOf_setPit (s : State) (n : Nat) (p : Pit) (k : Nat) : dieOf (setPit s n p) k = dieOf s k := rfl
@[simp] theorem dieOf_logErr (s : State) (w : LogKind) (a b c k : Nat) : dieOf (logErr s w a b c) k = dieOf s k := rfl
@[simp] theorem pitOf_setCoreOf (s : State) (n : Nat) (c : Core) (k : Nat) : pitOf (setCoreOf s n c) k = pitOf s k := rfl
@[simp] theorem pitOf_setDie (s : State) (n : Nat) (d : Die) (k : Nat) : pitOf (setDie s n d) k = pitOf s k := rfl

/-- A write into accumulator rows leaves everything else of the core alone: its scratchpad, its context, its status, its pipe. -/
theorem accBytes_frame (c : Core) (o fuel : Nat) (bs : List Byte) : ∃ rs, accBytes c o fuel bs = { c with rows := rs } := by
  induction fuel generalizing c o bs with
  | zero => exact ⟨c.rows, rfl⟩
  | succ k ih =>
    simp only [accBytes]
    split
    · exact ⟨c.rows, rfl⟩
    · obtain ⟨rs, h⟩ := ih { c with rows := mput (o / 512) (rowPatch (rowOf c (o / 512)) (o % 512) (bs.take (min bs.length (512 - o % 512)))) c.rows }
        (o + min bs.length (512 - o % 512)) (bs.drop (min bs.length (512 - o % 512)))
      exact ⟨rs, h⟩

/-- What a write does beside its bytes touches the admission table, its waived leaves, the error map and the words of releases alone (R79, R84, R337,
R402). -/
theorem written_frame (s : State) (pa n : Nat) :
    ∃ adm w bad rels, written s pa n = { s with house := { s.house with admission := adm, waived := w }, bad := bad, rels := rels } :=
  ⟨_, _, _, _, rfl⟩

/-- A write into a core's own storage changes that core's scratchpad or rows, the error map, the words of releases and the admission table with its
waived leaves, and nothing else. -/
theorem coreStore_frame (s : State) (core off : Nat) (bs : List Byte) :
    ∃ c adm w bad rels, coreStore s core off bs =
        { setCoreOf s core c with house := { s.house with admission := adm, waived := w }, bad := bad, rels := rels } ∧
      c.ctx = (coreOf s core).ctx ∧
      (off < 0x200000 → c = { coreOf s core with spad := memBlock (coreOf s core).spad off bs }) ∧
      (¬ off < 0x200000 → ∃ rs, c = { coreOf s core with rows := rs }) := by
  simp only [coreStore, coreBytes]
  split
  · exact ⟨_, _, _, _, _, rfl, rfl, fun _ => rfl, fun h => absurd ‹_› h⟩
  · obtain ⟨rs, h⟩ := accBytes_frame (coreOf s core) (off - 0x200000) (bs.length + 1) bs
    exact ⟨_, _, _, _, _, rfl, by rw [h], fun h' => absurd h' ‹_›, fun _ => ⟨rs, h⟩⟩

end Sys2Proof.Machine
end

