-- ==== Sys2Proof/Laws/Canonical.lean ====
section
/-! SUPPORT. The canonical form of the module's byte memories (log 1): what keeps it, said once for each shared operation. -/

namespace Sys2Proof.Machine

/-- An operation that leaves every byte memory as it is keeps their form. -/
theorem MemoriesCanonical.of_same {s t : State} (h : MemoriesCanonical s) (hm : t.mem = s.mem) (ht : t.house.text = s.house.text)
    (hc : ∀ n, (coreOf t n).spad = (coreOf s n).spad) : MemoriesCanonical t :=
  ⟨hm ▸ h.1, ht ▸ h.2.1, fun n => hc n ▸ h.2.2 n⟩

/-- A core replaced by one with a canonical scratchpad. -/
theorem MemoriesCanonical.setCoreOf {s : State} (h : MemoriesCanonical s) (n : Nat) {c : Core} (hc : Memory.wf c.spad = true) :
    MemoriesCanonical (setCoreOf s n c) := by
  refine ⟨h.1, h.2.1, fun k => ?_⟩
  rw [coreOf_setCoreOf]
  split
  · exact hc
  · exact h.2.2 k

/-- A core replaced by one with the same scratchpad. -/
theorem MemoriesCanonical.setCoreOf_same {s : State} (h : MemoriesCanonical s) (n : Nat) {c : Core} (hc : c.spad = (coreOf s n).spad) :
    MemoriesCanonical (Machine.setCoreOf s n c) := h.setCoreOf n (hc ▸ h.2.2 n)

theorem MemoriesCanonical.setDie {s : State} (h : MemoriesCanonical s) (n : Nat) (d : Die) : MemoriesCanonical (setDie s n d) := h
theorem MemoriesCanonical.setPit {s : State} (h : MemoriesCanonical s) (n : Nat) (p : Pit) : MemoriesCanonical (setPit s n p) := h
theorem MemoriesCanonical.heal {s : State} (h : MemoriesCanonical s) (a n : Nat) : MemoriesCanonical (heal s a n) := h
theorem MemoriesCanonical.logErr {s : State} (h : MemoriesCanonical s) (w : LogKind) (a b c : Nat) : MemoriesCanonical (logErr s w a b c) := h
theorem MemoriesCanonical.logErr4 {s : State} (h : MemoriesCanonical s) (w : LogKind) (a b c d : Nat) : MemoriesCanonical (logErr4 s w a b c d) := h
theorem MemoriesCanonical.written {s : State} (h : MemoriesCanonical s) (a n : Nat) : MemoriesCanonical (written s a n) := h
theorem MemoriesCanonical.testBegin {s : State} (h : MemoriesCanonical s) (t : SelfTest) : MemoriesCanonical (testBegin s t) := h
theorem MemoriesCanonical.useFree {s : State} (h : MemoriesCanonical s) : MemoriesCanonical (useFree s) := h
theorem MemoriesCanonical.useOne {s : State} (h : MemoriesCanonical s) : MemoriesCanonical (useOne s) := h

/-- The house die changed, its admitted text kept. -/
theorem MemoriesCanonical.house {s : State} (h : MemoriesCanonical s) {w : House} (ht : w.text = s.house.text) :
    MemoriesCanonical { s with house := w } := ⟨h.1, ht ▸ h.2.1, h.2.2⟩

/-- One of two states, each of which has the form. -/
theorem MemoriesCanonical.ite {p : Prop} [Decidable p] {s t : State} (h : MemoriesCanonical s) (h' : MemoriesCanonical t) :
    MemoriesCanonical (if p then s else t) := by split <;> assumption

/-- A row of operations keeps the form where each does. -/
theorem MemoriesCanonical.foldl {α : Type} {f : State → α → State} (hf : ∀ s a, MemoriesCanonical s → MemoriesCanonical (f s a))
    (as : List α) {s : State} (h : MemoriesCanonical s) : MemoriesCanonical (as.foldl f s) := by
  induction as generalizing s with
  | nil => exact h
  | cons a as ih => exact ih (hf s a h)

/-- A slot that takes note of its effects touches no memory. -/
theorem MemoriesCanonical.settle {s : State} (h : MemoriesCanonical s) (r : Except Stop (List Eff)) : MemoriesCanonical (settle s r) := by
  cases r <;> exact h

/-! ### Acquires -/

/-- What a map over the cores' values does to one of them. -/
theorem mget_map {α : Type} (d : α) (k : Nat) (f : Nat × α → Nat × α) (hf : ∀ e, (f e).1 = e.1) (m : List (Nat × α)) :
    mget d k (m.map f) = d ∧ mget d k m = d ∨ mget d k (m.map f) = (f (k, mget d k m)).2 := by
  induction m with
  | nil => exact .inl ⟨rfl, rfl⟩
  | cons e m ih =>
    simp only [List.map_cons, mget, hf]
    split
    · rename_i h; subst h; exact .inr rfl
    · exact ih

/-- An acquire notes on accesses in flight that its core is ordered after them, and changes nothing else of any core. -/
theorem observe_core (s : State) (core level k : Nat) : ∃ p, coreOf (observe s core level) k = { coreOf s k with pend := p } := by
  unfold observe
  split
  · have h := mget_map Core.reset k (fun e =>
      if e.1 = core then (e.1, { e.2 with pend := e.2.pend.map (seenBy core 1) })
      else if 2 ≤ level ∧ dieOfCore e.1 = dieOfCore core then (e.1, { e.2 with pend := e.2.pend.map (seenBy core 2) })
      else e) (fun e => by dsimp only; (repeat' split) <;> rfl) s.cores
    rcases h with ⟨h, h'⟩ | h
    · exact ⟨(coreOf s k).pend, h.trans h'.symm⟩
    · simp only [coreOf, h]
      split
      · exact ⟨_, rfl⟩
      · split
        · exact ⟨_, rfl⟩
        · exact ⟨_, rfl⟩
  · exact ⟨(coreOf s k).pend, rfl⟩

theorem observe_state (s : State) (core level : Nat) : ∃ cs, observe s core level = { s with cores := cs } := by
  unfold observe
  split
  · exact ⟨_, rfl⟩
  · exact ⟨s.cores, rfl⟩

theorem MemoriesCanonical.observe {s : State} (h : MemoriesCanonical s) (core level : Nat) : MemoriesCanonical (observe s core level) := by
  obtain ⟨cs, hs⟩ := observe_state s core level
  refine h.of_same (by rw [hs]) (by rw [hs]) fun n => ?_
  obtain ⟨p, hp⟩ := observe_core s core level n
  rw [hp]

/-! ### Writes -/

theorem MemoriesCanonical.unitMet {s : State} (h : MemoriesCanonical s) (u : SelfTest) : MemoriesCanonical (unitMet s u) := by
  unfold Machine.unitMet
  exact .ite h (.ite h (h.testBegin _))

theorem MemoriesCanonical.noteRead {s : State} (h : MemoriesCanonical s) (pa : Nat) : MemoriesCanonical (noteRead s pa) := by
  unfold Machine.noteRead
  exact .ite (h.logErr ..) (.ite (h.logErr ..) h)

theorem MemoriesCanonical.errorMet {s : State} (h : MemoriesCanonical s) (pa : Nat) : MemoriesCanonical (errorMet s pa) := by
  unfold Machine.errorMet
  split
  · exact h
  · exact .ite (h.unitMet _) h

/-- What a read leaves beside its bytes (R9, R372). -/
theorem MemoriesCanonical.noteMet {s : State} (h : MemoriesCanonical s) (ps : List (Nat × Nat)) : MemoriesCanonical (noteMet s ps) :=
  .foldl (fun _ _ h => h.errorMet _) _ (.foldl (fun _ _ h => h.noteRead _) _ h)

theorem MemoriesCanonical.walkMet {s : State} (h : MemoriesCanonical s) (core : Nat) (inst : Bool) (root va : Nat) :
    MemoriesCanonical (walkMet s core inst root va) := h.noteMet _

theorem MemoriesCanonical.coreBytes {s : State} (h : MemoriesCanonical s) (core off : Nat) (bs : List Byte) :
    MemoriesCanonical (coreBytes s core off bs) := by
  unfold Machine.coreBytes
  refine h.setCoreOf core ?_
  split
  · exact wf_memBlock _ _ (h.2.2 core)
  · obtain ⟨rs, e⟩ := accBytes_frame (coreOf s core) (off - 0x200000) (bs.length + 1) bs
    rw [e]; exact h.2.2 core

theorem MemoriesCanonical.coreStore {s : State} (h : MemoriesCanonical s) (core off : Nat) (bs : List Byte) :
    MemoriesCanonical (coreStore s core off bs) := (h.coreBytes core off bs).written ..

theorem MemoriesCanonical.coreStoreAt {s : State} (h : MemoriesCanonical s) (core off : Nat) (bs : List Byte) (hit : Nat → Bool) :
    MemoriesCanonical (coreStoreAt s core off bs hit) := h.coreBytes core off bs

theorem MemoriesCanonical.keepOld {s : State} (h : MemoriesCanonical s) (core off n : Nat) : MemoriesCanonical (keepOld s core off n) := by
  unfold Machine.keepOld
  exact .ite (h.setCoreOf_same core (by rfl)) h

theorem MemoriesCanonical.outsideStore {s : State} (h : MemoriesCanonical s) (core off : Nat) (bs : List Byte) :
    MemoriesCanonical (outsideStore s core off bs) := (h.keepOld ..).coreStore ..

theorem MemoriesCanonical.windowPart {s : State} (h : MemoriesCanonical s) (core off : Nat) (bs : List Byte) (pit host : Option Nat) :
    MemoriesCanonical (windowPart s core off bs pit host) := by
  unfold Machine.windowPart
  split
  · exact .ite (h.setCoreOf_same core (by rfl)) (h.outsideStore ..)
  · split
    · exact .ite (h.outsideStore ..) (h.logErr ..)
    · exact h.logErr ..

theorem MemoriesCanonical.windowWrite {s : State} (h : MemoriesCanonical s) (core off : Nat) (bs : List Byte) (pit host : Option Nat := none) :
    MemoriesCanonical (windowWrite s core off bs pit host) := by
  unfold Machine.windowWrite
  exact .ite (h.logErr ..) (.foldl (fun _ _ hs => hs.windowPart ..) _ h)

theorem MemoriesCanonical.physWrite {s : State} (h : MemoriesCanonical s) (pa : Nat) (bs : List Byte) : MemoriesCanonical (physWrite s pa bs) := by
  unfold Machine.physWrite
  split
  · exact .written (s := { s with mem := memBlock s.mem pa bs }) ⟨wf_memBlock _ _ h.1, h.2.1, h.2.2⟩ ..
  split
  · exact h.windowWrite ..
  · exact h.logErr ..

theorem MemoriesCanonical.writePieces {s : State} (h : MemoriesCanonical s) (ps : List (Nat × Nat)) (bs : List Byte) :
    MemoriesCanonical (writePieces s ps bs) := by
  induction ps generalizing s bs with
  | nil => exact h
  | cons p ps ih => exact ih (h.physWrite ..) _

/-! ### Traps and landing -/

theorem MemoriesCanonical.takeTrap {s : State} (h : MemoriesCanonical s) (core : Nat) (f : Word) (t : Trap) :
    MemoriesCanonical (takeTrap s core f t) := by
  unfold Machine.takeTrap
  dsimp only
  split
  · exact .logErr4 (h.setCoreOf_same core (by rfl)) ..
  · exact h.setCoreOf_same core (by rfl)

theorem MemoriesCanonical.dropTlb {s : State} (h : MemoriesCanonical s) (core : Nat) (inst : Bool) (a b : Nat) :
    MemoriesCanonical (dropTlb s core inst a b) := by
  unfold Machine.dropTlb
  exact .setDie (h.setCoreOf_same core (by split <;> rfl)) _ _

theorem MemoriesCanonical.sysWrite {s : State} (h : MemoriesCanonical s) (core n : Nat) (v : Word) : MemoriesCanonical (sysWrite s core n v) := by
  have put : ∀ x : Ctxt, MemoriesCanonical (Machine.setCoreOf s core { coreOf s core with ctx := x }) := fun _ => h.setCoreOf_same core (by rfl)
  unfold Machine.sysWrite
  dsimp only
  repeat' refine .ite ?_ ?_
  all_goals first
    | exact h
    | exact put _
    | exact (put _).dropTlb ..
    | exact h.setCoreOf_same core (by rfl)

theorem MemoriesCanonical.applyUpd {s : State} (h : MemoriesCanonical s) (core : Nat) (u : Upd) : MemoriesCanonical (applyUpd s core u) := by
  cases u <;> simp only [Machine.applyUpd]
  case spad => exact h.coreStore ..
  case sys => exact h.sysWrite ..
  case row => exact .ite (.written (h.setCoreOf_same core (by rfl)) ..) h
  case accAlloc => exact .written (h.setCoreOf_same core (by rfl)) ..
  all_goals exact h.setCoreOf_same core (by rfl)

theorem MemoriesCanonical.landOne {s : State} (h : MemoriesCanonical s) (core : Nat) (fl : Flight) : MemoriesCanonical (landOne core s fl) := by
  simp only [Machine.landOne]
  split
  · exact .applyUpd (h.setCoreOf_same core (by rfl)) ..
  · exact h.setCoreOf_same core (by rfl)

theorem MemoriesCanonical.pipeStep {s : State} (h : MemoriesCanonical s) (core : Nat) : MemoriesCanonical (pipeStep s core) := by
  unfold Machine.pipeStep
  exact .foldl (fun s fl hs => hs.landOne core fl) _ (h.setCoreOf_same core (by rfl))

/-! ### Scalar accesses -/

theorem MemoriesCanonical.deliver {s : State} (h : MemoriesCanonical s) (core idx : Nat) (a : Access) (v : Word) :
    MemoriesCanonical (deliver s core idx a v) := by
  simp only [Machine.deliver]
  split
  · exact h.setCoreOf_same core (by rfl)
  · split
    · split
      · exact h.setCoreOf_same core (by rfl)
      · exact .physWrite (h.setCoreOf_same core (by rfl)) ..
    · exact h.setCoreOf_same core (by rfl)

theorem MemoriesCanonical.deliverTrap {s : State} (h : MemoriesCanonical s) (core serial : Nat) (t : PitTrap) :
    MemoriesCanonical (deliverTrap s core serial t) := by
  have k : ∀ (x : Ctxt) (ys : List (Nat × Ctxt)), MemoriesCanonical (Machine.setCoreOf s core { coreOf s core with ctx := x, saved := ys }) :=
    fun _ _ => h.setCoreOf_same core (by rfl)
  simp only [Machine.deliverTrap]
  split
  · split
    · exact k _ _
    · exact .logErr4 (k _ _) ..
  split
  · split
    · split
      · exact .physWrite (.physWrite (k _ _) ..) ..
      · exact k _ _
    · exact .logErr4 (k _ _) ..
  · exact h.logErr4 ..

theorem MemoriesCanonical.accessError {s : State} (h : MemoriesCanonical s) (core idx : Nat) (a : Access) :
    MemoriesCanonical (accessError s core idx a) := by
  simp only [Machine.accessError]
  split
  · exact .deliverTrap (h.setCoreOf_same core (by rfl)) ..
  · split <;> exact h.setCoreOf_same core (by rfl)

/-! ### Admitted text -/

/-- The bytes kept at an admission are the old ones outside the frame and the present ones inside, in canonical form. -/
theorem wf_keepText {old now : Memory} (lo n : Nat) (ho : Memory.wf old = true) (hn : Memory.wf now = true) :
    Memory.wf (keepText old now lo n) = true := by
  rw [Memory.wf_iff] at *
  refine ⟨?_, fun e he => ?_⟩
  · unfold keepText
    simp only [List.pairwise_append, List.mem_append, List.mem_filter, Bool.and_eq_true, decide_eq_true_eq]
    refine ⟨ho.1.filter _, ⟨hn.1.filter _, ho.1.filter _, fun a ha b hb => by omega⟩, fun a ha b hb => ?_⟩
    rcases hb with hb | hb <;> omega
  · simp only [keepText, List.mem_append, List.mem_filter] at he
    rcases he with he | he | he
    · exact ho.2 e he.1
    · exact hn.2 e he.1
    · exact ho.2 e he.1

/-- The listed bytes of a frame are in canonical form. -/
theorem MemoriesCanonical.frameCells {s : State} (h : MemoriesCanonical s) (lo n : Nat) : Memory.wf (frameCells s lo n) = true := by
  unfold Machine.frameCells
  split
  · rw [Memory.wf_iff]
    refine ⟨?_, fun e he => ?_⟩
    · refine List.Pairwise.filterMap _ ?_ (List.pairwise_lt_range (n := n))
      intro a b hab x hx y hy
      simp only [Option.ite_none_left_eq_some, Option.some.injEq] at hx hy
      obtain ⟨-, rfl⟩ := hx
      obtain ⟨-, rfl⟩ := hy
      simp only; omega
    · simp only [List.mem_filterMap, Option.ite_none_left_eq_some, Option.some.injEq] at he
      obtain ⟨k, -, hk, rfl⟩ := he
      exact hk
  · exact h.1

/-- TLBs emptied in part: no memory changes. -/
theorem MemoriesCanonical.dropLeaf {s : State} (h : MemoriesCanonical s) (leafAddr : Nat) : MemoriesCanonical (dropLeaf s leafAddr) := by
  refine h.of_same rfl rfl fun n => ?_
  simp only [coreOf, Machine.dropLeaf]
  induction s.cores with
  | nil => rfl
  | cons c cs ih => simp only [List.map_cons, mget]; split <;> first | rfl | exact ih

theorem MemoriesCanonical.admitLeaf {s : State} (h : MemoriesCanonical s) (w : Bool) (t : TlbEnt) : MemoriesCanonical (admitLeaf w s t) := by
  have h' := wf_keepText (entryPa t.leaf) t.size h.2.1 (h.frameCells (entryPa t.leaf) t.size)
  unfold Machine.admitLeaf
  dsimp only
  repeat' split
  all_goals first
    | exact ⟨h.1, h', h.2.2⟩
    | (refine MemoriesCanonical.dropLeaf ?_ _; exact ⟨h.1, h', h.2.2⟩)


end Sys2Proof.Machine
end

