-- ==== Sys2Proof/Laws/Engines.lean ====
section
/-! SUPPORT. What the shared operations of a copy engine's buffer, and a view without the accesses in flight, leave alone (R333, R336). -/

namespace Sys2Proof.Machine

/-- A write into a buffer changes nothing but what that core's engines keep. -/
theorem kbufPatch_frame (s : State) (core eng pa : Nat) (bs : List Byte) :
    kbufPatch s core eng pa bs = s ∨ ∃ b, kbufPatch s core eng pa bs = setKbuf s core b := by
  unfold kbufPatch
  dsimp only
  split
  · exact .inl rfl
  · exact .inr ⟨_, rfl⟩

@[simp] theorem setKbuf_mem (s : State) (core : Nat) (b : List (Nat × Byte)) : (setKbuf s core b).mem = s.mem := rfl
@[simp] theorem setKbuf_house (s : State) (core : Nat) (b : List (Nat × Byte)) : (setKbuf s core b).house = s.house := rfl
@[simp] theorem setKbuf_dies (s : State) (core : Nat) (b : List (Nat × Byte)) : (setKbuf s core b).dies = s.dies := rfl
@[simp] theorem setKbuf_pits (s : State) (core : Nat) (b : List (Nat × Byte)) : (setKbuf s core b).pits = s.pits := rfl
@[simp] theorem setKbuf_ctx (s : State) (core : Nat) (b : List (Nat × Byte)) (k : Nat) : (coreOf (setKbuf s core b) k).ctx = (coreOf s k).ctx := by
  simp only [setKbuf, coreOf_setCoreOf]
  split <;> simp_all
@[simp] theorem setKbuf_spad (s : State) (core : Nat) (b : List (Nat × Byte)) (k : Nat) : (coreOf (setKbuf s core b) k).spad = (coreOf s k).spad := by
  simp only [setKbuf, coreOf_setCoreOf]
  split <;> simp_all
@[simp] theorem setKbuf_pend (s : State) (core : Nat) (b : List (Nat × Byte)) (k : Nat) : (coreOf (setKbuf s core b) k).pend = (coreOf s k).pend := by
  simp only [setKbuf, coreOf_setCoreOf]
  split <;> simp_all

theorem MemoriesCanonical.setKbuf {s : State} (h : MemoriesCanonical s) (core : Nat) (b : List (Nat × Byte)) : MemoriesCanonical (setKbuf s core b) :=
  h.setCoreOf_same core rfl

theorem MemoriesCanonical.kbufClear {s : State} (h : MemoriesCanonical s) (core eng : Nat) : MemoriesCanonical (kbufClear s core eng) := h.setKbuf ..

theorem MemoriesCanonical.kbufPatch {s : State} (h : MemoriesCanonical s) (core eng pa : Nat) (bs : List Byte) :
    MemoriesCanonical (kbufPatch s core eng pa bs) := by
  obtain e | ⟨b, e⟩ := kbufPatch_frame s core eng pa bs <;> rw [e]
  · exact h
  · exact h.setKbuf ..

/-- The engine that is cleared keeps nothing. -/
theorem kbufClear_own (s : State) (core eng : Nat) (e : Nat × Byte) (he : e ∈ (coreOf (kbufClear s core eng) core).kbuf) : e.1 % 2 ≠ eng := by
  simp only [kbufClear, Machine.setKbuf, coreOf_setCoreOf_same, List.mem_filter] at he
  simpa using he.2

theorem MemoriesCanonical.withoutPend {s : State} (h : MemoriesCanonical s) (core : Nat) : MemoriesCanonical (withoutPend s core) :=
  h.setCoreOf_same core rfl

end Sys2Proof.Machine
end

