-- ==== Sys2Proof/Laws/PerInstr.lean ====
section
/-! SUPPORT. Per instruction, as syntax: a row of the table that is an event is in no slot table, has no word and no ill-formed term. -/

/-- An event row: always well-formed, and encoded by no word (R20-R31 give it none). -/
def Sys2Proof.Laws.Form.Statement (i : Sys2Proof.Instr) : Prop := i.info.slot = none → i.wf = true ∧ Sys2Proof.encode i = 0

open Sys2Proof.Laws.Form in
/-- The statement of an instruction that a slot table holds. -/
theorem Sys2Proof.Laws.Form.of_slot {i : Sys2Proof.Instr} {q : Sys2Proof.SlotKind} (h : i.info.slot = some q) : Statement i := by
  intro h'; rw [h] at h'; cases h'

theorem Sys2Proof.Laws.Form.nop : Statement .nop := of_slot rfl
theorem Sys2Proof.Laws.Form.pbr (t i : Nat) : Statement (.pbr t i) := of_slot rfl
theorem Sys2Proof.Laws.Form.pbrr (t a i : Nat) : Statement (.pbrr t a i) := of_slot rfl
theorem Sys2Proof.Laws.Form.br (t : Nat) : Statement (.br t) := of_slot rfl
theorem Sys2Proof.Laws.Form.brp (t p n : Nat) : Statement (.brp t p n) := of_slot rfl
theorem Sys2Proof.Laws.Form.call (t p n : Nat) : Statement (.call t p n) := of_slot rfl
theorem Sys2Proof.Laws.Form.ret (p n : Nat) : Statement (.ret p n) := of_slot rfl
theorem Sys2Proof.Laws.Form.loop (t a s : Nat) : Statement (.loop t a s) := of_slot rfl
theorem Sys2Proof.Laws.Form.loops (t a s : Nat) : Statement (.loops t a s) := of_slot rfl
theorem Sys2Proof.Laws.Form.voteAny (p k : Nat) : Statement (.voteAny p k) := of_slot rfl
theorem Sys2Proof.Laws.Form.voteAll (p k : Nat) : Statement (.voteAll p k) := of_slot rfl
theorem Sys2Proof.Laws.Form.cuePush (a b : Nat) : Statement (.cuePush a b) := of_slot rfl
theorem Sys2Proof.Laws.Form.cueFork (a b : Nat) : Statement (.cueFork a b) := of_slot rfl
theorem Sys2Proof.Laws.Form.cueExit : Statement .cueExit := of_slot rfl
theorem Sys2Proof.Laws.Form.cueSelf (a : Nat) : Statement (.cueSelf a) := of_slot rfl
theorem Sys2Proof.Laws.Form.ensJoin (a : Nat) : Statement (.ensJoin a) := of_slot rfl
theorem Sys2Proof.Laws.Form.ensLeave (a : Nat) : Statement (.ensLeave a) := of_slot rfl
theorem Sys2Proof.Laws.Form.ensSize (a b : Nat) : Statement (.ensSize a b) := of_slot rfl
theorem Sys2Proof.Laws.Form.markInit (a m : Nat) : Statement (.markInit a m) := of_slot rfl
theorem Sys2Proof.Laws.Form.markInitEns (a m : Nat) : Statement (.markInitEns a m) := of_slot rfl
theorem Sys2Proof.Laws.Form.markArrive (a m : Nat) : Statement (.markArrive a m) := of_slot rfl
theorem Sys2Proof.Laws.Form.markWait (a m : Nat) : Statement (.markWait a m) := of_slot rfl
theorem Sys2Proof.Laws.Form.markAwait (a m : Nat) : Statement (.markAwait a m) := of_slot rfl
theorem Sys2Proof.Laws.Form.ensembleCountNotice (home ens : Nat) : Statement (.ensembleCountNotice home ens) := fun _ => ⟨rfl, rfl⟩
theorem Sys2Proof.Laws.Form.waita (a b c : Nat) : Statement (.waita a b c) := of_slot rfl
theorem Sys2Proof.Laws.Form.waitaRetest (core : Nat) : Statement (.waitaRetest core) := fun _ => ⟨rfl, rfl⟩
theorem Sys2Proof.Laws.Form.trap (i : Nat) : Statement (.trap i) := of_slot rfl
theorem Sys2Proof.Laws.Form.eret : Statement .eret := of_slot rfl
theorem Sys2Proof.Laws.Form.halt : Statement .halt := of_slot rfl
theorem Sys2Proof.Laws.Form.sysrd (a n : Nat) : Statement (.sysrd a n) := of_slot rfl
theorem Sys2Proof.Laws.Form.syswr (a n : Nat) : Statement (.syswr a n) := of_slot rfl
theorem Sys2Proof.Laws.Form.nopreWrite (a n : Nat) : Statement (.nopreWrite a n) := of_slot rfl
theorem Sys2Proof.Laws.Form.nopreTimeout (core : Nat) : Statement (.nopreTimeout core) := fun _ => ⟨rfl, rfl⟩
theorem Sys2Proof.Laws.Form.stickyWrite (a n : Nat) : Statement (.stickyWrite a n) := of_slot rfl
theorem Sys2Proof.Laws.Form.evselWrite (a n : Nat) : Statement (.evselWrite a n) := of_slot rfl
theorem Sys2Proof.Laws.Form.rootWrite (a n : Nat) : Statement (.rootWrite a n) := of_slot rfl
theorem Sys2Proof.Laws.Form.duetctlWrite (a n : Nat) : Statement (.duetctlWrite a n) := of_slot rfl
theorem Sys2Proof.Laws.Form.admitSeg (a b : Nat) : Statement (.admitSeg a b) := of_slot rfl
theorem Sys2Proof.Laws.Form.admitReport (job : Nat) : Statement (.admitReport job) := fun _ => ⟨rfl, rfl⟩
theorem Sys2Proof.Laws.Form.add (d a b : Nat) : Statement (.add d a b) := of_slot rfl
theorem Sys2Proof.Laws.Form.sub (d a b : Nat) : Statement (.sub d a b) := of_slot rfl
theorem Sys2Proof.Laws.Form.and (d a b : Nat) : Statement (.and d a b) := of_slot rfl
theorem Sys2Proof.Laws.Form.or (d a b : Nat) : Statement (.or d a b) := of_slot rfl
theorem Sys2Proof.Laws.Form.xor (d a b : Nat) : Statement (.xor d a b) := of_slot rfl
theorem Sys2Proof.Laws.Form.shl (d a b : Nat) : Statement (.shl d a b) := of_slot rfl
theorem Sys2Proof.Laws.Form.shr (d a b : Nat) : Statement (.shr d a b) := of_slot rfl
theorem Sys2Proof.Laws.Form.sra (d a b : Nat) : Statement (.sra d a b) := of_slot rfl
theorem Sys2Proof.Laws.Form.min (d a b : Nat) : Statement (.min d a b) := of_slot rfl
theorem Sys2Proof.Laws.Form.max (d a b : Nat) : Statement (.max d a b) := of_slot rfl
theorem Sys2Proof.Laws.Form.minu (d a b : Nat) : Statement (.minu d a b) := of_slot rfl
theorem Sys2Proof.Laws.Form.maxu (d a b : Nat) : Statement (.maxu d a b) := of_slot rfl
theorem Sys2Proof.Laws.Form.clz (d a : Nat) : Statement (.clz d a) := of_slot rfl
theorem Sys2Proof.Laws.Form.popc (d a : Nat) : Statement (.popc d a) := of_slot rfl
theorem Sys2Proof.Laws.Form.sel (d a b p : Nat) : Statement (.sel d a b p) := of_slot rfl
theorem Sys2Proof.Laws.Form.mul (d a b : Nat) : Statement (.mul d a b) := of_slot rfl
theorem Sys2Proof.Laws.Form.mulh (d a b : Nat) : Statement (.mulh d a b) := of_slot rfl
theorem Sys2Proof.Laws.Form.mulhu (d a b : Nat) : Statement (.mulhu d a b) := of_slot rfl
theorem Sys2Proof.Laws.Form.div (d a b : Nat) : Statement (.div d a b) := of_slot rfl
theorem Sys2Proof.Laws.Form.divu (d a b : Nat) : Statement (.divu d a b) := of_slot rfl
theorem Sys2Proof.Laws.Form.rem (d a b : Nat) : Statement (.rem d a b) := of_slot rfl
theorem Sys2Proof.Laws.Form.remu (d a b : Nat) : Statement (.remu d a b) := of_slot rfl
theorem Sys2Proof.Laws.Form.cmp (d a b c : Nat) : Statement (.cmp d a b c) := of_slot rfl
theorem Sys2Proof.Laws.Form.pand (d a b : Nat) : Statement (.pand d a b) := of_slot rfl
theorem Sys2Proof.Laws.Form.por (d a b : Nat) : Statement (.por d a b) := of_slot rfl
theorem Sys2Proof.Laws.Form.pxor (d a b : Nat) : Statement (.pxor d a b) := of_slot rfl
theorem Sys2Proof.Laws.Form.pnot (d a : Nat) : Statement (.pnot d a) := of_slot rfl
theorem Sys2Proof.Laws.Form.addi (d a i : Nat) : Statement (.addi d a i) := of_slot rfl
theorem Sys2Proof.Laws.Form.andi (d a i : Nat) : Statement (.andi d a i) := of_slot rfl
theorem Sys2Proof.Laws.Form.ori (d a i : Nat) : Statement (.ori d a i) := of_slot rfl
theorem Sys2Proof.Laws.Form.xori (d a i : Nat) : Statement (.xori d a i) := of_slot rfl
theorem Sys2Proof.Laws.Form.shli (d a n : Nat) : Statement (.shli d a n) := of_slot rfl
theorem Sys2Proof.Laws.Form.shri (d a n : Nat) : Statement (.shri d a n) := of_slot rfl
theorem Sys2Proof.Laws.Form.srai (d a n : Nat) : Statement (.srai d a n) := of_slot rfl
theorem Sys2Proof.Laws.Form.movi (d i : Nat) : Statement (.movi d i) := of_slot rfl
theorem Sys2Proof.Laws.Form.movhi (d a i : Nat) : Statement (.movhi d a i) := of_slot rfl
theorem Sys2Proof.Laws.Form.cmpi (d a c i : Nat) : Statement (.cmpi d a c i) := of_slot rfl
theorem Sys2Proof.Laws.Form.lds (d a z i : Nat) : Statement (.lds d a z i) := of_slot rfl
theorem Sys2Proof.Laws.Form.sts (d a z i : Nat) : Statement (.sts d a z i) := of_slot rfl
theorem Sys2Proof.Laws.Form.ldg (d a b s o z : Nat) : Statement (.ldg d a b s o z) := of_slot rfl
theorem Sys2Proof.Laws.Form.stg (d a b s o z : Nat) : Statement (.stg d a b s o z) := of_slot rfl
theorem Sys2Proof.Laws.Form.scalarAccessComplete (core idx : Nat) : Statement (.scalarAccessComplete core idx) := fun _ => ⟨rfl, rfl⟩
theorem Sys2Proof.Laws.Form.amoAdd (d a b s o w : Nat) : Statement (.amoAdd d a b s o w) := of_slot rfl
theorem Sys2Proof.Laws.Form.amoSwap (d a b s o w : Nat) : Statement (.amoSwap d a b s o w) := of_slot rfl
theorem Sys2Proof.Laws.Form.amoCas (d a b s o w : Nat) : Statement (.amoCas d a b s o w) := of_slot rfl
theorem Sys2Proof.Laws.Form.amoMin (d a b s o w : Nat) : Statement (.amoMin d a b s o w) := of_slot rfl
theorem Sys2Proof.Laws.Form.amoMax (d a b s o w : Nat) : Statement (.amoMax d a b s o w) := of_slot rfl
theorem Sys2Proof.Laws.Form.amoAnd (d a b s o w : Nat) : Statement (.amoAnd d a b s o w) := of_slot rfl
theorem Sys2Proof.Laws.Form.amoOr (d a b s o w : Nat) : Statement (.amoOr d a b s o w) := of_slot rfl
theorem Sys2Proof.Laws.Form.fadd (d a b p r : Nat) : Statement (.fadd d a b p r) := of_slot rfl
theorem Sys2Proof.Laws.Form.fmul (d a b p r : Nat) : Statement (.fmul d a b p r) := of_slot rfl
theorem Sys2Proof.Laws.Form.fcvtI (d a p r : Nat) : Statement (.fcvtI d a p r) := of_slot rfl
theorem Sys2Proof.Laws.Form.fcvtF (d a p r : Nat) : Statement (.fcvtF d a p r) := of_slot rfl
theorem Sys2Proof.Laws.Form.resultLand (core : Nat) : Statement (.resultLand core) := fun _ => ⟨rfl, rfl⟩
theorem Sys2Proof.Laws.Form.vadd (d a b g w : Nat) : Statement (.vadd d a b g w) := of_slot rfl
theorem Sys2Proof.Laws.Form.vsub (d a b g w : Nat) : Statement (.vsub d a b g w) := of_slot rfl
theorem Sys2Proof.Laws.Form.vmin (d a b g w : Nat) : Statement (.vmin d a b g w) := of_slot rfl
theorem Sys2Proof.Laws.Form.vmax (d a b g w : Nat) : Statement (.vmax d a b g w) := of_slot rfl
theorem Sys2Proof.Laws.Form.vabs (d a g w : Nat) : Statement (.vabs d a g w) := of_slot rfl
theorem Sys2Proof.Laws.Form.vneg (d a g w : Nat) : Statement (.vneg d a g w) := of_slot rfl
theorem Sys2Proof.Laws.Form.vmul (d a b g w : Nat) : Statement (.vmul d a b g w) := of_slot rfl
theorem Sys2Proof.Laws.Form.vfma (d a b g w : Nat) : Statement (.vfma d a b g w) := of_slot rfl
theorem Sys2Proof.Laws.Form.vfms (d a b g w : Nat) : Statement (.vfms d a b g w) := of_slot rfl
theorem Sys2Proof.Laws.Form.vrcp (d a g w : Nat) : Statement (.vrcp d a g w) := of_slot rfl
theorem Sys2Proof.Laws.Form.vrsq (d a g w : Nat) : Statement (.vrsq d a g w) := of_slot rfl
theorem Sys2Proof.Laws.Form.vsqrt (d a g w : Nat) : Statement (.vsqrt d a g w) := of_slot rfl
theorem Sys2Proof.Laws.Form.vexp2 (d a g w : Nat) : Statement (.vexp2 d a g w) := of_slot rfl
theorem Sys2Proof.Laws.Form.vlog2 (d a g w : Nat) : Statement (.vlog2 d a g w) := of_slot rfl
theorem Sys2Proof.Laws.Form.vtanh (d a g w : Nat) : Statement (.vtanh d a g w) := of_slot rfl
theorem Sys2Proof.Laws.Form.viadd (d a b g w : Nat) : Statement (.viadd d a b g w) := of_slot rfl
theorem Sys2Proof.Laws.Form.visub (d a b g w : Nat) : Statement (.visub d a b g w) := of_slot rfl
theorem Sys2Proof.Laws.Form.vimul (d a b g w : Nat) : Statement (.vimul d a b g w) := of_slot rfl
theorem Sys2Proof.Laws.Form.vimin (d a b g w : Nat) : Statement (.vimin d a b g w) := of_slot rfl
theorem Sys2Proof.Laws.Form.vimax (d a b g w : Nat) : Statement (.vimax d a b g w) := of_slot rfl
theorem Sys2Proof.Laws.Form.vand (d a b g w : Nat) : Statement (.vand d a b g w) := of_slot rfl
theorem Sys2Proof.Laws.Form.vor (d a b g w : Nat) : Statement (.vor d a b g w) := of_slot rfl
theorem Sys2Proof.Laws.Form.vxor (d a b g w : Nat) : Statement (.vxor d a b g w) := of_slot rfl
theorem Sys2Proof.Laws.Form.vshl (d a i g w : Nat) : Statement (.vshl d a i g w) := of_slot rfl
theorem Sys2Proof.Laws.Form.vshr (d a i g w : Nat) : Statement (.vshr d a i g w) := of_slot rfl
theorem Sys2Proof.Laws.Form.vsra (d a i g w : Nat) : Statement (.vsra d a i g w) := of_slot rfl
theorem Sys2Proof.Laws.Form.vcmp (k a b g c w : Nat) : Statement (.vcmp k a b g c w) := of_slot rfl
theorem Sys2Proof.Laws.Form.vsel (d a b g k w : Nat) : Statement (.vsel d a b g k w) := of_slot rfl
theorem Sys2Proof.Laws.Form.vkand (d a b g w : Nat) : Statement (.vkand d a b g w) := of_slot rfl
theorem Sys2Proof.Laws.Form.vkor (d a b g w : Nat) : Statement (.vkor d a b g w) := of_slot rfl
theorem Sys2Proof.Laws.Form.vknot (d a g w : Nat) : Statement (.vknot d a g w) := of_slot rfl
theorem Sys2Proof.Laws.Form.vcvt (d a f g r w : Nat) : Statement (.vcvt d a f g r w) := of_slot rfl
theorem Sys2Proof.Laws.Form.vbcast (d a g w : Nat) : Statement (.vbcast d a g w) := of_slot rfl
theorem Sys2Proof.Laws.Form.vmov (d a g w : Nat) : Statement (.vmov d a g w) := of_slot rfl
theorem Sys2Proof.Laws.Form.viota (d g w : Nat) : Statement (.viota d g w) := of_slot rfl
theorem Sys2Proof.Laws.Form.vshuf (d a b g w : Nat) : Statement (.vshuf d a b g w) := of_slot rfl
theorem Sys2Proof.Laws.Form.vslideUp (d a i g w : Nat) : Statement (.vslideUp d a i g w) := of_slot rfl
theorem Sys2Proof.Laws.Form.vslideDn (d a i g w : Nat) : Statement (.vslideDn d a i g w) := of_slot rfl
theorem Sys2Proof.Laws.Form.vred (d a o g w : Nat) : Statement (.vred d a o g w) := of_slot rfl
theorem Sys2Proof.Laws.Form.vscan (d a o g w : Nat) : Statement (.vscan d a o g w) := of_slot rfl
theorem Sys2Proof.Laws.Form.vsegred (d a b g o w : Nat) : Statement (.vsegred d a b g o w) := of_slot rfl
theorem Sys2Proof.Laws.Form.vsortAsc (d a b g w : Nat) : Statement (.vsortAsc d a b g w) := of_slot rfl
theorem Sys2Proof.Laws.Form.vsortDesc (d a b g w : Nat) : Statement (.vsortDesc d a b g w) := of_slot rfl
theorem Sys2Proof.Laws.Form.vcompact (d a k g w : Nat) : Statement (.vcompact d a k g w) := of_slot rfl
theorem Sys2Proof.Laws.Form.vexpand (d a k g w : Nat) : Statement (.vexpand d a k g w) := of_slot rfl
theorem Sys2Proof.Laws.Form.vdelta (d a b g w : Nat) : Statement (.vdelta d a b g w) := of_slot rfl
theorem Sys2Proof.Laws.Form.vrope (d a b g w : Nat) : Statement (.vrope d a b g w) := of_slot rfl
theorem Sys2Proof.Laws.Form.vsmax (d a b g w : Nat) : Statement (.vsmax d a b g w) := of_slot rfl
theorem Sys2Proof.Laws.Form.vld (d a i g w : Nat) : Statement (.vld d a i g w) := of_slot rfl
theorem Sys2Proof.Laws.Form.vst (s a i g w : Nat) : Statement (.vst s a i g w) := of_slot rfl
theorem Sys2Proof.Laws.Form.vmovs (d a i g w : Nat) : Statement (.vmovs d a i g w) := of_slot rfl
theorem Sys2Proof.Laws.Form.vins (d a i g w : Nat) : Statement (.vins d a i g w) := of_slot rfl
theorem Sys2Proof.Laws.Form.mlatch (a l : Nat) : Statement (.mlatch a l) := of_slot rfl
theorem Sys2Proof.Laws.Form.mlatchX (a l g : Nat) : Statement (.mlatchX a l g) := of_slot rfl
theorem Sys2Proof.Laws.Form.mma (d a l c h x u n q : Nat) : Statement (.mma d a l c h x u n q) := of_slot rfl
theorem Sys2Proof.Laws.Form.mzero (d : Nat) : Statement (.mzero d) := of_slot rfl
theorem Sys2Proof.Laws.Form.mtrans (d a : Nat) : Statement (.mtrans d a) := of_slot rfl
theorem Sys2Proof.Laws.Form.mcast (d a r : Nat) : Statement (.mcast d a r) := of_slot rfl
theorem Sys2Proof.Laws.Form.msave (s : Nat) : Statement (.msave s) := of_slot rfl
theorem Sys2Proof.Laws.Form.mresume (s : Nat) : Statement (.mresume s) := of_slot rfl
theorem Sys2Proof.Laws.Form.msync : Statement .msync := of_slot rfl
theorem Sys2Proof.Laws.Form.mprobe (d : Nat) : Statement (.mprobe d) := of_slot rfl
theorem Sys2Proof.Laws.Form.mCommandStart (core : Nat) : Statement (.mCommandStart core) := fun _ => ⟨rfl, rfl⟩
theorem Sys2Proof.Laws.Form.mCommandComplete (core : Nat) : Statement (.mCommandComplete core) := fun _ => ⟨rfl, rfl⟩
theorem Sys2Proof.Laws.Form.migration (core : Nat) : Statement (.migration core) := fun _ => ⟨rfl, rfl⟩
theorem Sys2Proof.Laws.Form.recall (core : Nat) : Statement (.recall core) := fun _ => ⟨rfl, rfl⟩
theorem Sys2Proof.Laws.Form.duetWindowSwitch (core : Nat) : Statement (.duetWindowSwitch core) := fun _ => ⟨rfl, rfl⟩
theorem Sys2Proof.Laws.Form.tload (t w c g x : Nat) : Statement (.tload t w c g x) := of_slot rfl
theorem Sys2Proof.Laws.Form.tstore (t w c g r x s : Nat) : Statement (.tstore t w c g r x s) := of_slot rfl
theorem Sys2Proof.Laws.Form.tloadIx (t w i g : Nat) : Statement (.tloadIx t w i g) := of_slot rfl
theorem Sys2Proof.Laws.Form.gather (t w i g s : Nat) : Statement (.gather t w i g s) := of_slot rfl
theorem Sys2Proof.Laws.Form.scatter (t w i g r s : Nat) : Statement (.scatter t w i g r s) := of_slot rfl
theorem Sys2Proof.Laws.Form.copy (l w c g s : Nat) : Statement (.copy l w c g s) := of_slot rfl
theorem Sys2Proof.Laws.Form.tsend (t w g s : Nat) : Statement (.tsend t w g s) := of_slot rfl
theorem Sys2Proof.Laws.Form.trecv (t w g : Nat) : Statement (.trecv t w g) := of_slot rfl
theorem Sys2Proof.Laws.Form.signal (v g s : Nat) : Statement (.signal v g s) := of_slot rfl
theorem Sys2Proof.Laws.Form.drain (s : Nat) : Statement (.drain s) := of_slot rfl
theorem Sys2Proof.Laws.Form.ksave (w : Nat) : Statement (.ksave w) := of_slot rfl
theorem Sys2Proof.Laws.Form.kresume (w : Nat) : Statement (.kresume w) := of_slot rfl
theorem Sys2Proof.Laws.Form.prefetchUp (w c g : Nat) : Statement (.prefetchUp w c g) := of_slot rfl
theorem Sys2Proof.Laws.Form.prefetchDn (w c g : Nat) : Statement (.prefetchDn w c g) := of_slot rfl
theorem Sys2Proof.Laws.Form.route (t w g : Nat) : Statement (.route t w g) := of_slot rfl
theorem Sys2Proof.Laws.Form.routeClose (w g : Nat) : Statement (.routeClose w g) := of_slot rfl
theorem Sys2Proof.Laws.Form.routePairArrival (core eng : Nat) : Statement (.routePairArrival core eng) := fun _ => ⟨rfl, rfl⟩
theorem Sys2Proof.Laws.Form.kCommandStart (core eng : Nat) : Statement (.kCommandStart core eng) := fun _ => ⟨rfl, rfl⟩
theorem Sys2Proof.Laws.Form.kCommandComplete (core eng : Nat) : Statement (.kCommandComplete core eng) := fun _ => ⟨rfl, rfl⟩
theorem Sys2Proof.Laws.Form.pitScaleadd (t w g : Nat) : Statement (.pitScaleadd t w g) := of_slot rfl
theorem Sys2Proof.Laws.Form.pitAtomadd (t w g : Nat) : Statement (.pitAtomadd t w g) := of_slot rfl
theorem Sys2Proof.Laws.Form.pitAttn (t w g : Nat) : Statement (.pitAttn t w g) := of_slot rfl
theorem Sys2Proof.Laws.Form.pitFence (g : Nat) : Statement (.pitFence g) := of_slot rfl
theorem Sys2Proof.Laws.Form.pitXload (t w g : Nat) : Statement (.pitXload t w g) := of_slot rfl
theorem Sys2Proof.Laws.Form.pitXlock (w g : Nat) : Statement (.pitXlock w g) := of_slot rfl
theorem Sys2Proof.Laws.Form.pitXunlock (w g : Nat) : Statement (.pitXunlock w g) := of_slot rfl
theorem Sys2Proof.Laws.Form.pitDispatch (core eng : Nat) : Statement (.pitDispatch core eng) := fun _ => ⟨rfl, rfl⟩
theorem Sys2Proof.Laws.Form.pitCommandRun (pit : Nat) : Statement (.pitCommandRun pit) := fun _ => ⟨rfl, rfl⟩
theorem Sys2Proof.Laws.Form.pitCommandComplete (pit : Nat) : Statement (.pitCommandComplete pit) := fun _ => ⟨rfl, rfl⟩
theorem Sys2Proof.Laws.Form.pitSuspend (pit : Nat) : Statement (.pitSuspend pit) := fun _ => ⟨rfl, rfl⟩
theorem Sys2Proof.Laws.Form.pitResume (pit : Nat) : Statement (.pitResume pit) := fun _ => ⟨rfl, rfl⟩
theorem Sys2Proof.Laws.Form.pitWindowEnd (pit : Nat) : Statement (.pitWindowEnd pit) := fun _ => ⟨rfl, rfl⟩
theorem Sys2Proof.Laws.Form.pitStatusArrival (idx : Nat) : Statement (.pitStatusArrival idx) := fun _ => ⟨rfl, rfl⟩
theorem Sys2Proof.Laws.Form.tdef (t a : Nat) : Statement (.tdef t a) := of_slot rfl
theorem Sys2Proof.Laws.Form.tbind (t a : Nat) : Statement (.tbind t a) := of_slot rfl
theorem Sys2Proof.Laws.Form.treshape (t a b : Nat) : Statement (.treshape t a b) := of_slot rfl
theorem Sys2Proof.Laws.Form.ttranspose (t a : Nat) : Statement (.ttranspose t a) := of_slot rfl
theorem Sys2Proof.Laws.Form.tcast (t a f : Nat) : Statement (.tcast t a f) := of_slot rfl
theorem Sys2Proof.Laws.Form.ttype (t a : Nat) : Statement (.ttype t a) := of_slot rfl
theorem Sys2Proof.Laws.Form.tcheck (t a : Nat) : Statement (.tcheck t a) := of_slot rfl
theorem Sys2Proof.Laws.Form.dvSet (n b : Nat) : Statement (.dvSet n b) := of_slot rfl
theorem Sys2Proof.Laws.Form.dvGet (d n : Nat) : Statement (.dvGet d n) := of_slot rfl
theorem Sys2Proof.Laws.Form.dvClear (n : Nat) : Statement (.dvClear n) := of_slot rfl
theorem Sys2Proof.Laws.Form.dvBound (n b : Nat) : Statement (.dvBound n b) := of_slot rfl
theorem Sys2Proof.Laws.Form.accAlloc (d a : Nat) : Statement (.accAlloc d a) := of_slot rfl
theorem Sys2Proof.Laws.Form.accFree (a b : Nat) : Statement (.accFree a b) := of_slot rfl
theorem Sys2Proof.Laws.Form.accWin (a f : Nat) : Statement (.accWin a f) := of_slot rfl
theorem Sys2Proof.Laws.Form.pgLoad (c b : Nat) : Statement (.pgLoad c b) := of_slot rfl
theorem Sys2Proof.Laws.Form.pgStartFwd (c : Nat) : Statement (.pgStartFwd c) := of_slot rfl
theorem Sys2Proof.Laws.Form.pgStartTr (c : Nat) : Statement (.pgStartTr c) := of_slot rfl
theorem Sys2Proof.Laws.Form.countPassEnd (core ctx : Nat) : Statement (.countPassEnd core ctx) := fun _ => ⟨rfl, rfl⟩
theorem Sys2Proof.Laws.Form.pgNext (d c : Nat) : Statement (.pgNext d c) := of_slot rfl
theorem Sys2Proof.Laws.Form.pgNextblk (d c : Nat) : Statement (.pgNextblk d c) := of_slot rfl
theorem Sys2Proof.Laws.Form.pgSave (c b : Nat) : Statement (.pgSave c b) := of_slot rfl
theorem Sys2Proof.Laws.Form.pgRestore (c b : Nat) : Statement (.pgRestore c b) := of_slot rfl
theorem Sys2Proof.Laws.Form.treeClear : Statement .treeClear := of_slot rfl
theorem Sys2Proof.Laws.Form.treeRoot (a b : Nat) : Statement (.treeRoot a b) := of_slot rfl
theorem Sys2Proof.Laws.Form.treeAdd (d a n : Nat) : Statement (.treeAdd d a n) := of_slot rfl
theorem Sys2Proof.Laws.Form.treeMaskF32 (d n : Nat) : Statement (.treeMaskF32 d n) := of_slot rfl
theorem Sys2Proof.Laws.Form.treeMaskBf16 (d n : Nat) : Statement (.treeMaskBf16 d n) := of_slot rfl
theorem Sys2Proof.Laws.Form.treeMaskk (k n : Nat) : Statement (.treeMaskk k n) := of_slot rfl
theorem Sys2Proof.Laws.Form.treePosLo (d : Nat) : Statement (.treePosLo d) := of_slot rfl
theorem Sys2Proof.Laws.Form.treePosHi (d : Nat) : Statement (.treePosHi d) := of_slot rfl
theorem Sys2Proof.Laws.Form.treePrune (n : Nat) : Statement (.treePrune n) := of_slot rfl
theorem Sys2Proof.Laws.Form.treeMap (d : Nat) : Statement (.treeMap d) := of_slot rfl
theorem Sys2Proof.Laws.Form.treeSave (a : Nat) : Statement (.treeSave a) := of_slot rfl
theorem Sys2Proof.Laws.Form.treeLoad (a : Nat) : Statement (.treeLoad a) := of_slot rfl
theorem Sys2Proof.Laws.Form.portSet (a p : Nat) : Statement (.portSet a p) := of_slot rfl
theorem Sys2Proof.Laws.Form.portReset (p : Nat) : Statement (.portReset p) := of_slot rfl
theorem Sys2Proof.Laws.Form.wfence : Statement .wfence := of_slot rfl
theorem Sys2Proof.Laws.Form.trapEntry (core : Nat) : Statement (.trapEntry core) := fun _ => ⟨rfl, rfl⟩
theorem Sys2Proof.Laws.Form.prompterPick (die : Nat) : Statement (.prompterPick die) := fun _ => ⟨rfl, rfl⟩
theorem Sys2Proof.Laws.Form.ageStep (die wing : Nat) : Statement (.ageStep die wing) := fun _ => ⟨rfl, rfl⟩
theorem Sys2Proof.Laws.Form.prestageFill (die wing : Nat) : Statement (.prestageFill die wing) := fun _ => ⟨rfl, rfl⟩
theorem Sys2Proof.Laws.Form.enqueueBufferDrain (die : Nat) : Statement (.enqueueBufferDrain die) := fun _ => ⟨rfl, rfl⟩
theorem Sys2Proof.Laws.Form.curtain (die : Nat) : Statement (.curtain die) := fun _ => ⟨rfl, rfl⟩
theorem Sys2Proof.Laws.Form.contextResume (core : Nat) : Statement (.contextResume core) := fun _ => ⟨rfl, rfl⟩
theorem Sys2Proof.Laws.Form.remoteWrite (pa n data : Nat) : Statement (.remoteWrite pa n data) := fun _ => ⟨rfl, rfl⟩
theorem Sys2Proof.Laws.Form.remoteRead (pa n : Nat) : Statement (.remoteRead pa n) := fun _ => ⟨rfl, rfl⟩
theorem Sys2Proof.Laws.Form.remoteWritePerform (idx : Nat) : Statement (.remoteWritePerform idx) := fun _ => ⟨rfl, rfl⟩
theorem Sys2Proof.Laws.Form.hostMemoryAccess (host wr pa n data : Nat) : Statement (.hostMemoryAccess host wr pa n data) := fun _ => ⟨rfl, rfl⟩
theorem Sys2Proof.Laws.Form.hostPush (host die wing n data : Nat) : Statement (.hostPush host die wing n data) := fun _ => ⟨rfl, rfl⟩
theorem Sys2Proof.Laws.Form.qbaseWrite (host die wing val : Nat) : Statement (.qbaseWrite host die wing val) := fun _ => ⟨rfl, rfl⟩
theorem Sys2Proof.Laws.Form.pushstatWrite (host die wing val : Nat) : Statement (.pushstatWrite host die wing val) := fun _ => ⟨rfl, rfl⟩
theorem Sys2Proof.Laws.Form.approveWrite (host off val : Nat) : Statement (.approveWrite host off val) := fun _ => ⟨rfl, rfl⟩
theorem Sys2Proof.Laws.Form.configProposal (len image : Nat) : Statement (.configProposal len image) := fun _ => ⟨rfl, rfl⟩
theorem Sys2Proof.Laws.Form.attestRequest (host : Nat) : Statement (.attestRequest host) := fun _ => ⟨rfl, rfl⟩
theorem Sys2Proof.Laws.Form.attestReportReady (host : Nat) : Statement (.attestReportReady host) := fun _ => ⟨rfl, rfl⟩
theorem Sys2Proof.Laws.Form.nonceWrite (host off val : Nat) : Statement (.nonceWrite host off val) := fun _ => ⟨rfl, rfl⟩
theorem Sys2Proof.Laws.Form.throttleWrite (val : Nat) : Statement (.throttleWrite val) := fun _ => ⟨rfl, rfl⟩
theorem Sys2Proof.Laws.Form.pstateWrite (val : Nat) : Statement (.pstateWrite val) := fun _ => ⟨rfl, rfl⟩
theorem Sys2Proof.Laws.Form.registerWrite (host off val : Nat) : Statement (.registerWrite host off val) := fun _ => ⟨rfl, rfl⟩
theorem Sys2Proof.Laws.Form.debugStop (host core : Nat) : Statement (.debugStop host core) := fun _ => ⟨rfl, rfl⟩
theorem Sys2Proof.Laws.Form.debugRegisterWrite (host core kind idx val : Nat) : Statement (.debugRegisterWrite host core kind idx val) := fun _ => ⟨rfl, rfl⟩
theorem Sys2Proof.Laws.Form.debugRegisterRead (host core kind idx : Nat) : Statement (.debugRegisterRead host core kind idx) := fun _ => ⟨rfl, rfl⟩
theorem Sys2Proof.Laws.Form.debugRestart (host core : Nat) : Statement (.debugRestart host core) := fun _ => ⟨rfl, rfl⟩
theorem Sys2Proof.Laws.Form.moduleReset : Statement .moduleReset := fun _ => ⟨rfl, rfl⟩
theorem Sys2Proof.Laws.Form.clockStep (mhz : Nat) : Statement (.clockStep mhz) := fun _ => ⟨rfl, rfl⟩
theorem Sys2Proof.Laws.Form.linkFailure (link : Nat) : Statement (.linkFailure link) := fun _ => ⟨rfl, rfl⟩
theorem Sys2Proof.Laws.Form.remoteTimeout (core kind idx : Nat) : Statement (.remoteTimeout core kind idx) := fun _ => ⟨rfl, rfl⟩
theorem Sys2Proof.Laws.Form.reduceContribution (slot lane n data : Nat) : Statement (.reduceContribution slot lane n data) := fun _ => ⟨rfl, rfl⟩
theorem Sys2Proof.Laws.Form.selfTestStart (kind core idx : Nat) : Statement (.selfTestStart kind core idx) := fun _ => ⟨rfl, rfl⟩
theorem Sys2Proof.Laws.Form.selfTestEnd (idx passed : Nat) : Statement (.selfTestEnd idx passed) := fun _ => ⟨rfl, rfl⟩
theorem Sys2Proof.Laws.Form.linkRetrainComplete (link : Nat) : Statement (.linkRetrainComplete link) := fun _ => ⟨rfl, rfl⟩
end

