-- ==== Sys2Proof/Laws/Slots.lean ====
section
/-! SUPPORT. What the shared operations of the slots can do, each said once: a check that passes, a register that is read, a result that is
handed on; and the frame of everything that ends in `perform`. -/

namespace Sys2Proof.Machine

/-! ### Checks in a row -/

/-- A check in front passes, or the whole stops with it. -/
theorem bind_ok_iff {α β : Type} (x : Except Stop α) (f : α → Except Stop β) (r : β) :
    (x >>= f) = .ok r ↔ ∃ a, x = .ok a ∧ f a = .ok r := by
  cases x with
  | error e => simp [bind, Except.bind]
  | ok a => simp [bind, Except.bind]

@[simp] theorem ok_bind {α β : Type} (a : α) (f : α → Except Stop β) : ((.ok a : Except Stop α) >>= f) = f a := rfl

@[simp] theorem error_bind {α β : Type} (e : Stop) (f : α → Except Stop β) : ((.error e : Except Stop α) >>= f) = .error e := rfl

@[simp] theorem pure_ok {α : Type} (a : α) : (pure a : Except Stop α) = .ok a := rfl

@[simp] theorem passes_ok {α : Type} (a : α) : passes (.ok a : Except Stop α) = true := rfl

@[simp] theorem passes_error {α : Type} (e : Stop) : passes (.error e : Except Stop α) = false := rfl

/-- A check that passes and gives nothing answers `.ok ()`. -/
theorem ok_of_passes {r : Except Stop Unit} (h : passes r = true) : r = .ok () := by
  cases r with
  | ok a => rfl
  | error e => cases h

theorem needAligned_ok {s : State} {va n : Nat} (h : va % n = 0) : needAligned s va n = .ok () := by simp [needAligned, h]

theorem needData_ok {s : State} {va n : Nat} (hb : va < 2 ^ 53) (h : va % n = 0) : needData s va n = .ok () := by
  rw [needData, if_neg (Nat.not_le.mpr hb), needAligned_ok h]

/-- An address that translates lies in the address space. -/
theorem xlate_lt {s : State} {core root va : Nat} {mode : Mode} {rd wr : Bool} {q : Nat × List TlbEnt}
    (h : xlate s core mode root va rd wr = .ok q) : va < 2 ^ 53 := by
  by_cases hb : 2 ^ 53 ≤ va
  · rw [xlate, if_pos hb] at h; cases h
  · omega

/-- So does the first address of a span that translates. -/
theorem xlateSpan_lt {s : State} {core root va n : Nat} {mode : Mode} {rd wr : Bool} {ps : List (Nat × Nat)} (hn : n ≠ 0)
    (h : xlateSpan s core mode root va n rd wr = .ok ps) : va < 2 ^ 53 := by
  simp only [xlateSpan, pieces, hn, if_false, xlatePieces] at h
  split at h
  · cases h
  · exact xlate_lt ‹_›

/-- Bytes that load come from an address in the address space. -/
theorem loadV_lt {s : State} {va n : Nat} {bs : List Byte} (hn : n ≠ 0) (h : loadV s va n = .ok bs) : va < 2 ^ 53 := by
  simp only [loadV, bind_ok_iff] at h
  obtain ⟨_, _, h⟩ := h
  split at h
  · cases h
  · exact xlateSpan_lt hn ‹_›

/-- Bytes that a store takes go there too. -/
theorem storeV_lt {s : State} {va : Nat} {bs : List Byte} {es : List Eff} (hn : bs.length ≠ 0) (h : storeV s va bs = .ok es) : va < 2 ^ 53 := by
  simp only [storeV] at h
  split at h
  · cases h
  · exact xlateSpan_lt hn ‹_›

theorem needLegal_ok {s : State} {b : Bool} (h : b = true) : needLegal s b = .ok () := by simp [needLegal, h]

theorem needStageManager_ok {s : State} (h : inStageManager s = true) : needStageManager s = .ok () := by
  simp only [inStageManager, beq_iff_eq] at h
  simp [needStageManager, h]

theorem needStageManager_cue {s : State} (h : inStageManager s = false) : needStageManager s = .error (faultOf 2 s.issue.slot) := by
  have h' : ¬(ctx s).mode = .stageManager := by simpa [inStageManager] using h
  simp [needStageManager, h', stopSlot, stopFault, faultOf]

/-! ### Registers -/

/-- A register is touched: it is free, or the bundle stalls on it, or its waiting error is raised (R54, R98). -/
theorem touchReg_cases (s : State) (n : Nat) :
    (regFree s n = true ∧ touchReg s n = .ok ()) ∨ (busyReg (cur s) n = true ∧ touchReg s n = .error (.stall .scalar)) ∨
      ∃ va, regErrOf (ctx s) n = some va ∧ touchReg s n = .error (.held ⟨14, BitVec.ofNat 64 va, none⟩ (.reg n)) := by
  unfold touchReg regFree
  cases hb : busyReg (cur s) n
  · cases he : regErrOf (ctx s) n
    · exact .inl ⟨by simp, by simp⟩
    · rename_i va; exact .inr (.inr ⟨va, rfl, by simp⟩)
  · exact .inr (.inl ⟨rfl, by simp [stopStall]⟩)

theorem touchReg_free {s : State} {n : Nat} (h : regFree s n = true) : touchReg s n = .ok () := by
  simp only [regFree, Bool.and_eq_true, Bool.not_eq_true', Option.isNone_iff_eq_none] at h
  simp [touchReg, h.1, h.2]

theorem regFree_of_ready {s : State} {n : Nat} (h : regReady s n = true) : regFree s n = true := by
  simp only [regReady, Bool.and_eq_true] at h; exact h.1

/-- A readable scalar is read (R87, R92). -/
theorem rdS_ready {s : State} {n : Nat} (k : Nat) (h : regReady s n = true) : rdS s k n = .ok (regVal s n) := by
  have h1 := touchReg_free (regFree_of_ready h)
  simp only [regReady, Bool.and_eq_true, Bool.not_eq_true'] at h
  simp [rdS, h1, noEarly, h.2, regVal]

theorem rdP_ready {s : State} {n : Nat} (k : Nat) (h : predReady s n = true) : rdP s k n = .ok (predVal s n) := by
  simp only [predReady, Bool.not_eq_true'] at h
  simp [rdP, noEarly, h, predVal]

theorem rdK_ready {s : State} {n : Nat} (k : Nat) (h : maskReady s n = true) : rdK s k n = .ok (maskVal s n) := by
  simp only [maskReady, Bool.not_eq_true'] at h
  simp [rdK, noEarly, h, maskVal]

/-- A source that is read gives the register's value, whatever else holds. -/
theorem rdS_ok {s : State} {k n : Nat} {v : Word} (h : rdS s k n = .ok v) : v = regVal s n := by
  simp only [rdS, bind_ok_iff, pure_ok, Except.ok.injEq] at h
  obtain ⟨_, _, _, _, h⟩ := h
  exact h.symm

theorem rdP_ok {s : State} {k n : Nat} {v : Bool} (h : rdP s k n = .ok v) : v = predVal s n := by
  simp only [rdP, bind_ok_iff, pure_ok, Except.ok.injEq] at h
  obtain ⟨_, _, h⟩ := h
  exact h.symm

theorem rdK_ok {s : State} {k n : Nat} {v : BitVec 512 × Nat} (h : rdK s k n = .ok v) : v = maskVal s n := by
  simp only [rdK, bind_ok_iff, pure_ok, Except.ok.injEq] at h
  obtain ⟨_, _, h⟩ := h
  exact h.symm

theorem outS_free {s : State} {d : Nat} (lat : Nat) (v fl : Word) (h : regFree s d = true) : outS s lat d v fl = .ok [landS lat d v fl] := by
  simp [outS, touchReg_free h, landS]

theorem outBcast_free {s : State} {d : Nat} (v : Word) (h : regFree s d = true) : outBcast s d v = .ok (landB d v) := by
  simp [outBcast, touchReg_free h, landB, landS]

/-- A result handed on is the one landing of its register. -/
theorem outS_ok {s : State} {lat d : Nat} {v fl : Word} {es : List Eff} (h : outS s lat d v fl = .ok es) : es = [landS lat d v fl] := by
  simp only [outS, bind_ok_iff, pure_ok, Except.ok.injEq] at h
  obtain ⟨_, _, h⟩ := h
  exact h.symm

/-- A reply takes its register, or is nothing for s0 (R54). -/
theorem replyTo_free {s : State} {d : Nat} (v : Nat) (h : regFree s d = true) :
    replyTo s d v = .ok (if d = 0 then [] else
      [.access { seq := 0, kind := .reply, va := 0, pa := 0, size := 0, dst := d, data := v, swap := 0, scope := 0, acq := false,
                 rel := false, serial := (ctx s).serial, home := none, upto := 0, seen := [] }]) := by
  simp [replyTo, touchReg_free h]

/-! ### The frame of a slot -/

/-- Everything that a slot changes is the bundle in issue: its effects or its stop go behind the others, under the slot's number. -/
theorem settle_frame (s : State) (r : Except Stop (List Eff)) :
    settle s r = { s with issue := { s.issue with
      effs := s.issue.effs ++ (match r with | .ok es => es.map fun e => (s.issue.slot, e) | .error _ => [])
      stops := s.issue.stops ++ (match r with | .ok _ => [] | .error st => [(s.issue.slot, st)]) } } := by
  cases r <;> simp [settle]

theorem perform_next (s : State) (r : Except Stop (List Eff)) : perform s r = .next (settle s r) := rfl

/-- Two notes of one slot in a row are one note of both. -/
theorem settle_settle_ok (s : State) (es : List Eff) (r : Except Stop (List Eff)) :
    settle (settle s (.ok es)) r = { s with issue := { s.issue with
      effs := s.issue.effs ++ es.map (fun e => (s.issue.slot, e)) ++ (match r with | .ok fs => fs.map fun e => (s.issue.slot, e) | .error _ => [])
      stops := s.issue.stops ++ (match r with | .ok _ => [] | .error st => [(s.issue.slot, st)]) } } := by
  cases r <;> simp [settle]

/-! ### Vector operations -/

theorem tagsAllowed_ok (s : State) (ok : Nat → Nat → Bool) (pos : List (Nat × Nat)) (vs : List VSrc) (h : tagsFit ok pos vs = true) :
    tagsAllowed s ok pos vs = .ok () := by
  induction pos generalizing vs with
  | nil => cases vs <;> rfl
  | cons p ps ih =>
    cases vs with
    | nil => rfl
    | cons v vs =>
      simp only [tagsFit, List.zip_cons_cons, List.all_cons, Bool.and_eq_true] at h
      have := ih vs h.2
      simp only [tagsAllowed]
      split
      · rename_i t ht
        simp only [ht] at h
        simp [h.1, this]
      · exact this

theorem tagsAlike_ok (s : State) (fmt : Nat) (pos : List (Nat × Nat)) (vs : List VSrc) (h : tagsSame fmt vs = true) :
    tagsAlike s fmt pos vs = .ok () := by
  induction pos generalizing vs with
  | nil => cases vs <;> rfl
  | cons p ps ih =>
    cases vs with
    | nil => rfl
    | cons v vs =>
      simp only [tagsSame, List.all_cons, Bool.and_eq_true] at h
      have := ih vs h.2
      simp only [tagsAlike]
      split
      · rename_i t ht
        simp only [ht, beq_iff_eq] at h
        simp [h.1, this]
      · exact this

/-- A result goes to the place that its destination names. -/
theorem vecDest_goes {s : State} {d nowb : Nat} (lat : Nat) {r : VRes} {p : VecPlace} (h : VecGoes s d nowb r.tag p) :
    vecDest s d nowb lat r = .ok (vecEffs lat r p) := by
  cases p with
  | none => have h : nowb = 1 := h; simp [vecDest, h, vecEffs]
  | row k => obtain ⟨h1, h2, h3⟩ := h; simp [vecDest, h1, h2, h3, vecEffs]
  | port z off =>
    obtain ⟨h1, h2, rfl, f, h3, h4⟩ := h
    have h5 : ¬ d < 48 := by omega
    rcases h4 with h4 | h4 <;> simp [vecDest, h1, h5, h3, h4, vecEffs]

/-- The whole course of a vector operation whose sources are read, whose tags fit and whose result has a place. -/
theorem vecOp_reads {s : State} {g d nowb lat : Nat} {pos : List (Nat × Nat)} {ok : Nat → Nat → Bool} {alike : Bool}
    {f : Nat → List Row → List VSrc → Except Stop VRes} {vs : List VSrc} {es : List Eff} {r : VRes} {p : VecPlace}
    (h : VecReads s g d nowb pos vs es) (ht : tagsFit ok pos vs = true)
    (ha : alike = true → tagsSame (opFmt (ctx s) vs) vs = true)
    (hf : f (opFmt (ctx s) vs) (vs.map (·.rowIn (opFmt (ctx s) vs))) vs = .ok r) (hp : VecGoes s d nowb r.tag p) :
    vecOp s g d nowb lat pos ok alike f = .ok (es ++ holdEffs (opFmt (ctx s) vs) pos vs ++ vecEffs lat r p) := by
  have h3 := rdP_ready 3 h.guardReady
  have h5 := tagsAllowed_ok s ok pos vs ht
  have h6 := vecDest_goes lat hp
  simp only [vecOp, h.legal, h3, h.guardTrue, h.quiet, h.sources, ok_bind, Bool.not_true, Bool.false_eq_true, if_false, h5]
  cases alike
  · simp [hf, h6]
  · simp [tagsAlike_ok s _ pos vs (ha rfl), hf, h6]

/-- A false guard suppresses the operation: nothing is read and nothing is written (R39). -/
theorem vecOp_guard_false {s : State} {g d nowb lat : Nat} {pos : List (Nat × Nat)} {ok : Nat → Nat → Bool} {alike : Bool}
    {f : Nat → List Row → List VSrc → Except Stop VRes} (hl : bcastLegal s (pos.map Prod.snd) = .ok ())
    (hg : predReady s g = true) (hv : predVal s g = false) : vecOp s g d nowb lat pos ok alike f = .ok [] := by
  simp [vecOp, hl, rdP_ready 3 hg, hv]

/-- The same course without the guard, which a caller has looked at. -/
theorem vecOp_reads_always {s : State} {g d nowb lat : Nat} {pos : List (Nat × Nat)} {ok : Nat → Nat → Bool} {alike : Bool}
    {f : Nat → List Row → List VSrc → Except Stop VRes} {vs : List VSrc} {es : List Eff} {r : VRes} {p : VecPlace}
    (h : VecReads s g d nowb pos vs es) (hp0 : predReady s 0 = true) (ht : tagsFit ok pos vs = true)
    (ha : alike = true → tagsSame (opFmt (ctx s) vs) vs = true)
    (hf : f (opFmt (ctx s) vs) (vs.map (·.rowIn (opFmt (ctx s) vs))) vs = .ok r) (hp : VecGoes s d nowb r.tag p) :
    vecOp s 0 d nowb lat pos ok alike f = .ok (es ++ holdEffs (opFmt (ctx s) vs) pos vs ++ vecEffs lat r p) :=
  vecOp_reads ⟨h.legal, hp0, by simp [predVal, predOf], h.quiet, h.sources⟩ ht ha hf hp

end Sys2Proof.Machine
end

