-- ==== Sys2Proof/Laws/Scalar.lean ====
section
/-! SUPPORT. The shared courses of the scalar operations on readable operands. -/

namespace Sys2Proof.Machine

/-- A two-source operation broadcasts its value and lands it (R36, R92). -/
theorem aluRR_ready {s : State} {d a b : Nat} {f : Word → Word → Word} (ha : regReady s a = true) (hb : regReady s b = true)
    (hd : regFree s d = true) : aluRR s d a b f = .ok (landB d (f (regVal s a) (regVal s b))) := by
  simp [aluRR, rdS_ready _ ha, rdS_ready _ hb, outBcast_free _ hd]

/-- A one-source operation does the same. -/
theorem aluR_ready {s : State} {d a : Nat} {f : Word → Word} (ha : regReady s a = true) (hd : regFree s d = true) :
    aluR s d a f = .ok (landB d (f (regVal s a))) := by
  simp [aluR, rdS_ready _ ha, outBcast_free _ hd]

/-- A product or a quotient lands late, with its flags (R92, R93). -/
theorem aluLong_ready {s : State} {d a b lat : Nat} {f : Word → Word → Word} {g : Word → Word} (ha : regReady s a = true)
    (hb : regReady s b = true) (hd : regFree s d = true) :
    aluLong s lat d a b f g = .ok [landS lat d (f (regVal s a) (regVal s b)) (g (regVal s b))] := by
  simp [aluLong, rdS_ready _ ha, rdS_ready _ hb, outS_free _ _ _ hd]

end Sys2Proof.Machine
end

