-- ==== Sys2Proof/Tests/Slice0.lean ====
section
/-! SUPPORT. The model's own tests: words written out from the encodings of the manual, one step each on a small state, terms that the
well-formedness check refuses, and for each statement with hypotheses a state that meets them. -/

set_option Elab.async false

namespace Sys2Proof.Machine.Tests

/-! ### A small module: core 0 runs stage-manager code, an 8 GiB page at address 0 under each root, a few tiles, records and registers -/

/-- Byte memory from blocks of little-endian numbers. -/
def memOf (bs : List (Nat × Nat × Nat)) : Memory := bs.foldl (fun m b => memBlock m b.1 (natBytes b.2.1 b.2.2)) []

/-- A tile of a type and a binding in a space. -/
def mkTile (rank fmt layout : Nat) (es : List Nat) (space base len : Nat) : Tile :=
  ⟨twMake rank fmt layout 0 es, BitVec.ofNat 64 (space + base * 2 ^ 2 + len * 2 ^ 23)⟩

/-- The page tables of the two roots, window, routing, mailbox and pit records, a coordinate block, a port record, a pattern program and cue
records. -/
def mem0 : Memory := memOf [
  (0x2000, 8, 0x4001), (0x4000, 8, 3), (0x6000, 8, 0x8001), (0x8000, 8, 0xF),
  (0x20000, 128, 0x30000 + 73 * 2 ^ 64 + 4 * 2 ^ 128 + 8 * 2 ^ 160 + 32 * 2 ^ 256),
  (0x20080, 128, 0x30000 + 73 * 2 ^ 64 + 8 * 2 ^ 128 + 4 * 2 ^ 160 + 16 * 2 ^ 256),
  (0x21000, 64, 2 + 16 * 2 ^ 32),
  (0x21100, 64, 0x444E5354 + 128 * 2 ^ 64 + (twMake 1 0x12 0 0 [4, 8]).toNat * 2 ^ 128),
  (0x22000, 64, 4), (0x22040, 64, 2 ^ 128), (0x22080, 64, 2 ^ 128 + 2 ^ 160), (0x220C0, 64, 0), (0x22100, 64, 2 ^ 96),
  (0x23000, 64, 0x400 + 0x24 * 2 ^ 64 + (1 + 512 * 2 ^ 32) * (1 + 2 ^ 64 + 2 ^ 128 + 2 ^ 192) * 2 ^ 128),
  (0x24000, 64, 0x10000 + 5 * 2 ^ 64), (0x24040, 64, 0x10000 + 0x24080 * 2 ^ 128), (0x24080, 64, 2),
  (0x25000, 16, (twMake 1 0x12 0 0 [4, 8]).toNat), (0x25010, 16, (twMake 1 0x12 0 0 [8, 4]).toNat),
  (0x26000, 4, 1)]

/-- The running context. -/
def cx : Ctxt := { Ctxt.start with
  mode := .stageManager, pc := 0x10000, iroot := 0x2000, droot := 0x6000, decl := BitVec.ofNat 64 (64 + 32 * 2 ^ 9 + 2047 * 2 ^ 15 + 255 * 2 ^ 27)
  held := BitVec.ofNat 256 (2 ^ 64 - 1), window := some 0, bregs := [(1, 0x10040), (2, 3), (7, 0x10080)], preds := 0x03
  sregs := [(1, 0x20000), (2, 0x40), (3, 3), (4, 7), (5, 0x1000), (8, 0x21000), (9, 0x21100), (10, 0x22000), (11, 0x23000), (12, 0x24000),
    (13, 0x25000), (14, 0x26000), (15, 0x24040), (16, 1), (17, 0x28000), (18, 48), (19, 0x22040), (20, 0x22080), (21, 0x220C0),
    (22, 0x22100), (23, 0x20080), (24, 0x25010), (25, 0xFFFFFFFFFFFFFFFF), (26, 0x8000000000000000), (27, 0x1FFFF8)]
  tiles := [(0, mkTile 1 0x12 0 [4, 8] 1 0 128), (1, mkTile 1 0x12 3 [4, 16] 2 0 2048), (2, mkTile 1 0x0F 2 [4, 8] 1 0x1000 1024),
    (3, mkTile 1 0x0F 0 [8, 16] 1 0x2000 256), (4, mkTile 0 8 0 [4] 1 0x2400 64), (5, mkTile 1 0x12 0 [8, 4] 1 0x2800 128),
    (6, mkTile 1 0x0C 0 [4, 18496] 1 0x40000 73984), (7, mkTile 1 0x12 0 [4, 256] 1 0x4000 4096), (8, mkTile 1 8 0 [4, 2] 1 0x6000 64),
    (9, mkTile 1 0x12 0 [2, 128] 1 0x7000 1024), (10, mkTile 1 8 0 [3, 4] 1 0x8000 64), (11, mkTile 1 0x12 0 [3, 2] 1 0x9000 64),
    (12, mkTile 1 0x12 3 [4, 16] 2 2048 2048)]
  latches := [(0, { LatchSt.empty with tw := twMake 1 0x0F 0 0 [8, 16] })] }

/-- The module. -/
def world : State := { State.reset with
  mem := mem0
  house := { House.reset with bootstat := 1, enables := BitVec.allOnes 512 }
  cores := [(0, { Core.reset with status := .running, ctx := cx, tvec := 0x10100 })] }

/-- The module with another context, or another core. -/
def withX (f : Ctxt → Ctxt) : State := setCtx world (f cx)
def withC (f : Core → Core) : State := setCur world (f (cur world))
/-- The module with slot k in issue. -/
def atSlot (k : Nat) (s : State) : State := { s with issue := { s.issue with slot := k } }

/-! ### Hypotheses met -/

/-- A check gives a value. -/
def okIs {α : Type} [DecidableEq α] (r : Except Stop α) (a : α) : Bool := match r with | .ok b => decide (b = a) | .error _ => false

theorem ok_of {α : Type} [DecidableEq α] {r : Except Stop α} {a : α} (h : okIs r a = true) : r = .ok a := by
  unfold okIs at h
  split at h
  · rw [of_decide_eq_true h]
  · cases h

theorem ex_of {α : Type} {r : Except Stop α} (h : passes r = true) : ∃ a, r = .ok a := by
  unfold passes at h
  split at h
  · exact ⟨_, rfl⟩
  · cases h

theorem unit_of {r : Except Stop Unit} (h : passes r = true) : r = .ok () := ex_of h |>.elim fun _ h => h

/-- The sources that a vector operation reads. -/
def readOf (s : State) (pos : List (Nat × Nat)) : List VSrc × List Eff := match readVecs s pos [] with | .ok r => r | .error _ => ([], [])

theorem vec_of {s : State} {g d w : Nat} {pos : List (Nat × Nat)}
    (h : (passes (bcastLegal s (pos.map Prod.snd)) && predReady s g && predVal s g &&
      passes (vecStalls s (pos.map Prod.snd) (if w = 1 then none else some d)) && passes (readVecs s pos [])) = true) :
    VecReads s g d w pos (readOf s pos).1 (readOf s pos).2 := by
  simp only [Bool.and_eq_true] at h
  obtain ⟨⟨⟨⟨h1, h2⟩, h3⟩, h4⟩, h5⟩ := h
  refine ⟨unit_of h1, h2, h3, unit_of h4, ?_⟩
  obtain ⟨a, ha⟩ := ex_of h5
  simp only [readOf, ha]

theorem row_of {s : State} {d r : Nat} {t : Option Nat} (h : (decide (d < 48) && okIs (vecRow s d) r) = true) :
    VecGoes s d 0 t (.row r) := by
  simp only [Bool.and_eq_true, decide_eq_true_eq] at h
  exact ⟨by decide, h.1, ok_of h.2⟩

theorem witness_RegisterArithmeticResults : regReady world 1 = true ∧ regReady world 4 = true ∧ regFree world 3 = true ∧
    predReady world 1 = true := by decide +kernel

theorem witness_ProductResults : regReady world 25 = true ∧ regReady world 26 = true ∧ regFree world 0 = true := by decide +kernel

theorem witness_DivisionResults : regReady world 26 = true ∧ regReady world 25 = true ∧ regReady world 0 = true ∧ regFree world 3 = true ∧
    regVal world 0 = 0 ∧ (regVal world 25).toInt = -1 ∧ (regVal world 26).toInt = -2 ^ 63 ∧ regVal world 25 ≠ 0 ∧
    regReady world 4 = true ∧ (regVal world 4).toInt = 7 ∧ ¬ ((regVal world 25).toInt = -1 ∧ (regVal world 4).toInt = -2 ^ 63) := by decide +kernel

theorem witness_ImmediateResults : regReady world 1 = true ∧ regFree world 3 = true ∧ 65535 < 65536 ∧ 63 < 64 ∧ 2097151 < 2097152 := by
  decide +kernel

theorem witness_CompareResults : regReady world 25 = true ∧ regReady world 4 = true ∧ 5 ≤ 5 ∧ 8191 < 8192 := by decide +kernel

theorem witness_PredicateOperations : predReady world 1 = true ∧ predReady world 15 = true := by decide +kernel

theorem witness_VoteResults : maskReady world 7 = true := by decide +kernel

theorem witness_ScratchpadAccesses : regReady world 27 = true ∧ regFree world 3 = true ∧ regReady world 3 = true ∧
    0x1FFFF8 = (regVal world 27 + BitVec.ofInt 64 (((0 : Nat) : Int) * 2 ^ 3)).toNat ∧ 0x1FFFF8 % 2 ^ 3 = 0 ∧
    passes (touchRange world 0x1FFFF8 8 false) = true ∧ passes (touchRange world 0x1FFFF8 8 true) = true ∧
    pendingOn (ctx world) (spadPending 0x1FFFF8 8) = false ∧ isBad world (windowPa world.focus 0x1FFFF8) 8 = false := by decide +kernel

theorem witness_ScratchpadAccesses_stops :
    0x200000 = (regVal world 27 + BitVec.ofInt 64 (((1 : Nat) : Int) * 2 ^ 3)).toNat ∧ regReady world 4 = true ∧
    7 = (regVal world 4 + BitVec.ofInt 64 (((0 : Nat) : Int) * 2 ^ 3)).toNat ∧ 7 % 2 ^ 3 ≠ 0 := by decide +kernel

/-- A translation gives an address. -/
def found {ε α : Type} (r : Except ε α) : Bool := match r with | .ok _ => true | .error _ => false

theorem witness_GlobalAccesses : regReady world 1 = true ∧ regReady world 2 = true ∧ regFree world 3 = true ∧ regReady world 3 = true ∧
    (regVal world 1 + regVal world 2).toNat = 0x20040 ∧ found (xlate world 0 .stageManager (rootPa (ctx world).droot) 0x20040 true false) = true ∧
    found (xlate world 0 .stageManager (rootPa (ctx world).droot) 0x20040 false true) = true ∧
    found (xlate world 0 .stageManager (rootPa (ctx world).droot) (regVal world 1).toNat true true) = true := by decide +kernel

/-- s28 holds an address that no table maps. -/
def withHole : State := withX fun x => { x with sregs := mput 28 (2 ^ 40) x.sregs }

theorem witness_GlobalAccesses_stops : regReady withHole 25 = true ∧ regReady withHole 28 = true ∧ regReady withHole 4 = true ∧
    2 ^ 53 ≤ (regVal withHole 25 + regVal withHole 0).toNat ∧ (regVal withHole 1 + regVal withHole 4).toNat = 0x20007 ∧
    (regVal withHole 4).toNat % 4 ≠ 0 ∧ (regVal withHole 28 + regVal withHole 0).toNat < 2 ^ 53 ∧
    found (xlate withHole 0 .stageManager (rootPa (ctx withHole).droot) (2 ^ 40) true false) = false ∧
    found (xlate withHole 0 .stageManager (rootPa (ctx withHole).droot) (2 ^ 40) false true) = false ∧
    found (xlate withHole 0 .stageManager (rootPa (ctx withHole).droot) (2 ^ 40) true true) = false := by decide +kernel

theorem witness_ScalarFloatResults : regReady world 1 = true ∧ regReady world 26 = true ∧ regFree world 3 = true := by decide +kernel

theorem witness_BranchResults : regReady world 4 = true ∧ predReady world 1 = true ∧ predReady world 2 = true ∧
    predVal world 1 = true ∧ predVal world 2 = false ∧ (bregOf (ctx world) 1).toNat % 32 = 0 ∧ (bregOf (ctx world) 7).toNat % 32 = 0 ∧
    (bregOf (ctx world) 2).toNat % 32 ≠ 0 ∧ 0 < (regVal world 4 - BitVec.ofNat 64 1).toInt ∧ (regVal world 4 - BitVec.ofNat 64 7).toInt ≤ 0 := by
  decide +kernel

theorem witness_BranchResults_misaligned_return : let s := withX fun x => { x with bregs := [(7, 4)] }
    (bregOf (ctx s) 7).toNat % 32 ≠ 0 ∧ predVal s 1 = (0 != 1) ∧ regReady s 4 = true ∧ predReady s 1 = true := by decide +kernel

theorem witness_SoftwarePipelinedLoop : regReady world 4 = true ∧ (∀ k, k < 7 → predReady world (8 + k) = true) ∧
    (bregOf (ctx world) 1).toNat % 32 = 0 ∧ ((List.range 8).any fun k => if k = 0 then decide (0 < (regVal world 4).toInt) else
      predVal world (8 + k - 1)) = true ∧ (bregOf (ctx world) 2).toNat % 32 ≠ 0 := by decide +kernel

theorem witness_SystemRegisterMoves : inStageManager world = true ∧ sysRegDefined 0x43 = true ∧ sysPrivileged 0x43 = true ∧
    sysRegDefined 0x20 = true ∧ sysRegDefined 0x31 = true ∧ regFree world 3 = true ∧ regReady world 3 = true ∧ storesDone world world.focus 1 = true ∧
    (ctx world).mq = [] := by decide +kernel

theorem witness_CueCodePrivilegeFaults : inStageManager (withX fun x => { x with mode := .cue }) = false ∧ sysRegDefined 0x10 = true ∧
    sysPrivileged 0x10 = true := by decide +kernel

theorem witness_TrapReturnHaltComplete : let s := withX fun x => { x with cause := 0x4000000000000000 }
    inStageManager s = true ∧ live (ctx s) = true ∧ (ctx s).faultpc.toNat % 32 = 0 ∧ live (ctx world) = false ∧
    (let u := withX fun x => { x with cause := 0x4000000000000000, faultpc := 0x10008 }
     inStageManager u = true ∧ live (ctx u) = true ∧ (ctx u).faultpc.toNat % 32 ≠ 0) := by decide +kernel

theorem witness_TrapEntryState : live (coreOf world 0).ctx = false ∧ (coreOf world 0).tvec ≠ 0 ∧ (coreOf world 0).tvec.toNat % 32 = 0 ∧
    (6 : Nat) < 256 := by decide +kernel

theorem witness_ReturnUndoesTrapEntry : live (coreOf world 0).ctx = false ∧ (coreOf world 0).tvec ≠ 0 ∧ (coreOf world 0).tvec.toNat % 32 = 0 ∧
    (16 : Nat) < 256 := by decide +kernel

theorem witness_DoubleFaultStopsCore : live (coreOf (withX fun x => { x with cause := 0x4000000000000000 }) 0).ctx = true ∧
    (coreOf State.reset 0).tvec = 0 ∧ (coreOf (withC fun c => { c with tvec := 0x10110 }) 0).tvec.toNat % 32 ≠ 0 := by decide +kernel

/-! Cues, ensembles, marks, waits -/

/-- Wing 3 of die 0 is open to cue code with an empty ring of 1,024 entries; wing 5 too. -/
def withWings : State := setDie world 0 { Die.reset with wings := [(0, { Wing.reset with qbase := 0x100000 }), (3, { Wing.reset with qbase := 0x110000 })] }

theorem witness_CueInstructionsComplete_push : regReady withWings 12 = true ∧ regReady withWings 3 = true ∧ (regVal withWings 12).toNat % 64 = 0 ∧
    accessesDone withWings withWings.focus = true ∧ (regVal withWings 3).toNat ≤ 7 ∧ wingSm (wingOf withWings 0 3) = false ∧
    passes (loadV withWings (regVal withWings 12).toNat 64) = true ∧ programRoom (wingOf withWings 0 3) 1 = true := by decide +kernel

theorem witness_CueInstructionsComplete_forkNone : (regVal withWings 0).toNat = 0 ∧
    passes (do let t ← loadV withWings 0x24000 64; if recWord t 2 = 0 then pure () else stopStall .wait) = true := by decide +kernel

theorem witness_CueInstructionsComplete_forkJoin :
    passes (do
      let t ← loadV withWings 0x24040 64
      let k ← loadV withWings (recWord t 2 + 64) 64
      if recWord t 2 = 0x24080 ∧ hwRoom withWings 0 (recClass k) true = true then pure () else stopStall .wait) = true ∧
    found (xlate withWings 0 .stageManager (rootPa (ctx withWings).droot) 0x24080 true true) = true ∧ isBad withWings 0x24080 8 = false ∧
    dieHeld withWings 0 [(0x24080, 8)] = false ∧
    programRoom (wingOf withWings 0 0) 3 = true := by decide +kernel

theorem witness_CueInstructionsComplete_exit : let s := withX fun x => { x with held := 0, slotAddr := 0x24000 }
    heldCount (ctx s) = 0 ∧ exitErrors (ctx s) = none ∧ (ctx s).mq = [] ∧ (ctx s).kq0 = [] ∧ (ctx s).kq1 = [] ∧
    (cur s).pend.any (·.home.isNone) = false ∧ accessesDone s s.focus = true ∧
    (exitPieces s 0).toOption.isSome = true ∧ (ctx s).joinAddr = 0 := by decide +kernel

theorem witness_EnsembleInstructionsComplete : let s := withX fun x => { x with ens := [7] }
    regReady s 4 = true ∧ releaseReady s = true ∧ (regVal s 4).toNat < 4096 ∧ (regVal s 4).toNat ∈ (ctx s).ens ∧
    (regVal s 3).toNat ∉ (ctx s).ens ∧ (ctx s).ens.length < 8 ∧ (ctx s).ens.Nodup ∧ ensCount s (regVal s 3).toNat < 2 ^ 20 - 1 ∧ regFree s 5 = true := by decide +kernel

theorem witness_EnsembleInstructionsComplete_full : let s := withX fun x => { x with ens := [7, 6, 5, 4, 3, 2, 1, 0] }
    (coreOf s 0).ctx.ens.Nodup ∧ (coreOf s 0).ctx.ens.length ≤ 8 ∧ 0 ∈ (coreOf s 0).ctx.ens := by decide +kernel

/-- Mark 9 of core 0 is initialised with a count of 3. -/
def withMark : State := withC fun c => { c with marks := [(9, ⟨true, false, 3, 0, 0⟩)] }

theorem witness_MarkInstructionsComplete : regReady withMark 3 = true ∧ markSlept withMark 0 9 = false ∧ (regVal withMark 3).toNat = 3 ∧
    ((cur withMark).marks.filter fun k => k.2.bound).length < 64 ∧ enabled withMark 0 = true ∧
    (markOf (coreOf withMark 0) 9).inited = true ∧ releaseReady withMark = true := by decide +kernel

theorem witness_MarkErrors : regReady withMark 0 = true ∧ regReady withMark 25 = true ∧ releaseReady withMark = true ∧
    enabled withMark 0 = true ∧ (markOf (coreOf withMark 0) 2047).inited = false ∧ 512 ≤ (regVal withMark 25).toNat ∧
    (regVal withMark 0).toNat = 0 ∧ 2 ^ 20 ≤ (regVal withMark 25).toNat ∧ 4096 ≤ (regVal withMark 25).toNat := by decide +kernel

theorem witness_MarkErrors_slept : let s := withC fun c => { c with marks := [(9, ⟨true, false, 3, 0, 0⟩)], ctx := { c.ctx with wait := some ⟨0, 9, 0⟩ } }
    regReady s 3 = true ∧ 1 ≤ (regVal s 3).toNat ∧ (regVal s 3).toNat < 4096 ∧ markSlept s s.focus 9 = true ∧ releaseReady s = true ∧
    4096 ≤ (regVal s 5).toNat ∧ (regVal s 5).toNat < 2 ^ 20 ∧ (regVal s 0).toNat = 0 := by decide +kernel

theorem witness_MarkErrors_bound : let s := withC fun c => { c with marks := (List.range 64).map fun n => (n, ⟨true, true, 3, 0, 0⟩) }
    releaseReady s = true ∧ markSlept s s.focus 64 = false ∧ 64 ≤ ((cur s).marks.filter fun k => k.2.bound).length := by decide +kernel

theorem witness_WaitOnAddress : regReady world 1 = true ∧ regReady world 4 = true ∧ (regVal world 1).toNat % 8 = 0 ∧
    found (xlate world 0 .stageManager (rootPa (ctx world).droot) (regVal world 1).toNat true false) = true ∧
    waitFault (ctx world) (regVal world 1).toNat = none ∧ pendMeets (cur world) 0x20000 8 = false ∧ isBad world 0x20000 8 = false ∧
    acquirePending (cur world) = false ∧ scopeHeld world world.focus 0x20000 8 false (fun _ => true) = false := by
  decide +kernel

/-- A reply or an audition waits for the bundle that started it. -/
def withReply (k : AccessKind) : State := withC fun c => { c with pend := [⟨0, k, 0, 0, 0, 0, 0, 0, 0, false, false, 0, none, 0, [], 0⟩] }

theorem witness_AdmitCompletes : inStageManager world = true ∧ passes (admitDesc world 12 3) = true ∧ admitPending world = none ∧
    passes (admitDesc world 12 0) = true ∧ passes (loadV world (regVal world 12).toNat 32) = true ∧ ((admitPending (withReply .reply)).map (·.kind)) = some .reply ∧
    ((admitPending (withReply (.audition 0))).map (·.kind)) = some (.audition 0) := by decide +kernel

/-! Vectors: rows 0 to 47 of bank 0 to 11 are held, rows 1 and 2 hold FP32 and row 3 INT32 -/

/-- The vector state: tags of some rows, port z0 read, z1 written, one bypass entry, and a latch. -/
def withV : State := withC fun c => { c with
  rows := [(1, BitVec.ofNat 4096 (0x3F800000 + 0x40000000 * 2 ^ 32)), (2, 0x40400000#4096), (3, 5#4096)]
  tags := [(1, some 0x12), (2, some 0x12), (3, some 8), (5, some 6)]
  ctx := { c.ctx with
    ports := [(0, ⟨true, 0x400, false, 0x12, [1, 1, 1, 1], [0, 0, 0, 0], [0, 0, 0, 0]⟩),
      (1, ⟨true, 0x800, true, 0x12, [1, 1, 1, 1], [0, 0, 0, 0], [0, 0, 0, 0]⟩)]
    bypass := [⟨true, 7#4096, some 0x12, none⟩] } }

theorem witness_VectorSourceCodes : holdsBank (ctx withV) (vrow (ctx withV) 0 47 / 4) = true ∧ holdsBank (ctx withV) (vrow (ctx withV) 0 31 / 4) = true ∧
    pendingOn (ctx withV) (landsRow (vrow (ctx withV) 0 47)) = false ∧ okIs (portRow withV 0 0 false) (0x400, 0x12) = true ∧
    isBad withV (windowPa withV.focus 0x400) 512 = false ∧ isBad withV (windowPa withV.focus (0x200000 + 512 * vrow (ctx withV) 0 47)) 512 = false ∧
    pendingOn (ctx withV) (spadPending 0x400 512) = false ∧ (ctx withV).window = some 0 := by decide +kernel

theorem witness_FalseGuardSuppresses : predReady withV 2 = true ∧ predVal withV 2 = false ∧ passes (bcastLegal withV [48, 60, 63]) = true ∧
    (31 : Nat) ≤ 31 := by decide +kernel

/-- The S slot holds ADD s5, s6, s7, which qualifies for code 61. -/
theorem witness_FalseGuardSuppresses_broadcast : let s := { withV with issue := ⟨2, [0, 0x04A63800], [], []⟩ }
    predReady s 2 = true ∧ predVal s 2 = false ∧ passes (bcastLegal s [61, 61, 61]) = true := by decide +kernel

theorem witness_VectorTwoSourceResults :
    VecReads withV 1 4 0 [(0, 1), (1, 2)] (readOf withV [(0, 1), (1, 2)]).1 (readOf withV [(0, 1), (1, 2)]).2 ∧
    VecGoes withV 4 0 (some 0x12) (.row 4) ∧ tagsFit (fun _ => tagF) [(0, 1), (1, 2)] (readOf withV [(0, 1), (1, 2)]).1 = true ∧
    tagsSame 0x12 (readOf withV [(0, 1), (1, 2)]).1 = true ∧ opFmt (ctx withV) (readOf withV [(0, 1), (1, 2)]).1 = 0x12 :=
  ⟨vec_of (by decide +kernel), row_of (by decide +kernel), by decide +kernel, by decide +kernel, by decide +kernel⟩

theorem witness_VectorTwoSourceResults_integer :
    VecReads withV 1 4 0 [(0, 3), (1, 3)] (readOf withV [(0, 3), (1, 3)]).1 (readOf withV [(0, 3), (1, 3)]).2 ∧
    VecGoes withV 4 0 (some 8) (.row 4) ∧ tagsFit (fun _ => tagI) [(0, 3), (1, 3)] (readOf withV [(0, 3), (1, 3)]).1 = true :=
  ⟨vec_of (by decide +kernel), row_of (by decide +kernel), by decide +kernel⟩

theorem witness_VectorTwoSourceResults_port :
    VecReads withV 1 57 0 [(0, 56), (1, 48)] (readOf withV [(0, 56), (1, 48)]).1 (readOf withV [(0, 56), (1, 48)]).2 ∧
    VecGoes withV 57 0 (some 0x12) (.port 1 0x800) ∧ tagsSame 0x12 (readOf withV [(0, 56), (1, 48)]).1 = true :=
  ⟨vec_of (by decide +kernel), ⟨by decide, by decide, rfl, 0x12, ok_of (by decide +kernel), .inr rfl⟩, by decide +kernel⟩

theorem witness_VectorOneSourceResults : VecReads withV 1 4 1 [(0, 1)] (readOf withV [(0, 1)]).1 (readOf withV [(0, 1)]).2 ∧
    VecGoes withV 4 1 (some 0x12) .none ∧ tagsFit (fun _ => tagT) [(0, 1)] (readOf withV [(0, 1)]).1 = true ∧ unitFree withV = true ∧
    tagsFit (fun _ => tagF) [(0, 1)] (readOf withV [(0, 1)]).1 = true :=
  ⟨vec_of (by decide +kernel), rfl, by decide +kernel, by decide +kernel, by decide +kernel⟩

theorem witness_VectorOneSourceResults_shift : VecReads withV 1 4 0 [(0, 3)] (readOf withV [(0, 3)]).1 (readOf withV [(0, 3)]).2 ∧
    VecGoes withV 4 0 (some 8) (.row 4) ∧ tagsFit (fun _ => tagI) [(0, 3)] (readOf withV [(0, 3)]).1 = true ∧ 31 ≤ 31 :=
  ⟨vec_of (by decide +kernel), row_of (by decide +kernel), by decide +kernel, by decide⟩

theorem witness_VectorThreeSourceResults : let pos := [(0, 1), (1, 2), (2, 2)]
    VecReads withV 1 2 0 pos (readOf withV pos).1 (readOf withV pos).2 ∧ VecGoes withV 2 0 (some 0x12) (.row 2) ∧
    tagsSame (opFmt (ctx withV) (readOf withV pos).1) (readOf withV pos).1 = true ∧ tagsFit (fun _ => tagF) pos (readOf withV pos).1 = true ∧
    tagsFit (fun _ => tagNoX) pos (readOf withV pos).1 = true :=
  ⟨vec_of (by decide +kernel), row_of (by decide +kernel), by decide +kernel, by decide +kernel, by decide +kernel⟩

theorem witness_LaneMaskResults : let pos := [(0, 1), (1, 2)]
    VecReads withV 1 3 1 pos (readOf withV pos).1 (readOf withV pos).2 ∧ VecReads withV 1 4 0 pos (readOf withV pos).1 (readOf withV pos).2 ∧
    maskReady withV 7 = true ∧ tagsFit (fun _ => tagFI) pos (readOf withV pos).1 = true ∧ tagsFit (fun _ => tagNotCS) pos (readOf withV pos).1 = true ∧
    VecGoes withV 4 0 (some 0x12) (.row 4) :=
  ⟨vec_of (by decide +kernel), vec_of (by decide +kernel), by decide +kernel, by decide +kernel, by decide +kernel, row_of (by decide +kernel)⟩

theorem witness_VectorMovementResults : VecReads withV 1 4 0 [] [] [] ∧ VecGoes withV 4 0 (some 8) (.row 4) ∧
    VecReads withV 1 4 0 [(0, 1)] (readOf withV [(0, 1)]).1 (readOf withV [(0, 1)]).2 ∧
    tagsFit (fun _ => tagFI) [(0, 1)] (readOf withV [(0, 1)]).1 = true ∧ tagAny 8 = true :=
  ⟨vec_of (by decide +kernel), row_of (by decide +kernel), vec_of (by decide +kernel), by decide +kernel, by decide⟩

theorem witness_VectorReductionResults : let pos := [(0, 1), (1, 3)]
    VecReads withV 1 4 0 pos (readOf withV pos).1 (readOf withV pos).2 ∧ VecReads withV 1 4 0 [(0, 1)] (readOf withV [(0, 1)]).1 (readOf withV [(0, 1)]).2 ∧
    tagsFit (fun q t => if q = 0 then tagNoX t else tagNotCS t) pos (readOf withV pos).1 = true ∧
    tagsFit (fun q t => if q = 0 then tagFI t else tagIdx t) pos (readOf withV pos).1 = true ∧
    tagsFit (fun q t => if q = 0 then tagT t else tagI t) pos (readOf withV pos).1 = true ∧ lanesOf 8 = lanesOf 0x12 ∧
    (readOf withV pos).1.length = 2 ∧ VecGoes withV 4 0 (some 0x12) (.row 4) :=
  ⟨vec_of (by decide +kernel), vec_of (by decide +kernel), by decide +kernel, by decide +kernel, by decide +kernel, by decide +kernel,
    by decide +kernel, row_of (by decide +kernel)⟩

theorem witness_ScratchpadRows : regReady withV 17 = true ∧ predReady withV 1 = true ∧ predVal withV 1 = true ∧ (255 : Nat) < 256 ∧
    (regVal withV 17 + BitVec.ofInt 64 ((((255 : Nat) : Int) - 256) * 512)).toNat = 0x27E00 ∧ 0x27E00 % 64 = 0 ∧
    passes (vecStall withV 4 0 true) = true ∧ passes (touchRange withV 0x27E00 512 false) = true ∧ passes (touchRange withV 0x27E00 512 true) = true ∧
    pendingOn (ctx withV) (spadPending 0x27E00 512) = false ∧ isBad withV (windowPa withV.focus 0x27E00) 512 = false ∧ passes (bcastLegal withV [4]) = true ∧ passes (vecStall withV 4 0 false) = true ∧
    passes (readVecs withV [(2, 4)] []) = true := by decide +kernel

theorem witness_ScratchpadRows_stops : let s := setCtx withV { ctx withV with sregs := mput 28 0x1FFFC0 (ctx withV).sregs }
    regReady s 4 = true ∧ (regVal s 4).toNat % 64 ≠ 0 ∧ passes (touchRange s (regVal s 4).toNat 512 true) = true ∧
    passes (touchRange s (regVal s 4).toNat 512 false) = true ∧ regReady s 28 = true ∧ (regVal s 28).toNat % 64 = 0 ∧
    0x200000 < (regVal s 28).toNat + 512 := by decide +kernel

theorem witness_SingleLanes : VecReads withV 1 6 1 [(0, 1)] (readOf withV [(0, 1)]).1 (readOf withV [(0, 1)]).2 ∧
    (readOf withV [(0, 1)]).1.length = 1 ∧ 127 < lanesOf 0x12 ∧ lanesOf 0x12 ≤ 128 ∧ fmtWidth 0x12 ≤ 64 ∧ regFree withV 6 = true ∧
    VecReads withV 1 2 0 [(2, 2)] (readOf withV [(2, 2)]).1 (readOf withV [(2, 2)]).2 ∧ regReady withV 4 = true ∧
    VecGoes withV 2 0 (some 0x12) (.row 2) :=
  ⟨vec_of (by decide +kernel), by decide +kernel, by decide +kernel, by decide +kernel, by decide +kernel, by decide +kernel, vec_of (by decide +kernel),
    by decide +kernel, row_of (by decide +kernel)⟩

/-! The matrix and copy slots -/

/-- The checks that a captured operand passes: type, extents, fit, banks. -/
def goodTile (s : State) (opnd t : Nat) : Bool :=
  passes (do
    checkType s [] opnd (tileOf (ctx s) t).tw
    let e ← extsNeeded s [] opnd (tileOf (ctx s) t).tw
    checkFit s opnd (tileOf (ctx s) t).tw e (tileOf (ctx s) t).bd
    banksHeld s (tileOf (ctx s) t).bd)

/-- Type fields of a tile register: rank, format, layout, scale. -/
def kindOf (s : State) (t : Nat) : Nat × Nat × Nat × Nat :=
  let w := (tileOf (ctx s) t).tw.toNat
  (twRank w, twFmt w, twLayout w, twScale w)

/-- Pattern memory holds a diagonal of 8 rows, context 0 is started on it, context 1 loaded, context 2 still counting; tile 13 is a selection. -/
def withPg : State := withX fun x => { x with
  tiles := x.tiles ++ [(13, mkTile 0 0x0F 5 [8] 1 0xA000 64)]
  pgMem := [(0, 8), (1, 0x10000008), (2, 0x20000000), (3, 0xD0000000)]
  pgCtxs := [(0, { PCtx.empty with state := 2, total := 8, spanHi := 3 }), (1, { PCtx.empty with state := 1 }),
    (2, { PCtx.empty with state := 2, counting := true })] }

theorem witness_MatrixCommandsIssue_pattern : let t := tileOf (ctx withPg) 13
    passes (mBefore withPg (tileRange t false)) = true ∧ goodTile withPg 1 13 = true ∧ kindOf withPg 13 = (0, 0x0F, 5, 0) ∧
    passes (pgCounted withPg 0) = true ∧ pctxDom (ctx withPg) (pctxOf (ctx withPg) 0) = (8, 8) ∧
    passes (unify withPg [] 1 4 (extOf (twExt t.tw.toNat 0)) (.const (pctxLeft (pctxOf (ctx withPg) 0)))) = true := by decide +kernel

theorem witness_MatrixCommandsIssue_latch : let t := tileOf (ctx world) 3
    passes (mBefore world (tileRange t false)) = true ∧ goodTile world 1 3 = true ∧ kindOf world 3 = (1, 0x0F, 0, 0) ∧ fmtIsOp 0x0F = true ∧
    latchFits 0 0x0F = true ∧ okIs (extsNeeded world [] 1 t.tw) [8, 16, 1, 1] = true := by decide +kernel

theorem witness_MatrixCommandsIssue_zero : passes (mBefore world (tileRange (tileOf (ctx world) 1) true)) = true ∧ goodTile world 0 1 = true := by
  decide +kernel

theorem witness_MatrixCommandsIssue_transpose : let dt := tileOf (ctx world) 5
    let at' := tileOf (ctx world) 0
    passes (mBefore world (tileRange dt true ++ tileRange at' false)) = true ∧ goodTile world 0 5 = true ∧ goodTile world 1 0 = true ∧
    bdOverlap dt.bd at'.bd = 0 ∧ kindOf world 5 = (1, 0x12, 0, 0) ∧ kindOf world 0 = (1, 0x12, 0, 0) ∧
    passes (do
      let l ← unify world [] 0 4 (extOf (twExt dt.tw.toNat 0)) (extOf (twExt at'.tw.toNat 1))
      unify world l 0 5 (extOf (twExt dt.tw.toNat 1)) (extOf (twExt at'.tw.toNat 0))) = true := by decide +kernel

theorem witness_MatrixCommandsIssue_cast : let dt := tileOf (ctx world) 12
    let at' := tileOf (ctx world) 1
    passes (mBefore world (tileRange dt true ++ tileRange at' false)) = true ∧ goodTile world 0 12 = true ∧ goodTile world 1 1 = true ∧
    bdOverlap dt.bd at'.bd = 0 ∧ kindOf world 12 = kindOf world 1 ∧
    passes (unifyAll world 0 1 dt.tw.toNat at'.tw.toNat 4 []) = true := by decide +kernel

theorem witness_MatrixMultiplyIssues : let dt := tileOf (ctx world) 1
    let at' := tileOf (ctx world) 2
    let ct := tileOf (ctx world) 12
    let lt := (latchOf (ctx world) 0).tw
    passes (tileFree world 1) = true ∧ passes (mBefore world (tileRange dt true ++ tileRange at' false ++ tileRange ct false)) = true ∧
    passes (mBefore world (tileRange dt true ++ tileRange at' false ++ [])) = true ∧ goodTile world 0 1 = true ∧ goodTile world 1 2 = true ∧
    goodTile world 3 12 = true ∧ passes (checkType world [] 2 lt) = true ∧ passes (extsNeeded world [] 2 lt) = true ∧
    kindOf world 2 = (1, 0x0F, 2, 0) ∧ kindOf world 1 = (1, 0x12, 3, 0) ∧ kindOf world 12 = (1, 0x12, 3, 0) ∧ (accPair 0x0F (twFmt lt.toNat) 0x12).1 = true ∧
    fmtIsInt (twFmt lt.toNat) = fmtIsInt 0x0F ∧ bdOverlap ct.bd dt.bd = 0 ∧
    okIs (do
      let k ← unify world [] 1 5 (extOf (twExt at'.tw.toNat 1)) (extOf (twExt lt.toNat 0))
      let k ← unify world k 0 4 (extOf (twExt dt.tw.toNat 0)) (extOf (twExt at'.tw.toNat 0))
      let k ← unify world k 0 5 (extOf (twExt dt.tw.toNat 1)) (extOf (twExt lt.toNat 1))
      let k ← unify world k 3 4 (extOf (twExt ct.tw.toNat 0)) (extOf (twExt dt.tw.toNat 0))
      unify world k 3 5 (extOf (twExt ct.tw.toNat 1)) (extOf (twExt dt.tw.toNat 1))) ([] : Local) = true := by decide +kernel

/-- A matrix command in the queue, running or waiting. -/
def mc (started : Bool) : MCmd :=
  { word := encode (.mzero 1), ops := [⟨(tileOf cx 1).tw, (tileOf cx 1).bd⟩], ctx := PCtx.empty, latch := [], started := started, running := started,
    rows := 0, col := 0, depth := 0, issuedAt := 0, num := 0, away := none }

theorem witness_MatrixEngineState : (ctx world).mq = [] ∧ (ctx world).matErrs = [] ∧ regFree world 3 = true ∧
    (ctx world).mq.find? (fun c => c.running && c.away.isNone) = none ∧ passes (replyTo world 3 0) = true ∧
    (let s := withX fun x => { x with mq := [mc true, mc false] }
     (ctx s).mq ≠ [] ∧ ((ctx s).mq.find? (fun c => c.running && c.away.isNone)) = some (mc true) ∧ passes (replyTo s 3 (2 ^ 59 + 2 ^ 53 + 4 * 2 ^ 49)) = true) ∧
    passes (mBefore world (tileRange (tileOf (ctx world) 6) true)) = true ∧ passes (saveTile world 0 (tileOf (ctx world) 6)) = true := by
  decide +kernel

/-- A scratchpad whose save tile holds an image of no command. -/
def withImage : State := withC fun c => { c with spad := memOf [(0x40000, 12, 0x4D534156 + 2 ^ 32)] }

theorem witness_MatrixEngineState_resume : let s := withImage
    let r := tileOf (ctx s) 6
    let now := landed s s.focus
    let im := mOfImage (coreLoad now s.focus (bdOff r.bd) 0x1100)
    passes (mBefore s (tileRange r false)) = true ∧ (ctx s).mq = [] ∧ passes (saveTile s 1 r) = true ∧
    (viewOf s.focus ⟨r.tw, r.bd⟩).bad now 0 0x1100 = none ∧ mImageBad s (coreLoad now s.focus (bdOff r.bd) 0x1100) = none ∧
    im.cmds = [] := by
  decide +kernel

/-- The start of every copy command: ranges, registers, room. -/
def kReady (s : State) (rs : List Range) (regs : List Nat) : Bool := passes (kBefore s rs regs) && passes (kSig s 0) && passes (kSig s 17)

theorem witness_TileTransfersIssue : let reg := tileOf (ctx world) 0
    regReady world 1 = true ∧ kReady world (kRange reg true) [1, 0, 17] = true ∧ kReady world (kRange reg false) [1, 0, 17] = true ∧
    goodTile world 0 0 = true ∧ kindOf world 0 = (1, 0x12, 0, 0) ∧ kReduces 0x12 0 = true ∧
    passes (do
      let o ← kOrigins world 0
      let rb ← recRead world (regVal world 1).toNat
      let r ← recCheck world (regVal world 1).toNat 1 rb.1
      let x ← kExtents world r reg.tw.toNat false o.1 4
      let e ← extsNeeded world x.2 0 reg.tw
      winCheck world (regVal world 1).toNat r o.1 e
      if r.rank = 1 ∧ r.fmt = 0x12 ∧ r.layout = 0 ∧ r.scale = 0 then pure () else stopStall .wait) = true := by decide +kernel

theorem witness_TileTransfersIssue_turned : let reg := tileOf (ctx world) 0
    regReady world 23 = true ∧ kReady world (kRange reg true) [23, 0, 17] = true ∧
    passes (do
      let o ← kOrigins world 0
      let rb ← recRead world (regVal world 23).toNat
      let r ← recCheck world (regVal world 23).toNat 1 rb.1
      let x ← kExtents world r reg.tw.toNat true o.1 4
      let e ← extsNeeded world x.2 0 reg.tw
      winCheck world (regVal world 23).toNat r o.1 (swap01 e)
      if r.rank = 1 ∧ r.fmt = 0x12 ∧ r.layout ≤ 1 ∧ r.scale = 0 then pure () else stopStall .wait) = true := by decide +kernel

theorem witness_IndexedTransfersIssue : let reg := tileOf (ctx world) 0
    let ireg := tileOf (ctx world) 4
    regReady world 1 = true ∧ kReady world (kRange reg true ++ kRange ireg false) [1, 17] = true ∧
    kReady world (kRange reg false ++ kRange ireg false) [1, 17] = true ∧ goodTile world 0 0 = true ∧ goodTile world 2 4 = true ∧
    kindOf world 0 = (1, 0x12, 0, 0) ∧ kindOf world 4 = (0, 8, 0, 0) ∧
    passes (do
      let rb ← recRead world 0x20000
      let r ← recCheck world 0x20000 1 rb.1
      let k ← unify world [] 0 4 (extOf (twExt reg.tw.toNat 0)) (extOf (twExt ireg.tw.toNat 0))
      let k ← unify world k 0 5 (extOf (twExt reg.tw.toNat 1)) (r.extOf 1)
      let e0 ← recExtNeeded world k 1 r 0
      let e1 ← recExtNeeded world k 1 r 1
      winCheck world 0x20000 r [0, 0, 0, 0] [e0, e1, 1, 1]
      if r.rank = 1 ∧ r.fmt = 0x12 ∧ r.layout = 0 ∧ r.scale = 0 then pure () else stopStall .wait) = true := by decide +kernel

theorem witness_CopyCommandsIssue : kReady world [] [2, 1, 5, 17] = true ∧ regReady world 1 = true ∧ regReady world 2 = true ∧
    regReady world 5 = true ∧ (regVal world 2).toNat < 2 ^ 40 ∧ (regVal world 1).toNat % 8192 = 0 ∧
    kReady world (kRange (tileOf (ctx world) 0) false) [1, 17] = true ∧ (regVal world 1).toNat % 64 = 0 ∧ goodTile world 0 0 = true ∧
    engineFault (ctx world) 0 = none ∧ engineFault (ctx world) 1 = none := by decide +kernel

theorem witness_CopyCommandsIssue_receive : let reg := tileOf (ctx world) 0
    kReady world (kRange reg true) [9, 17] = true ∧ (regVal world 9).toNat % 64 = 0 ∧
    passes (do
      let bs ← loadV world (regVal world 9).toNat 64
      let ty := BitVec.ofNat 128 (bytesNat ((bs.drop 0x10).take 16))
      checkType world [] 1 ty
      let l ← unifyExts world 0 reg.tw.toNat (fun k => extOf (twExt ty.toNat k)) 4 []
      let e ← extsNeeded world l 0 reg.tw
      checkFit world 0 reg.tw e reg.bd
      if mailboxBad bs = none ∧ (twRank ty.toNat, twFmt ty.toNat, twLayout ty.toNat, twScale ty.toNat) = kindOf world 0 then pure ()
        else stopStall .wait) = true := by decide +kernel

theorem witness_CopyCommandsIssue_route : let reg := tileOf (ctx world) 11
    passes (routeRecord world 8) = true ∧ kReady world (kRange reg false) [8, 17] = true ∧ kReady world [] [8, 17] = true ∧
    kindOf world 11 = (1, 0x12, 0, 0) ∧ goodTile world 0 11 = true ∧
    passes (do
      let r ← routeRecord world 8
      unify world [] 0 5 (extOf (twExt reg.tw.toNat 1)) (.const (routeE r.2.1))) = true := by decide +kernel

/-- Core memory at 0x28000 holds an engine image of no command. -/
def withKImage : State := { world with mem := memBlock mem0 0x28000 (natBytes 12 (0x4B534156 + 2 ^ 32)) }

theorem witness_CopyCommandsIssue_image : regReady withKImage 17 = true ∧ (regVal withKImage 17).toNat % 64 = 0 ∧
    kQueue (ctx withKImage) (kEngine withKImage) = [] ∧
    postedLeft (cur withKImage) (kEngine withKImage) 3 (fun _ => true) = false ∧ passes (do
      let bs ← loadV withKImage 0x28000 4160
      if kImageBad withKImage bs = none then pure () else stopStall .wait) = true ∧
    imageWaits withKImage 0x28000 true = false ∧ imageWaits withKImage 0x28000 false = false ∧
    found (xlateSpan withKImage 0 .stageManager (rootPa (ctx withKImage).droot) 0x28000 4160 false true) = true := by decide +kernel

theorem witness_PitCommandsIssue :
    (kReady world (kRange (tileOf (ctx world) 7) false) [10, 17] && passes (do
      let bs ← pitRecord world 10 (fun _ => fieldsScaleadd)
      pitTile world 7 0x12 256 (some (bytesNat (bs.1.take 4))))) = true ∧
    (kReady world (kRange (tileOf (ctx world) 8) false) [19, 17] && passes (pitRecord world 19 fun _ => fieldsAtomadd) &&
      passes (pitTile world 8 8 2 none)) = true ∧
    (kReady world (kRange (tileOf (ctx world) 9) true) [20, 17] && passes (pitRecord world 20 fieldsAttn) &&
      passes (pitTile world 9 0x12 128 (some 2))) = true ∧
    (kReady world (kRange (tileOf (ctx world) 10) false) [21, 17] && passes (pitRecord world 21 fun _ => [fieldEngine]) &&
      passes (pitTile world 10 8 4 none)) = true ∧
    (kReady world [] [22, 17] && passes (pitRecord world 22 fun _ => fieldsLock)) = true := by decide +kernel

/-! Tiles, variables, accumulators, ports -/

theorem witness_TileRegisterInstructions : regReady world 13 = true ∧ passes (tileFree world 0) = true ∧
    passes (touchBd world (tileOf (ctx world) 0).bd false) = true ∧ goodTile world 1 0 = true ∧ (regVal world 1).toNat % 32 = 0 ∧
    passes (do
      let tw ← readType world (regVal world 13).toNat
      checkType world [] 2 tw
      let e ← extsNeeded world [] 2 tw
      checkFit world 0 tw e (tileOf (ctx world) 0).bd) = true ∧
    passes (checkBinding (regVal world 0)) = true ∧ (tileOf (ctx world) 31).tw = 0#128 ∧
    passes (storeV world (regVal world 1).toNat (natBytes 32 0)) = true ∧ kindOf world 0 = (1, 0x12, 0, 0) ∧ scBand 0 = false ∧
    fmtKnown 8 = true ∧ fmtWidth 8 = fmtWidth 0x12 ∧ passes (checkType world [] 0 (twMake 1 8 0 0 [4, 8])) = true ∧
    extsKnown world [] (twMake 1 8 0 0 [4, 8]).toNat = some [4, 8, 1, 1] ∧
    passes (checkFit world 0 (twMake 1 8 0 0 [4, 8]) [4, 8, 1, 1] (tileOf (ctx world) 0).bd) = true ∧
    extsKnown world [] (twMake 1 0x12 1 0 [8, 4]).toNat = some [8, 4, 1, 1] ∧
    passes (checkFit world 0 (twMake 1 0x12 1 0 [8, 4]) [8, 4, 1, 1] (tileOf (ctx world) 0).bd) = true ∧
    passes (banksHeld world (tileOf (ctx world) 1).bd) = true := by decide +kernel

theorem witness_TileRegisterInstructions_check : passes (do
      let rb ← recRead world (regVal world 1).toNat
      let k ← recCheck world (regVal world 1).toNat 2 rb.1
      let l ← unifyRec world (tileOf (ctx world) 0).tw.toNat k 4 []
      match extsKnown world l (tileOf (ctx world) 0).tw.toNat with
        | some e => checkFit world 0 (tileOf (ctx world) 0).tw e (tileOf (ctx world) 0).bd
        | none => pure ()
      banksHeld world (tileOf (ctx world) 0).bd
      if (k.rank, k.fmt, k.layout, k.scale) = kindOf world 0 then pure () else stopStall .wait) = true := by decide +kernel

theorem witness_TileRegisterInstructions_reshape : regReady world 24 = true ∧ passes (do
      let se ← extsNeeded world [] 1 (tileOf (ctx world) 0).tw
      let tw ← readType world (regVal world 24).toNat
      checkType world [] 2 tw
      let l ← reshapeBind world (se.foldl (· * ·) 1) tw.toNat
      let ne ← extsNeeded world l 2 tw
      checkFit world 0 tw ne (tileOf (ctx world) 0).bd
      banksHeld world (tileOf (ctx world) 0).bd
      if ne.foldl (· * ·) 1 = se.foldl (· * ·) 1 ∧ (twRank tw.toNat, twFmt tw.toNat, twLayout tw.toNat, twScale tw.toNat) = kindOf world 0
        then pure () else stopStall .wait) = true ∧ scBlock 0 = 0 ∧ scBand 0 = false := by decide +kernel

theorem witness_DimensionVariables : let s := withX fun x => { x with dims := [(3, ⟨7, some 5⟩)], sregs := mput 28 32767 (mput 29 32768 x.sregs) }
    regFree s 3 = true ∧ regReady s 4 = true ∧ (regVal s 4).toNat = (dimOf (ctx s) 3).limit ∧ (regVal s 0).toNat = 0 ∧
    (dimOf (ctx s) 3).limit < (regVal s 28).toNat ∧ (regVal s 28).toNat = 32767 ∧ 32767 < (regVal s 29).toNat ∧
    (dimOf (ctx s) 3).val = some 5 ∧ (regVal s 3).toNat < 5 := by decide +kernel

theorem witness_AccumulatorAndPorts : regReady world 4 = true ∧ regReady world 3 = true ∧ regFree world 5 = true ∧
    heldCount (ctx world) = 64 ∧ declBanks (ctx world).decl < heldCount (ctx world) + (regVal world 4).toNat ∧ (regVal world 0).toNat = 0 ∧
    256 < (regVal world 1).toNat ∧ (regVal world 4).toNat + (regVal world 3).toNat ≤ 256 ∧
    (∀ k, k < 3 → holdsBank (ctx world) (7 + k) = true) ∧ passes (touchRange world (0x200000 + 2048 * 7) (2048 * 3) true) = true ∧
    regReady world 18 = true ∧ (regVal world 18).toNat % 4 = 0 ∧ (∀ k, k < 12 → holdsBank (ctx world) (48 / 4 + k) = true) ∧
    regReady world 11 = true ∧ (regVal world 11).toNat % 64 = 0 ∧
    passes (do
      let bs ← loadV world (regVal world 11).toNat 64
      let q (o k : Nat) : Nat := bytesNat ((bs.drop o).take k)
      if portBad q = none ∧ 0 ≤ (portReach (portOfRecord q)).1 ∧ (portReach (portOfRecord q)).2 + 512 ≤ 2 ^ 21 then pure ()
        else stopStall .wait) = true ∧ storesDone world world.focus 1 = true ∧ acquirePending (cur world) = false ∧
    (ctx world).kq0 = [] ∧ (ctx world).kq1 = [] := by decide +kernel

theorem witness_AccumulatorAndPorts_alloc : let s := withX fun x => { x with held := 1 }
    heldCount (ctx s) + (regVal s 4).toNat ≤ declBanks (ctx s).decl ∧ 1 + (regVal s 4).toNat ≤ 256 ∧
    (∀ k, k < 7 → bankTaken (cur s) (1 + k) = false) ∧ bankTaken (cur s) 0 = true := by decide +kernel

theorem witness_AccumulatorAndPorts_full : let s := withX fun x => { x with held := BitVec.ofNat 256 (2 ^ 256 - 1), decl := 511 }
    heldCount (ctx s) + (regVal s 4).toNat ≤ declBanks (ctx s).decl ∧ (∀ i, i < 256 → bankTaken (cur s) i = true) := by decide +kernel

/-! Patterns and trees -/

/-- The same bundle once it has stalled n cycles. -/
def withSpent (n : Nat) : State := setCtx withPg { ctx withPg with spent := n }

theorem witness_PatternInstructions : passes (pgFree withPg 1) = true ∧ regReady withPg 14 = true ∧ fld (regVal withPg 14).toNat 61 3 = 0 ∧
    fld (regVal withPg 14).toNat 0 53 % 4 = 0 ∧ passes (loadV withPg 0x26000 4) = true ∧
    (match loadV withPg 0x26000 4 with | .ok hd => bytesNat hd | .error _ => 0) = 1 ∧
    ((pgCaptures (ctx withPg)).any fun k => spanMeets k 0 1) = false ∧ passes (loadWords withPg 0x26004 4) = true ∧ passes (loadWords withPg 0x26014 1) = true ∧
    (pctxOf (ctx withPg) 1).state ≠ 0 ∧
    (match walkProgram ⟨(ctx withPg).pgMem, (pctxOf (ctx withPg) 1).pars, declProfile (ctx withPg).decl⟩ 0 with
      | .ok r => r.2.hash.isNone && decide ((ctx withPg).spent < r.2.n) && decide (r.2.n ≤ (ctx (withSpent 512)).spent)
      | .error _ => false) = true := by decide +kernel

/-- Context 1 is loaded with a program that visits a HASH word, and its bundle has stalled long enough for the walk. -/
def withHash : State := setCtx (withSpent 512) { ctx (withSpent 512) with pgMem := [(0, 8), (1, 0x10000008), (2, 0x60000502), (3, 0xD0000000)] }

theorem witness_PatternInstructions_hash : passes (pgFree withHash 1) = true ∧ (pctxOf (ctx withHash) 1).state ≠ 0 ∧
    (match walkProgram ⟨(ctx withHash).pgMem, (pctxOf (ctx withHash) 1).pars, declProfile (ctx withHash).decl⟩ 0 with
      | .ok r => decide (r.2.hash = some 2) && decide (r.2.n ≤ (ctx withHash).spent)
      | .error _ => false) = true := by decide +kernel

theorem witness_PatternInstructions_next : let p := pctxOf (ctx withPg) 0
    passes (pgFree withPg 0) = true ∧ p.counting = false ∧ passes (vecStall withPg 4 0 true) = true ∧ okIs (vecRow withPg 4) 4 = true ∧ p.state = 2 ∧
    (match pctxSet (ctx withPg).pgMem p with | some k => blockFind k p.order 513 p.blkMajor p.blkMinor | none => none) = some (0, 0, 8) ∧
    passes (replyTo withPg 3 (8 * 2 ^ 32)) = true ∧ (pctxOf (ctx withPg) 3).state ≠ 2 ∧ (pctxOf (ctx withPg) 3).counting = false ∧
    passes (replyTo withPg 3 (2 ^ 64 - 1)) = true ∧ (regVal withPg 1).toNat % 64 = 0 ∧
    passes (storeV withPg (regVal withPg 1).toNat (pctxImage (ctx withPg).pgMem p)) = true := by decide +kernel

/-- The image of the started context 0, and one of a context never loaded, in memory. -/
def withPgImage : State := { withSpent 70000 with mem := memBlock mem0 0x28000 (pctxImage (ctx withPg).pgMem (pctxOf (ctx withPg) 0)) }

theorem witness_PatternInstructions_restore : regReady withPgImage 17 = true ∧ passes (do
      let bs ← loadV withPgImage (regVal withPgImage 17).toNat 64
      let im := pctxOfImage bs
      let q (o n : Nat) : Nat := bytesNat ((bs.drop o).take n)
      let r ← pgWalk withPgImage im im.order
      if im.state = 2 ∧ fld (q 0 4) 3 1 = 0 ∧ fld (q 0 4) 12 20 = 0 ∧ imageBad (ctx withPgImage).pgMem bs r.1 r.2 = none ∧
        r.2.n + countTime r.1 im.order ≤ 70000 then pure ()
        else stopStall .wait) = true := by decide +kernel

theorem witness_PatternInstructions_restore_empty : passes (do
      let bs ← loadV withPg (regVal withPg 17).toNat 64
      let im := pctxOfImage bs
      let q (o n : Nat) : Nat := bytesNat ((bs.drop o).take n)
      if im.state = 0 ∧ q 0 4 = 0 ∧ ([4, 8, 0x0C, 0x20, 0x24, 0x28, 0x2C, 0x30].all fun o => q o 4 == 0) = true ∧ q 0x34 12 = 0 then pure ()
        else stopStall .wait) = true := by decide +kernel

/-- A tree of a root and one child; its image at 0x28000. -/
def withTree : State :=
  let t : Tree := ⟨[⟨0xFF, 0, 5, 9⟩, ⟨0, 1, 6, 11⟩], []⟩
  { withX fun x => { x with tree := t } with mem := memBlock mem0 0x28000 (treeImage t) }

theorem witness_TreeInstructions : regReady withTree 3 = true ∧ regReady withTree 4 = true ∧ (regVal withTree 3).toNat < 2 ^ 24 ∧
    (ctx withTree).tree.nodes[1]? = some ⟨0, 1, 6, 11⟩ ∧ regFree withTree 5 = true ∧ (ctx withTree).tree.nodes.length ≠ 256 ∧ 6 + 1 < 2 ^ 24 ∧
    passes (vecStall withTree 46 0 true) = true ∧ okIs (vecRow withTree 46) 46 = true ∧ passes (vecStall withTree 47 0 true) = true ∧
    okIs (vecRow withTree 47) 47 = true ∧ regReady withTree 17 = true ∧ (regVal withTree 17).toNat % 64 = 0 ∧
    passes (storeV withTree (regVal withTree 17).toNat (treeImage (ctx withTree).tree)) = true := by decide +kernel

/-- Memory with the page table of root 0x6000 and, at 0x28000, the image of a tree of no nodes. -/
def treeMem : Memory := memOf [(0x6000, 8, 0x8001), (0x8000, 8, 0xF), (0x28000, 8, 0x1_5452_4545)]
def withTreeImage : State := { world with mem := treeMem }

theorem bytesNat_zeros : ∀ bs : List Byte, (∀ b ∈ bs, b = 0) → bytesNat bs = 0
  | [], _ => rfl
  | b :: bs, h => by
    have hb : b = 0 := h b (by simp)
    simp [bytesNat, hb, bytesNat_zeros bs fun x hx => h x (by simp [hx])]

/-- An image whose header has the magic number and the version, and whose other bytes are 0, is a legal image. -/
theorem treeImageBad_of_zeros {bs : List Byte} (h0 : bytesNat ((bs.drop 0).take 4) = 0x54524545) (h4 : bytesNat ((bs.drop 4).take 4) = 1)
    (hz : (bs.drop 8).all (· == 0) = true) : treeImageBad bs = none := by
  have past : ∀ o n, bytesNat ((bs.drop (8 + o)).take n) = 0 := fun o n => bytesNat_zeros _ fun b hb => by
    have := List.all_eq_true.mp hz b (List.mem_of_mem_drop (i := o) (by rw [List.drop_drop]; exact List.mem_of_mem_take hb))
    simpa using this
  have none_of : ∀ l : List Nat, l.find? (fun _ => false) = none := fun l => by simp
  unfold treeImageBad
  simp only [h0, h4, past 0 4, past 4 4, past 8 48]
  have hm : ∀ i, bytesNat ((bs.drop (0x40 + i)).take 1) = 0 := fun i => by simpa [← Nat.add_assoc] using past (0x38 + i) 1
  have hn : ∀ i, bytesNat ((bs.drop (0x140 + 16 * i)).take 16) = 0 := fun i => by simpa [← Nat.add_assoc] using past (0x138 + 16 * i) 16
  simp [hm, hn, none_of]

theorem witness_TreeInstructions_load : regReady withTreeImage 17 = true ∧ (regVal withTreeImage 17).toNat % 64 = 0 ∧
    ∃ bs, loadV withTreeImage (regVal withTreeImage 17).toNat 0x1140 = .ok bs ∧ treeImageBad bs = none := by
  have h : passes (do
      let bs ← loadV withTreeImage (regVal withTreeImage 17).toNat 0x1140
      if bytesNat ((bs.drop 0).take 4) = 0x54524545 ∧ bytesNat ((bs.drop 4).take 4) = 1 ∧ (bs.drop 8).all (· == 0) = true then pure ()
        else stopStall .wait) = true := by decide +kernel
  refine ⟨by decide +kernel, by decide +kernel, ?_⟩
  generalize loadV withTreeImage (regVal withTreeImage 17).toNat 0x1140 = r at h
  cases r with
  | error e => exact absurd h (by simp [passes, bind, Except.bind])
  | ok bs =>
    refine ⟨bs, rfl, ?_⟩
    simp only [bind, Except.bind] at h
    split at h
    · rename_i g
      exact treeImageBad_of_zeros g.1 g.2.1 g.2.2
    · exact absurd h (by simp [passes, stopStall])

/-! The copy engines, the events, the machine -/

/-- A scalar access of core 0 in flight. -/
def acc (kind : AccessKind) (pa dst : Nat) : Access := ⟨0, kind, pa, pa, 8, dst, 5, 6, 0, false, false, 0, none, 0, [], 0⟩
def withAcc (as : List Access) (bad : List Nat) : State := { withC (fun c => { c with pend := as }) with bad := bad }

theorem witness_ScalarAccessesPerform :
    (∀ k, k ∈ [AccessKind.load, .store, .amo 2, .block, .posted 0, .reply] →
      (coreOf (withAcc [acc k 0x26000 3] []) 0).pend[0]? = some (acc k 0x26000 3) ∧ mayGo (withAcc [acc k 0x26000 3] []) 0 3 0 = true ∧
      isStore (acc k 0x26000 3).pa = true ∧ isBad (withAcc [acc k 0x26000 3] []) 0x26000 8 = false ∧ (acc k 0x26000 3).home = none ∧
      (acc k 0x26000 3).dst ≠ 0) ∧
    isBad (withAcc [acc .load 0x26000 3] [0x26000]) 0x26000 8 = true ∧
    (let a : Access := { acc (.posted 0) 0x26000 0 with hole := 0x0F }
     (coreOf (withAcc [a] []) 0).pend[0]? = some a ∧ mayGo (withAcc [a] []) 0 3 0 = true ∧ a.parts = [(0x26004, 4)] ∧
       (∀ p ∈ a.parts, isStore p.1 = true)) := by decide +kernel

/-- The windows of an enabled and of a disabled core, registers of the control range and an address without one, and a load of a saved cue. -/
theorem witness_ScalarAccessesPerform_elsewhere :
    (∀ k, k ∈ [AccessKind.load, .store, .amo 2] → let a := acc k (windowPa 1 0x1000) 3
      let s := withAcc [a] []
      mayGo s 0 3 0 = true ∧ isWindow a.pa = true ∧ windowOff a.pa = 0x1000 ∧ a.pa % 64 + a.size ≤ 64 ∧ enabled s (windowCore a.pa) = true ∧
      isBad s a.pa a.size = false ∧ (let off : State := { s with house := { s.house with enables := 1 } }
        enabled off (windowCore a.pa) = false ∧ mayGo off 0 3 0 = true ∧ isBad off a.pa a.size = false)) ∧
    (∀ k, k ∈ [AccessKind.load, .store] → isControl (controlBase + 0x5000) = true ∧
      controlHit (controlBase + 0x1020) 8 = true ∧ controlHit (controlBase + 0x5000) 8 = false ∧
      mayGo (withAcc [acc k (controlBase + 0x1020) 3] []) 0 3 0 = true ∧ mayGo (withAcc [acc k (controlBase + 0x5000) 3] []) 0 3 0 = true) ∧
    (let a : Access := { acc .load 0x26000 3 with home := some 3 }
     let s := withC fun c => { c with pend := [a], saved := [(3, { cx with saveBase := some 0x27000 })] }
     mayGo s 0 3 0 = true ∧ isStore a.pa = true ∧ isBad s a.pa a.size = false ∧ isStore (0x27000 + 0x100 + 8 * a.dst) = true) := by decide +kernel

/-- An acquire of its own, and an error that no register takes. -/
theorem witness_ScalarAccessesPerform_acquire : let a : Access := { acc .load 0x26000 3 with acq := true }
    (coreOf (withAcc [a] []) 0).pend[0]? = some a ∧ mayGo (withAcc [a] []) 0 3 0 = true ∧ a.home = none ∧ isStore a.pa = true ∧
    (let b := acc .load 0x26000 0
     isBad (withAcc [b] [0x26000]) b.pa b.size = true ∧ mayGo (withAcc [b] [0x26000]) 0 3 0 = true) := by decide +kernel

theorem witness_ScalarAccessesPerform_waits : let s := withAcc [acc .store 0x26000 0, acc .load 0x26004 3] []
    (coreOf s 0).pend[1]? = some (acc .load 0x26004 3) ∧ mayGo s 0 3 1 = false := by decide +kernel

/-- A copy-engine command. -/
def kc (w : Nat) (started : Bool) : KCmd :=
  ⟨w, 0, none, ⟨(tileOf cx 0).tw, (tileOf cx 0).bd⟩, [0, 0, 0, 0], 0, ⟨0, 0⟩, 0, [], 0x100, true, 0, 0, 0, started, 0, none, none, [], false, 0, false, [], none⟩

theorem witness_EngineEventsComplete_core :
    (let s := withX fun x => { x with draining := some .halt, inflight := [⟨2, 0, none, none, 0, false⟩], nopre := some 3 }
     drains (cur s) = true ∧ (ctx s).inflight ≠ [] ∧ (ctx s).nopre = some 3) ∧
    (let s := withX fun x => { x with pitTraps := [⟨16, 4, false, 0⟩] }
     (coreOf s 0).status = .running ∧ (coreOf s 0).debugStop = false ∧ (ctx s).resumeErr = none ∧ (ctx s).draining = none ∧ live (ctx s) = false ∧
       (ctx s).pitTraps = [⟨16, 4, false, 0⟩]) ∧
    (let s := withX fun x => { x with resumeErr := some 0x30000 }
     (coreOf s 0).status = .running ∧ (coreOf s 0).debugStop = false ∧ (ctx s).resumeErr = some 0x30000) ∧
    (ctx world).pitTraps = [] ∧ (ctx world).nopre = none ∧ keysRise (coreOf withMark 0).marks = true ∧
    (pctxOf (ctx world) 0).counting = false ∧ mNext world 0 = none ∧
    mNext (withX fun x => { x with mq := [mc false] }) 0 = some 0 := by decide +kernel

/-- A pattern context whose counting pass runs, over a program of one block. -/
def counting : State := withX fun x => { x with
    pgMem := (ctx withPg).pgMem, pgCtxs := [(1, { pctxOf (ctx withPg) 0 with counting := true })] }

theorem witness_EngineEventsComplete_counting : (pctxOf (coreOf counting 0).ctx 1).counting = true ∧
    (pctxSet (ctx counting).pgMem (pctxOf (ctx counting) 1)).isSome = true := by decide +kernel

theorem witness_EngineEventsComplete_copy :
    kMayStart world 0 0 = false ∧ kRunning world 0 0 = none ∧
    (let s := withX fun x => { x with kq0 := [kc (encode (.tload 0 1 0 17 0)) false], kq1 := [kc (encode (.tload 0 1 0 17 0)) true] }
     kMayStart s 0 0 = true ∧ kQueue (ctx s) 0 = [kc (encode (.tload 0 1 0 17 0)) false] ∧
       kRunning s 0 1 = some (kc (encode (.tload 0 1 0 17 0)) true) ∧ kIsPit (kc (encode (.tload 0 1 0 17 0)) true) = false) ∧
    (let s := withX fun x => { x with kq0 := [kc (0x0E * 2 ^ 26) true] }
     kRunning s 0 0 = some (kc (0x0E * 2 ^ 26) true) ∧ fld (0x0E * 2 ^ 26) 26 6 = 0x0E) := by decide +kernel

/-- MSAVE and MRESUME alone in the queue, the second with what it has read. -/
theorem witness_EngineEventsComplete_serve :
    (let m : MCmd := { mc false with word := encode (.msave 6), ops := [⟨(tileOf cx 6).tw, (tileOf cx 6).bd⟩] }
     let s := withX fun x => { x with mq := [m] }
     mServes s 0 = true ∧ m.running = false ∧ m.away = none ∧ fld m.word 26 6 = 7 ∧ latchSick s 0 (latchOf (ctx s)) = none ∧
       bdOff (mOp m 0).bd + 73984 ≤ 0x200000) ∧
    (let m : MCmd := { mc false with word := encode (.mresume 6), ops := [⟨0, 0⟩, ⟨(tileOf cx 6).tw, (tileOf cx 6).bd⟩] }
     let s := withX fun x => { x with mq := [m], mback := some ⟨[], [], none⟩ }
     mServes s 0 = true ∧ fld m.word 26 6 = 8 ∧ (ctx s).mback.isSome = true ∧
       (viewOf 0 (mOp m 1)).bad (landed s 0) 0x1100 0x11000 = none) ∧ mServes world 0 = false := by decide +kernel

/-- A row of MLATCH over tile 3, and one of MMA with tiles 1 and 2. -/
theorem witness_EngineEventsComplete_rows :
    let o (t : Nat) : Opnd := ⟨(tileOf cx t).tw, (tileOf cx t).bd⟩
    let lt : Opnd := ⟨twMake 1 0x0F 0 0 [8, 16], 0⟩
    (let m : MCmd := { mc true with word := encode (.mlatch 3 0), ops := [⟨0, 0⟩, o 3, lt, ⟨0, 0⟩] }
     (mNextRow world 0 m).toOption.isSome = true ∧ fld m.word 26 6 = 1 ∧ (viewOf 0 (mOp m 1)).ext 1 ≤ 128 ∧ m.old = []) ∧
    (let m : MCmd := { mc true with word := encode (.mma 1 2 0 0 0 0 0 0 0), ops := [o 1, o 2, lt, ⟨0, 0⟩] }
     let d := viewOf 0 (mOp m 0)
     (mNextRow world 0 m).toOption.isSome = true ∧ fld m.word 26 6 = 3 ∧ d.layout = 3 ∧ 0x200000 ≤ d.off ∧ d.ext 1 * d.ew ≤ 4096) := by
  decide +kernel

/-- A unit of COPY, one of TLOAD, and the last element of TSTORE. -/
theorem witness_EngineEventsComplete_units :
    (let k : KCmd := { kc (6 * 2 ^ 26) true with value := 128, dst := 0x28000, src := 0x26000 }
     (kUnit world 0 0 128 k).toOption.isSome = true ∧ fld k.word 26 6 = 6 ∧ found (kXlate world 0 k 0x26000 true false) = true ∧
       found (kXlate world 0 k 0x28000 false true) = true ∧ isWindow 0x26000 = false) ∧
    (let w : List Byte := memRead mem0 0x20000 128
     let k : KCmd := { kc (encode (.tload 0 1 0 17 0)) true with wrec := w }
     let e : KCmd := { kc (encode (.tstore 0 1 0 17 0 0 3)) true with wrec := w, progress := 31 }
     let v := viewOf 0 k.tile
     let a (c : KCmd) : Nat × Nat := winElt (winRec c.wrec) (winIndex c (fld c.word 3 1 == 1) (v.lin c.progress))
     v.layout = 0 ∧ twScale v.w = 0 ∧ fmtWidth v.fmt = 32 ∧ kTotal k = 32 ∧ v.off + 4 * 32 ≤ 0x200000 ∧ stagedLines world 0 k = [] ∧
       fld k.word 26 6 = 1 ∧ fld e.word 26 6 = 2 ∧ fld e.word 4 2 = 0 ∧ a k = (0x30000, 0) ∧ (a e).1 % 4 = 0 ∧ (a e).2 = 0 ∧
       (kUnit world 0 0 32 k).toOption.isSome = true ∧ (kUnit world 0 0 32 e).toOption.isSome = true ∧
       found (kXlate world 0 k 0x30000 true false) = true ∧ found (kXlate world 0 e (a e).1 false true) = true ∧
       eltsBad world v [v.lin 31] = none) := by decide +kernel

/-- A command of core 0 that core 1's array has taken, one whose rows are all done, and one that may move. -/
theorem witness_EngineEventsComplete_matrix :
    (let k := { mc true with rows := mTotal (mc true) }
     let s := withX fun x => { x with mq := [k] }
     (coreOf s 0).foreign = none ∧ mRunning (ctx s).mq = some 0 ∧ (ctx s).mq[0]? = some k ∧ mTotal k ≤ k.rows) ∧
    (let s := setCoreOf world 1 { Core.reset with foreign := some (0, mc true) }
     (coreOf s 1).foreign = some (0, mc true) ∧ mAwayAt (coreOf s 0).ctx.mq 1 = none) ∧
    (coreOf world 0).foreign = none ∧ mRunning (ctx world).mq = none ∧ duetPartner world 0 = none ∧
    (let s := setCoreOf (withC fun c => { c with duetctl := 3, cycles := 64 }) 1 { Core.reset with duetctl := 5 }
     duetPartner s 0 = some 1 ∧ (arrayOf s 0).1 = 0 ∧ (coreOf s 0).duetSide ≠ ((coreOf s 0).cycles / 64 % 2 == 1) ∧
       mRunning (coreOf s 0).ctx.mq = none ∧ duetPartner (setCoreOf s 0 { coreOf s 0 with duetSide := true }) 0 = some 1) := by decide +kernel

/-- PIT.XLOCK at the head of engine 0 with the record of s22, and a completion word. -/
def xlock : KCmd := { kc (encode (.pitXlock 22 17)) true with wrec := natBytes 64 (2 ^ 96), sig := some 0x28000 }
def withXlock : State := withX fun x => { x with kq0 := [xlock] }

theorem witness_EngineEventsComplete_dispatch : kRunning withXlock 0 0 = some xlock ∧ kIsPit xlock = true ∧
    (match pitParts withXlock 0 0 xlock with | .ok p => p.2.length | .error _ => 0) = 1 ∧
    (match pitSig withXlock 0 0 xlock with | .ok g => decide (g = some 0x28000) | .error _ => false) = true ∧
    (pitOf withXlock 0).queue.length < 64 ∧ engineBad withXlock 0 1 = false := by decide +kernel

/-- A pit command that has run. -/
def pc0 : PitCmd :=
  { op := 0x20, core := 0, serial := 0, seq := 0, tag := 0, keng := 0, sig := none, group := 0, pars := [], addrs := [], vals := [],
    places := [], tileOff := 0, tileLen := 0, status := 0, statusAt := 0, flags := 0, rows := 0, acc := [], ran := true, marked := false }

/-- A dispatched pit command on engine 5, a status on its way, an audition. -/
def withPit : State := setPit { world with house := { world.house with
    statuses := [⟨0, 0, 0, 0, 0⟩], audits := [(0, ⟨0, 0, 3, 0x24000, 0x100000, 0, 0, 0, 0, 0, false⟩)] } } 5
  { Pit.reset with queue := [pc0] }

theorem witness_EngineEventsComplete_pit : (pitOf world 5).queue = [] ∧ (pitOf world 5).sent = [] ∧ (pitOf withPit 5).queue ≠ [] ∧ pitGoing withPit 5 = true ∧
    withPit.house.statuses[0]?.isSome = true ∧ (withPit.house.audits.find? fun e => e.1 == 0).isSome = true := by decide +kernel

/-- The same command is done and has a completion word. -/
theorem witness_EngineEventsComplete_pitDone : let p := { pc0 with sig := some 0x28000 }
    let s := setPit world 5 { Pit.reset with queue := [p] }
    (pitOf s 5).sent = [] ∧ (pitOf s 5).queue = [p] ∧ pitGoing s 5 = true ∧ pitTotal p ≤ p.rows ∧ pitHeld s p = false ∧ isStore 0x28000 = true ∧
    (∀ q ∈ (setPit s 5 { pitOf s 5 with queue := [] }).pits, ((q.2.queue ++ q.2.sent).any fun d => d.group == p.group) = false) := by decide +kernel

/-- A host's write is held at core 0, a record is proposed. -/
def withHeld : State := withC fun c => { c with remote := [⟨0x1000, [1, 2], none, some 0⟩] }
def withProposal : State := { world with house := { world.house with
    stagestat := 1, digest := 0, hosts := [(0, { HostBlock.reset with approve := (List.range 7).map fun k => (k, 0) })] } }

theorem witness_ModuleEventsComplete_held : withHeld.house.pushes = [] ∧ heldReady withHeld 0 = some (0, ⟨0x1000, [1, 2], none, some 0⟩) ∧
    0x1000 + 2 ≤ 0x200000 ∧ heldReady world 0 = none ∧ pushWaits withHeld ⟨0, 0, 3, 64, 5⟩ = true ∧ pushWaits world ⟨0, 0, 3, 64, 5⟩ = false ∧
    wingBase (wingOf withWings 0 3) ≠ 0 ∧ programRoom (wingOf withWings 0 3) 1 = true ∧ wingBase (wingOf world 0 3) = 0 ∧
    programRoom (wingOf (setDie world 0 { Die.reset with wings := [(3, { Wing.reset with qbase := 0x110000, tail := 1024 })] }) 0 3) 1 = false ∧
    (setDie world 0 { Die.reset with buffer := [⟨3, []⟩] } |> fun s => (dieOf s 0).buffer) = [⟨3, []⟩] ∧
    wingOcc (wingOf withWings 0 3) < wingEntries (wingOf withWings 0 3) ∧ liveWings world 0 = [] ∧ 3 ∉ liveWings world 0 := by decide +kernel

theorem witness_ModuleEventsComplete_hosts : loftBase ≤ loftEnd ∧ isWindow windowBase = true ∧ dieOfCore (windowCore windowBase) = 0 ∧
    hostOwns world 1 (dieOfCore (windowCore windowBase)) = false ∧ bar0Denied world 1 0x100000 = true ∧
    withProposal.house.stagestat.getLsbD 0 = true ∧ (mput 7 0 (hostBlk withProposal 0).approve).length = 8 ∧
    packElts 64 ((mput 7 0 (hostBlk withProposal 0).approve).map (·.2)) = withProposal.house.digest ∧
    packElts 64 ((mput 7 1 (hostBlk withProposal 0).approve).map (·.2)) ≠ withProposal.house.digest ∧
    (mput 7 1 (hostBlk world 0).approve).length < 8 ∧ world.house.stagestat.getLsbD 0 = false ∧
    recordCounter (natBytes 8 1) ≤ 1 ∧ recordCounter world.house.record < recordCounter (natBytes 8 1) ∧
    (let s := { world with house := { world.house with record := natBytes 8 1 } }
     recordCounter (natBytes 8 1) ≤ recordCounter s.house.record ∧ s.house.record ≠ []) := by decide +kernel

theorem witness_ModuleEventsComplete_push : bar0Denied world 0 0x101004 = false ∧ pushAt 0x101004 = some (0, 0) ∧ pushAt 0x1004 = none ∧
    0x1004 % 8 ≠ 0 := by decide +kernel

theorem witness_ModuleEventsComplete_links : isPeer loftEnd = true ∧
    (coreOf (withAcc [acc .load loftEnd 3] []) 0).pend[0]? = some (acc .load loftEnd 3) ∧
    (coreOf (withAcc [acc .store loftEnd 0] []) 0).pend[0]? = some (acc .store loftEnd 0) ∧ isPeer 0x26000 = false ∧
    (let s := { world with house := { world.house with tests := [(4, ⟨0, 0, 2⟩), (5, ⟨1, 0, 3⟩)] } }
     s.house.tests.find? (fun o => o.1 == 4) = some (4, ⟨0, 0, 2⟩) ∧ s.house.tests.find? (fun o => o.1 == 5) = some (5, ⟨1, 0, 3⟩) ∧
       (∀ e ∈ s.house.tests, e.1 ≠ 6)) ∧
    (let s := { world with house := { world.house with redbase := BitVec.ofNat 64 (1 + 3 * 2 ^ 20) }, mem := memBlock mem0 0x300800 (natBytes 8 4) }
     redOn s = true ∧ (mget ⟨0, []⟩ 0 s.house.red).count + 1 ≠ physNat s (redSlotPa s 0 + 0x800) 8) ∧
    (debugRow cx 5).isSome = true ∧ debugRow { cx with window := none } 5 = none ∧ sysRegDefined 7 = false := by decide +kernel

theorem witness_ModuleEventsComplete :
    wingOcc (wingOf world 0 3) = 0 ∧ wingOcc (wingOf (setDie world 0 { Die.reset with wings := [(3, { Wing.reset with qbase := 0x110000, tail := 1 })] }) 0 3) ≠ 0 ∧
    (dieOf world 0).buffer = [] ∧ saveRoot world 0 = 0 ∧ coreIdle world 1 = true ∧ bestCand (candidates world 0) = none ∧
    (bestCand (candidates (withC fun c => { c with saved := [(3, cx)] }) 0)).isSome = true ∧
    hostOwns world 0 0 = true ∧ hostOwns world 1 0 = false ∧ (hostBlk world 0).request = false ∧
    (hostBlk { world with house := { world.house with hosts := [(0, { HostBlock.reset with request := true })] } } 0).request = true ∧
    debugHas (coreOf world 0) = false ∧ debugHas (withC (fun c => { c with debugStop := true }) |> fun s => coreOf s 0) = true ∧
    0x26000 + 8 ≤ hbmEnd ∧ loftBase ≤ loftBase := by decide +kernel

theorem witness_LandingFrame : (∀ off n v, (Upd.row 4 5 none) = .spad off n v → off < 0x200000) ∧ (∀ n v, (Upd.row 4 5 none) ≠ .sys n v) ∧
    (∀ off n v, (Upd.spad 0x1FFFFF 1 7) = .spad off n v → off < 0x200000) :=
  ⟨nofun, nofun, fun _ _ _ h => by cases h; decide⟩

theorem witness_SlotInstructionsOnlyGather : (Instr.add 5 6 7).info.slot ≠ none := by decide

theorem witness_MarkPhaseCompletes : (1 : Nat) ≤ 3 ∧ 3 ≤ 3 ∧ 2 < 3 := by decide

/-! ### One bundle -/

/-- The state after reset with one word placed where the next step fetches. -/
def placed (w : Nat) : State := State.reset.withFetchWord 32 w

/-- The bundle that `prepare` gives. -/
def prepared (s : State) : State × List (Nat × Instr) := match prepare s with | .ok r => r | .error t => (t, [])

theorem prepared_of {s : State} (h : (match prepare s with | .ok _ => true | .error _ => false) = true) : prepare s = .ok (prepared s) := by
  unfold prepared
  cases hp : prepare s with
  | ok r => rfl
  | error t => simp [hp] at h

theorem witness_StepRunsDecodedBundle_prepare : let s := placed 0x04A63800
    booting s = false ∧ s.agenda = [] ∧ s.focus < 512 ∧ prepare s = .ok (prepared s) ∧
    (match runSlots (prepared s).2 (prepared s).1 with | .next t => !lateFault t | _ => false) = true :=
  ⟨by decide +kernel, by decide +kernel, by decide +kernel, prepared_of (by decide +kernel), by decide +kernel⟩

/-- A bundle whose one fault comes after the stalls: s6 waits for an error of its access. -/
def lateWord : State := let s := placed 0x04A63800
  setCtx s { ctx s with regErrs := [⟨6, 0x26000⟩] }

theorem witness_StepRunsDecodedBundle_late : let s := lateWord
    booting s = false ∧ s.agenda = [] ∧ s.focus < 512 ∧ prepare s = .ok (prepared s) ∧
    (match runSlots (prepared s).2 (prepared s).1 with | .next t => lateFault t | _ => false) = true ∧
    (match runSlots (prepared s).2 (calm (prepared s).1) with | .next _ => true | _ => false) = true :=
  ⟨by decide +kernel, by decide +kernel, by decide +kernel, prepared_of (by decide +kernel), by decide +kernel, by decide +kernel⟩

theorem witness_StepRunsDecodedBundle_stops : booting world = false ∧ world.agenda = [] ∧
    (match prepare (withC fun c => { c with status := .idle }) with | .error _ => true | .ok _ => false) = true := by decide +kernel

theorem witness_StepRunsDecodedBundle_word : let s := placed 0x04A63800
    let woken := setCur s { cur s with ctx := { (cur s).ctx with wait := none } }
    let ws := (List.range 8).map fun j => if j = 1 then 0x04A63800 else 0
    (cur s).status = .running ∧ (cur s).debugStop = false ∧ (cur s).ctx.resumeErr = none ∧ (cur s).ctx.owed = 0 ∧ (cur s).ctx.draining = none ∧
    (boundaryTrap s s.focus).isNone = true ∧ (cur s).icache.contains (icacheKey (cur s).ctx) = true ∧
    (cur s).ctx.wait = none ∧ (match fetchBundle woken s.focus with | .ok f => decide (f.2 = (ws, false)) | .error _ => false) = true ∧
    decodeSlot (slotKindOf 1) 0x04A63800 = .ok (.add 5 6 7) ∧
    (match fetchBundle woken s.focus with
      | .ok f => match exec (.add 5 6 7) { tlbFill woken s.focus true f.1 with issue := ⟨1, ws, [], []⟩ } with | .next t => !lateFault t | _ => false
      | .error _ => false) = true := by decide +kernel

/-- A bundle whose word in slot 0 is none. -/
theorem witness_StepRunsDecodedBundle_illegal : let s0 := placed 1
    let s := setCur s0 { cur s0 with tvec := 0x10100 }
    let woken := setCur s { cur s with ctx := { (cur s).ctx with wait := none } }
    booting s = false ∧ s.agenda = [] ∧ s.focus < 512 ∧
    (cur s).status = .running ∧ (cur s).debugStop = false ∧ (cur s).ctx.resumeErr = none ∧ (cur s).ctx.owed = 0 ∧ (cur s).ctx.draining = none ∧
    (boundaryTrap s s.focus).isNone = true ∧ (cur s).icache.contains (icacheKey (cur s).ctx) = true ∧ (cur s).ctx.wait = none ∧
    (match fetchBundle woken s.focus with
      | .ok f => decide (f.2 = ((List.range 8).map fun j => if j = 0 then 1 else 0, false)) | .error _ => false) = true ∧
    (match decodeSlot (slotKindOf 0) 1 with | .error _ => true | .ok _ => false) = true ∧ live (cur s).ctx = false ∧ (cur s).tvec ≠ 0 ∧
    (cur s).tvec.toNat % 32 = 0 := by decide +kernel

theorem witness_AddBundleStep : let s := placed 0x04A63800
    booting s = false ∧ s.agenda = [] ∧ s.focus < 512 ∧ 
    prepare s = .ok ((prepared s).1, (List.range 8).map fun k => (k, if k = 1 then .add 5 6 7 else .nop)) ∧
    (prepared s).1.issue.stops = [] ∧ regReady s 6 = true ∧ regReady s 7 = true ∧ regFree s 5 = true ∧ (ctx s).inflight = [] ∧
    (ctx s).delay = none ∧ duetPartner s s.focus = none := by
  have h : prepare (placed 0x04A63800) = .ok (prepared (placed 0x04A63800)) := prepared_of (by decide +kernel)
  have h2 : (prepared (placed 0x04A63800)).2 = (List.range 8).map fun k => (k, if k = 1 then .add 5 6 7 else .nop) := by decide +kernel
  refine ⟨by decide +kernel, by decide +kernel, by decide +kernel, ?_, by decide +kernel, by decide +kernel, by decide +kernel, by decide +kernel,
    by decide +kernel, by decide +kernel, by decide +kernel⟩
  rw [h, ← h2]

theorem witness_DecodeEncodeAgree : (Instr.amoCas 9 10 11 3 3 1).wf = true ∧ (Instr.amoCas 9 10 11 3 3 1).info.slot = some .s := by decide

theorem witness_DecodedIsWellFormed : decodeSlot .k 0x044A0300 = .ok (.tload 2 10 0 12 0) := by decide +kernel

theorem memories_reset : MemoriesCanonical State.reset := ⟨rfl, rfl, fun _ => rfl⟩

theorem witness_StepKeepsMemoriesCanonical : MemoriesCanonical State.reset ∧
    (match step State.reset with | .next _ => true | _ => false) = true := ⟨memories_reset, by decide +kernel⟩

/-! ### Words -/

/-! Each word is written out, field by field, from the slot formats and opcode lists of R61-R69 and the section of its instruction. -/

theorem test_decode_add : decodeSlot .s 0x04A63800 = .ok (.add 5 6 7) := by decide +kernel
theorem test_decode_cmpi : decodeSlot .s 0x39245FFB = .ok (.cmpi 9 4 2 8187) := by decide +kernel
theorem test_decode_lds : decodeSlot .s 0x40E3800A = .ok (.lds 7 3 2 10) := by decide +kernel
theorem test_decode_ldg : decodeSlot .s 0x4BFE0017 = .ok (.ldg 31 30 0 2 1 3) := by decide +kernel
theorem test_decode_stg : decodeSlot .s 0x49494037 = .ok (.stg 10 9 8 2 1 3) := by decide +kernel
theorem test_decode_amoCas : decodeSlot .s 0x4D2A585F = .ok (.amoCas 9 10 11 3 3 1) := by decide +kernel
theorem test_decode_fadd : decodeSlot .s 0x50642812 = .ok (.fadd 3 4 5 1 2) := by decide +kernel
theorem test_decode_br : decodeSlot .c 0x0D800000 = .ok (.br 3) := by decide +kernel
theorem test_decode_brp : decodeSlot .c 0x112C0000 = .ok (.brp 2 5 1) := by decide +kernel
theorem test_decode_loop : decodeSlot .c 0x1C900080 = .ok (.loop 1 4 128) := by decide +kernel
theorem test_decode_loops : decodeSlot .c 0x20900002 = .ok (.loops 1 4 2) := by decide +kernel
theorem test_decode_voteAll : decodeSlot .c 0x24190002 = .ok (.voteAll 3 2) := by decide +kernel
theorem test_decode_trap : decodeSlot .c 0xC0000005 = .ok (.trap 5) := by decide +kernel
theorem test_decode_waita : decodeSlot .c 0x7052A002 = .ok (.waita 20 21 2) := by decide +kernel
theorem test_decode_cuePush : decodeSlot .c 0x40296000 = .ok (.cuePush 10 11) := by decide +kernel
theorem test_decode_cueFork : decodeSlot .c 0x4431A000 = .ok (.cueFork 12 13) := by decide +kernel
theorem test_decode_markInitEns : decodeSlot .c 0x6018092C = .ok (.markInitEns 6 300) := by decide +kernel
theorem test_decode_admitSeg : decodeSlot .c 0xD4296000 = .ok (.admitSeg 10 11) := by decide +kernel
theorem test_decode_vfma : decodeSlot .v 0x10507080 = .ok (.vfma 5 1 48 8 0) := by decide +kernel
theorem test_decode_vsmax : decodeSlot .v 0x58207D00 = .ok (.vsmax 2 1 61 0 0) := by decide +kernel
theorem test_decode_mma : decodeSlot .m 0x0D23940D = .ok (.mma 9 3 2 10 0 1 1 0 1) := by decide +kernel
theorem test_decode_mma_plain : decodeSlot .m 0x0C400000 = .ok (.mma 2 0 0 0 0 0 0 0 0) := by decide +kernel
theorem test_decode_mlatch : decodeSlot .m 0x04010000 = .ok (.mlatch 1 0) := by decide +kernel
theorem test_decode_tload : decodeSlot .k 0x048A5B00 = .ok (.tload 4 10 11 12 0) := by decide +kernel
theorem test_decode_pitScaleadd : decodeSlot .k 0x808A0300 = .ok (.pitScaleadd 4 10 12) := by decide +kernel
theorem test_decode_pitFence : decodeSlot .k 0x8C000300 = .ok (.pitFence 12) := by decide +kernel
theorem test_decode_tcast : decodeSlot .x 0x14C50004 = .ok (.tcast 6 5 4) := by decide +kernel
theorem test_decode_treeAdd : decodeSlot .x 0x69470000 = .ok (.treeAdd 10 7 0) := by decide +kernel
theorem test_decode_treeAdd_node : decodeSlot .x 0x69C70003 = .ok (.treeAdd 14 7 3) := by decide +kernel
theorem test_decode_nop_bits : decodeSlot .m 0x00000001 = .error (.nopBits 1) := by decide +kernel

/-! ### Terms that the well-formedness check refuses -/

theorem test_wf_register : (Instr.add 32 0 0).wf = false ∧ (Instr.vfma 48 0 0 0 0).wf = false ∧ (Instr.vfma 0 62 0 0 0).wf = false := by decide
theorem test_wf_loop : (Instr.loop 1 4 0).wf = false ∧ (Instr.loops 1 4 9).wf = false ∧ (Instr.loops 1 4 0).wf = false := by decide
theorem test_wf_sysreg : (Instr.sysrd 1 7).wf = false ∧ (Instr.syswr 1 4).wf = false ∧ (Instr.nopreWrite 1 4).wf = false := by decide
theorem test_wf_sel : (Instr.sel 1 2 3 16).wf = false := by decide

/-! ### One step -/

/-- s6 and s7 before the bundle. -/
def armed (w a b : Nat) : State :=
  let s := placed w
  setCtx s { ctx s with sregs := [(6, BitVec.ofNat 64 a), (7, BitVec.ofNat 64 b)] }

/-- A scalar register of core 0 after one step. -/
def regAfter (s : State) (n : Nat) : Option Word := match step s with | .next t => some (sregOf (coreOf t 0).ctx n) | _ => none

/-- R92: addition wraps at 64 bits. -/
theorem test_add_wraps : regAfter (armed 0x04A63800 0xFFFFFFFFFFFFFFFF 3) 5 = some 2 := by decide +kernel
/-- R22: the bundle after this one is 32 bytes on. -/
theorem test_step_pc : (match step (placed 0x04A63800) with | .next t => some (coreOf t 0).ctx.pc | _ => none) = some 0x10020#64 := by decide +kernel
/-- R350: TRAP saves the address of the bundle after it and its number. -/
theorem test_trap_without_vector : (match step (placed 0xC0000005) with | .next t => some (coreOf t 0).status | _ => none) = some Status.stopped := by
  decide +kernel

end Sys2Proof.Machine.Tests
end

-- ==== the encoding read back: O56, O57, O58 ====

section

/-! SUPPORT. A word is packed from fields that do not overlap, so that each of them is read back from its place. -/

namespace Sys2Proof

theorem pack_cons (base v p : Nat) (fs : List (Nat × Nat)) : pack base ((v, p) :: fs) = pack base fs + v * 2 ^ p := by
  simp only [pack, List.foldr_cons]

theorem pack_nil (base : Nat) : pack base [] = base := by simp only [pack, List.foldr_nil]

/-- The fields of a word without its fixed bits. -/
def fieldSum : List (Nat × Nat) → Nat
  | [] => 0
  | f :: fs => fieldSum fs + f.1 * 2 ^ f.2

@[simp] theorem fieldSum_nil : fieldSum [] = 0 := by rw [fieldSum]
@[simp] theorem fieldSum_cons (v p : Nat) (fs : List (Nat × Nat)) : fieldSum ((v, p) :: fs) = fieldSum fs + v * 2 ^ p := by rw [fieldSum]

theorem pack_eq_add (base : Nat) (fs : List (Nat × Nat)) : pack base fs = base + fieldSum fs := by
  induction fs with
  | nil => rw [pack_nil, fieldSum_nil, Nat.add_zero]
  | cons f fs ih => rw [pack_cons, fieldSum_cons, ih, Nat.add_assoc]

/-- What a word holds at a place: the field that begins there, else its fixed bits. -/
def placed (base : Nat) : List (Nat × Nat) → Nat → Nat → Nat
  | [], lo, n => base / 2 ^ lo % 2 ^ n
  | f :: fs, lo, n => if f.2 = lo then f.1 else placed base fs lo n

@[simp] theorem placed_nil (base lo n : Nat) : placed base [] lo n = base / 2 ^ lo % 2 ^ n := by rw [placed]
@[simp] theorem placed_cons (base v p : Nat) (fs : List (Nat × Nat)) (lo n : Nat) :
    placed base ((v, p) :: fs) lo n = if p = lo then v else placed base fs lo n := by rw [placed]

/-- Fields from the highest down, read at a place: those above lie clear of it; one that begins there fits, over clear fixed bits; and what
lies below carries nothing into it. -/
def Clear (base : Nat) : List (Nat × Nat) → Nat → Nat → Prop
  | [], _, _ => True
  | f :: fs, lo, n =>
    if lo + n ≤ f.2 then f.2 ≠ lo ∧ Clear base fs lo n
    else if f.2 = lo then base / 2 ^ lo % 2 ^ n = 0 ∧ f.1 < 2 ^ n ∧ base % 2 ^ lo + fieldSum fs < 2 ^ lo
    else placed base fs lo n = base / 2 ^ lo % 2 ^ n ∧ base % 2 ^ lo + fieldSum (f :: fs) < 2 ^ lo

/-- Fixed bits below a place, with fields that carry nothing into it, leave it as it was. -/
theorem fld_add_low {base s lo n : Nat} (h : base % 2 ^ lo + s < 2 ^ lo) : fld (base + s) lo n = base / 2 ^ lo % 2 ^ n := by
  unfold fld
  rw [show (base + s) / 2 ^ lo = base / 2 ^ lo by
    conv_lhs => rw [← Nat.div_add_mod base (2 ^ lo), Nat.add_assoc, Nat.mul_add_div (Nat.two_pow_pos lo), Nat.div_eq_of_lt h, Nat.add_zero]]

/-- A field above a place is not seen there. -/
theorem fld_add_high {w v p lo n : Nat} (h : lo + n ≤ p) : fld (w + v * 2 ^ p) lo n = fld w lo n := by
  obtain ⟨k, rfl⟩ := Nat.exists_eq_add_of_le h
  have : w + v * 2 ^ (lo + n + k) = w + (2 ^ n * (v * 2 ^ k)) * 2 ^ lo := by ring
  rw [fld, this, Nat.add_mul_div_right _ _ (Nat.two_pow_pos lo), Nat.add_mul_mod_self_left, fld]

/-- A field put where a word is clear is read back. -/
theorem fld_add_same {w v lo n : Nat} (h : fld w lo n = 0) (hv : v < 2 ^ n) : fld (w + v * 2 ^ lo) lo n = v := by
  rw [fld] at *
  rw [Nat.add_mul_div_right _ _ (Nat.two_pow_pos lo), Nat.add_mod, h, Nat.zero_add, Nat.mod_mod, Nat.mod_eq_of_lt hv]

theorem fld_pack {base lo n : Nat} {fs : List (Nat × Nat)} (h : Clear base fs lo n) : fld (pack base fs) lo n = placed base fs lo n := by
  induction fs with
  | nil => rw [pack_nil, placed_nil, fld]
  | cons f fs ih =>
    rw [Clear] at h
    split at h
    · rw [pack_cons, fld_add_high ‹_›, ih h.2, placed_cons, if_neg h.1]
    · split at h
      · rename_i hp
        obtain ⟨h0, hv, hc⟩ := h
        rw [pack_cons, placed_cons, if_pos hp, hp]
        exact fld_add_same (by rw [pack_eq_add, fld_add_low hc, h0]) hv
      · rename_i hp
        rw [placed_cons, if_neg hp, h.1, pack_eq_add, fld_add_low h.2]

/-- The word of an instruction, its name aside, read field by field. -/
theorem fld_word {base w lo n : Nat} {fs : List (Nat × Nat)} (hw : pack base fs = w) (h : Clear base fs lo n) : fld w lo n = placed base fs lo n := by
  rw [← hw, fld_pack h]

@[simp] theorem clear_nil (base lo n : Nat) : Clear base [] lo n := by rw [Clear]; trivial
@[simp] theorem clear_cons (base v p lo n : Nat) (fs : List (Nat × Nat)) : Clear base ((v, p) :: fs) lo n ↔
    if lo + n ≤ p then p ≠ lo ∧ Clear base fs lo n
    else if p = lo then base / 2 ^ lo % 2 ^ n = 0 ∧ v < 2 ^ n ∧ base % 2 ^ lo + fieldSum fs < 2 ^ lo
    else placed base fs lo n = base / 2 ^ lo % 2 ^ n ∧ base % 2 ^ lo + fieldSum ((v, p) :: fs) < 2 ^ lo := by rw [Clear]

theorem checked_wf {i : Instr} (h : i.wf = true) : checked i = .ok i := if_pos h

/-- The general SYSWR writes a register that has no row of its own. -/
theorem syswrRow_general {a n : Nat} (h : sysRegOwnRow n = false) : syswrRow a n = .syswr a n := by
  simp only [sysRegOwnRow, Bool.or_eq_false_iff, beq_eq_false_iff_ne, Bool.and_eq_false_imp, decide_eq_true_eq, decide_eq_false_iff_not] at h
  unfold syswrRow
  repeat rw [if_neg (by omega)]

/-- SYSWR is decoded by the register that it names, to the instruction whose row that register has. -/
theorem decodeC_syswr {i : Instr} {a n : Nat} (he : encode i = pack 0xD0000000 [(a, 18), (n, 0)]) (hr : syswrRow a n = i) (ha : a < 32)
    (hn : n < 8192) (h : i.wf = true) : decodeC (encode i) = .ok i := by
  generalize encode i = w at he
  simp (disch := (simp; try omega)) [decodeC, fld_word he.symm, hr, checked_wf h]

/-- SEL keeps its predicate in the low bits of its operation field, so the field is known only as a range. -/
theorem decodeS_sel {d a b p : Nat} (h : (Instr.sel d a b p).wf = true) : decodeS (encode (.sel d a b p)) = .ok (.sel d a b p) := by
  have hf := h
  simp only [Instr.wf.eq_def, decide_eq_true_eq, Bool.and_eq_true] at hf
  generalize hw : encode _ = w
  simp only [encode.eq_def] at hw
  have h11 : fld w 0 11 = 448 + p := by rw [← hw]; simp only [pack_cons, pack_nil, fld]; omega
  have h16 : fld w 0 16 = 448 + p + b * 2048 := by rw [← hw]; simp only [pack_cons, pack_nil, fld]; omega
  have hop : fld w 26 6 = 1 := by rw [fld_word hw (by simp; omega)]; rfl
  simp only [decodeS, hop, h11, h16]
  repeat rw [if_neg (by omega)]
  simp (disch := (simp; try omega)) [fld_word hw, checked_wf h]

/-! ### Each slot's decoder reads back what was encoded -/

theorem decodeC_encode (i : Instr) (h : i.wf = true) (hq : i.info.slot = some .c) : decodeC (encode i) = .ok i := by
  cases i <;> simp only [Instr.info.eq_def, Option.some.injEq, reduceCtorEq] at hq
  case nop => rfl
  all_goals
    have hf := h
    simp only [Instr.wf.eq_def, decide_eq_true_eq, Bool.and_eq_true, Bool.or_eq_true, Bool.not_eq_true', beq_iff_eq] at hf
  case syswr a n => exact decodeC_syswr rfl (syswrRow_general hf.2) hf.1.1.1 hf.1.1.2 h
  case nopreWrite a n => obtain ⟨ha, rfl⟩ := hf; exact decodeC_syswr rfl rfl ha (by decide) h
  case stickyWrite a n => obtain ⟨ha, rfl⟩ := hf; exact decodeC_syswr rfl rfl ha (by decide) h
  case duetctlWrite a n => obtain ⟨ha, rfl⟩ := hf; exact decodeC_syswr rfl rfl ha (by decide) h
  case rootWrite a n => obtain ⟨ha, rfl | rfl⟩ := hf <;> exact decodeC_syswr rfl rfl ha (by decide) h
  case evselWrite a n => obtain ⟨ha, ((rfl | rfl) | rfl) | rfl⟩ := hf <;> exact decodeC_syswr rfl rfl ha (by decide) h
  all_goals
    generalize hw : encode _ = w
    simp only [encode.eq_def] at hw
    simp (disch := (simp; try omega)) [decodeC, fld_word hw, checked_wf h]

theorem decodeS_encode (i : Instr) (h : i.wf = true) (hq : i.info.slot = some .s) : decodeS (encode i) = .ok i := by
  cases i <;> simp only [Instr.info.eq_def, Option.some.injEq, reduceCtorEq] at hq
  case sel d a b p => exact decodeS_sel h
  all_goals
    have hf := h
    simp only [Instr.wf.eq_def, decide_eq_true_eq, Bool.and_eq_true] at hf
    generalize hw : encode _ = w
    simp only [encode.eq_def] at hw
    simp (disch := (simp; try omega)) [decodeS, fld_word hw, checked_wf h]

/-- The fields of a vector word with a destination, two sources, a guard and a width, whose fixed bits are its operation and bits 3:1. -/
theorem fld_twoSources {base w d a b g u : Nat} (hw : pack base [(d, 20), (a, 14), (b, 8), (g, 4), (u, 0)] = w)
    (h : d < 64 ∧ a < 64 ∧ b < 64 ∧ g < 16 ∧ u < 2) (hb : base % 2 = 0 ∧ base % 2 ^ 26 < 16) :
    fld w 26 6 = base / 2 ^ 26 % 64 ∧ fld w 20 6 = d ∧ fld w 14 6 = a ∧ fld w 8 6 = b ∧ fld w 4 4 = g ∧ fld w 1 3 = base / 2 % 8 ∧
      fld w 0 1 = u := by
  subst hw
  simp only [pack_cons, pack_nil, fld]
  omega

theorem decodeV_encode (i : Instr) (h : i.wf = true) (hq : i.info.slot = some .v) : decodeV (encode i) = .ok i := by
  cases i <;> simp only [Instr.info.eq_def, Option.some.injEq, reduceCtorEq] at hq
  all_goals
    have hf := h
    simp only [Instr.wf.eq_def, decide_eq_true_eq, Bool.and_eq_true] at hf
    generalize hw : encode _ = w
    simp only [encode.eq_def] at hw
  case vadd | vsub | vmin | vmax | vmul | vfma | vfms | viadd | visub | vimul | vimin | vimax | vand | vor | vxor | vshuf | vsortAsc |
      vsortDesc | vdelta | vrope | vsmax =>
    simp [decodeV, fld_twoSources hw hf.1.1.1 (by decide), checked_wf h]
  all_goals simp (disch := (simp; try omega)) [decodeV, fld_word hw, checked_wf h]

theorem decodeM_encode (i : Instr) (h : i.wf = true) (hq : i.info.slot = some .m) : decodeM (encode i) = .ok i := by
  cases i <;> simp only [Instr.info.eq_def, Option.some.injEq, reduceCtorEq] at hq
  all_goals
    have hf := h
    simp only [Instr.wf.eq_def, decide_eq_true_eq, Bool.and_eq_true] at hf
    generalize hw : encode _ = w
    simp only [encode.eq_def] at hw
    simp (disch := (simp; try omega)) [decodeM, fld_word hw, checked_wf h]

theorem decodeK_encode (i : Instr) (h : i.wf = true) (hq : i.info.slot = some .k) : decodeK (encode i) = .ok i := by
  cases i <;> simp only [Instr.info.eq_def, Option.some.injEq, reduceCtorEq] at hq
  all_goals
    have hf := h
    simp only [Instr.wf.eq_def, decide_eq_true_eq, Bool.and_eq_true] at hf
    generalize hw : encode _ = w
    simp only [encode.eq_def] at hw
    simp (disch := (simp; try omega)) [decodeK, fld_word hw, checked_wf h]

theorem decodeX_encode (i : Instr) (h : i.wf = true) (hq : i.info.slot = some .x) : decodeX (encode i) = .ok i := by
  cases i <;> simp only [Instr.info.eq_def, Option.some.injEq, reduceCtorEq] at hq
  all_goals
    have hf := h
    simp only [Instr.wf.eq_def, decide_eq_true_eq, Bool.and_eq_true] at hf
    generalize hw : encode _ = w
    simp only [encode.eq_def] at hw
    simp (disch := (simp; try omega)) [decodeX, fld_word hw, checked_wf h]

/-- An instruction's word is a word: its fields stay below bit 32. -/
theorem encode_lt (i : Instr) {q : SlotKind} (h : i.wf = true) (hq : i.info.slot = some q) : encode i < 2 ^ 32 := by
  cases i <;> simp only [Instr.info.eq_def, reduceCtorEq] at hq
  case nop => decide
  all_goals
    simp only [Instr.wf.eq_def, decide_eq_true_eq, Bool.and_eq_true, Bool.or_eq_true, beq_iff_eq] at h
    simp only [encode.eq_def, pack_cons, pack_nil]
    omega

/-! ### What a decoder answers -/

/-- An answer of a slot's decoder: if it is an instruction, a well-formed one of that slot, or NOP. -/
structure Sound (q : SlotKind) (r : Except DecodeError Instr) : Prop where
  of_ok : ∀ i, r = .ok i → i.wf = true ∧ (i = .nop ∨ i.info.slot = some q)

theorem sound_error (q : SlotKind) (e : DecodeError) : Sound q (.error e) := ⟨fun _ h => nomatch h⟩
theorem sound_nop (q : SlotKind) : Sound q (.ok .nop) := ⟨fun _ h => by cases h; exact ⟨rfl, .inl rfl⟩⟩

theorem sound_checked {q : SlotKind} {j : Instr} (h : j.info.slot = some q) : Sound q (checked j) := by
  refine ⟨fun i hi => ?_⟩
  unfold checked at hi
  split at hi
  · cases hi; exact ⟨‹_›, .inr h⟩
  · cases hi

theorem sound_ite {q : SlotKind} {p : Prop} [Decidable p] {a b : Except DecodeError Instr} (ha : Sound q a) (hb : Sound q b) :
    Sound q (if p then a else b) := by split <;> assumption

/-- The row of SYSWR is one of the C slot's, whatever its register. -/
theorem syswrRow_slot (a n : Nat) : (syswrRow a n).info.slot = some .c := by
  unfold syswrRow
  repeat' split
  all_goals rfl

theorem decodeC_sound (w : Nat) : Sound .c (decodeC w) := by
  unfold decodeC
  split
  case h_27 => exact sound_ite (sound_checked (syswrRow_slot _ _)) (sound_error _ _)
  all_goals repeat' with_reducible apply sound_ite
  all_goals simp only [sound_error, sound_nop, sound_checked, Instr.info.eq_def]

theorem decodeS_sound (w : Nat) : Sound .s (decodeS w) := by
  unfold decodeS
  split
  all_goals repeat' with_reducible apply sound_ite
  all_goals simp only [sound_error, sound_nop, sound_checked, Instr.info.eq_def]

theorem decodeV_sound (w : Nat) : Sound .v (decodeV w) := by
  unfold decodeV
  split
  all_goals repeat' with_reducible apply sound_ite
  all_goals simp only [sound_error, sound_nop, sound_checked, Instr.info.eq_def]

theorem decodeM_sound (w : Nat) : Sound .m (decodeM w) := by
  unfold decodeM
  split
  all_goals repeat' with_reducible apply sound_ite
  all_goals simp only [sound_error, sound_nop, sound_checked, Instr.info.eq_def]

theorem decodeK_sound (w : Nat) : Sound .k (decodeK w) := by
  unfold decodeK
  split
  all_goals repeat' with_reducible apply sound_ite
  all_goals simp only [sound_error, sound_nop, sound_checked, Instr.info.eq_def]

theorem decodeX_sound (w : Nat) : Sound .x (decodeX w) := by
  unfold decodeX
  split
  all_goals repeat' with_reducible apply sound_ite
  all_goals simp only [sound_error, sound_nop, sound_checked, Instr.info.eq_def]

theorem decodeSlot_sound (q : SlotKind) (w : Nat) : Sound q (decodeSlot q w) := by
  cases q
  · exact sound_ite (decodeC_sound w) (sound_error _ _)
  · exact sound_ite (decodeS_sound w) (sound_error _ _)
  · exact sound_ite (decodeV_sound w) (sound_error _ _)
  · exact sound_ite (decodeM_sound w) (sound_error _ _)
  · exact sound_ite (decodeK_sound w) (sound_error _ _)
  · exact sound_ite (decodeX_sound w) (sound_error _ _)

/-! ### The obligations about the encoding -/

/-- Settles O56: each field of a word is read back from where the encoder put it. -/
theorem decodeEncodeAgree : Obligations.DecodeEncodeAgree := by
  unfold Obligations.DecodeEncodeAgree
  intro i q h hq
  have hlt := encode_lt i h hq
  cases q <;> refine (if_pos hlt).trans ?_
  · exact decodeC_encode i h hq
  · exact decodeS_encode i h hq
  · exact decodeV_encode i h hq
  · exact decodeM_encode i h hq
  · exact decodeK_encode i h hq
  · exact decodeX_encode i h hq

/-- Settles O57: every arm of a slot's decoder is an error, NOP, or a checked instruction of that slot. -/
theorem decodedIsWellFormed : Obligations.DecodedIsWellFormed := by
  unfold Obligations.DecodedIsWellFormed
  exact fun q w i h => (decodeSlot_sound q w).of_ok i h

/-- Settles O58. -/
theorem writtenWordsDecode : Obligations.WrittenWordsDecode := by
  unfold Obligations.WrittenWordsDecode
  decide

end Sys2Proof
end

-- ==== slot instructions only gather: O52 ====

section

/-! SUPPORT. What the instructions of the slots answer: they note effects and stops in the bundle in issue. -/

namespace Sys2Proof.Machine

/-- An outcome that differs from the state only in what the bundle in issue has gathered, under the slot that is issuing (R22, R58). -/
def Gathers (s : State) (o : Host.Outcome State Fault Refusal) : Prop :=
  ∃ (es : List Eff) (ss : List Stop), o = .next { s with issue := { s.issue with
    effs := s.issue.effs ++ es.map fun e => (s.issue.slot, e)
    stops := s.issue.stops ++ ss.map fun e => (s.issue.slot, e) } }

theorem gathers_perform (s : State) (r : Except Stop (List Eff)) : Gathers s (perform s r) := by
  rw [perform_next, settle_frame]
  cases r with
  | ok es => exact ⟨es, [], by simp⟩
  | error st => exact ⟨[], [st], by simp⟩

theorem gathers_perform_settled (s : State) (es : List Eff) (r : Except Stop (List Eff)) : Gathers s (perform (settle s (.ok es)) r) := by
  rw [perform_next, settle_settle_ok]
  cases r with
  | ok fs => exact ⟨es ++ fs, [], by simp⟩
  | error st => exact ⟨es, [st], by simp⟩

theorem gathers_performBound (s : State) (r : Except Stop (Local × Except Stop (List Eff))) : Gathers s (performBound s r) := by
  cases r with
  | error st => exact gathers_perform s _
  | ok p => exact gathers_perform_settled s _ _

theorem gathers_execAdmitSeg (a b : Nat) (s : State) : Gathers s (execAdmitSeg a b s) := by
  unfold execAdmitSeg
  cases needStageManager s with
  | error e => exact gathers_perform s _
  | ok =>
    dsimp only
    split
    · split
      · split <;> exact gathers_perform s _
      · split
        · exact gathers_perform s _
        · exact gathers_perform_settled s _ _
    · exact gathers_perform s _

/-- CUE.EXIT leaves its ensembles with the stop for a bad join counter. -/
theorem gathers_execCueExit (s : State) : Gathers s (execCueExit s) := by
  unfold execCueExit
  dsimp only
  split
  · exact gathers_perform s _
  · split
    · exact gathers_perform s _
    · split
      · exact gathers_perform s _
      · split
        · exact gathers_perform s _
        · split
          · exact gathers_perform_settled s _ _
          · exact gathers_perform s _

/-- WAITA notes what it has read, and stalls while its condition does not hold. -/
theorem gathers_execWaita (a b c : Nat) (s : State) : Gathers s (execWaita a b c s) := by
  unfold execWaita
  dsimp only
  split
  · exact gathers_perform s _
  · split
    · exact gathers_perform s _
    · exact gathers_perform_settled s _ _

/-- Every instruction of a slot answers by `perform`, but for those that gather twice: the tile instructions that bind extents before they act, and
ADMIT, CUE.EXIT and WAITA. -/
theorem gathers_exec (i : Instr) (s : State) (h : i.info.slot ≠ none) : Gathers s (exec i s) := by
  cases i <;> simp only [Instr.info.eq_def, ne_eq, not_true_eq_false] at h
  case cueExit => exact gathers_execCueExit s
  case waita a b c => exact gathers_execWaita a b c s
  case admitSeg a b => exact gathers_execAdmitSeg a b s
  case mma | mtrans | mcast | tload | tstore | tloadIx | gather | scatter | trecv => exact gathers_performBound s _
  all_goals exact gathers_perform s _

/-- Settles O52: every slot instruction answers by gathering. -/
theorem slotInstructionsOnlyGather : Obligations.SlotInstructionsOnlyGather := by
  unfold Obligations.SlotInstructionsOnlyGather
  exact fun i s h => gathers_exec i s h

end Sys2Proof.Machine
end

-- ==== vector sources and the false guard: O27, O28 ====

section

/-! SUPPORT. Rows as bytes, what a source code reads, and the operations under a false guard. -/

namespace Sys2Proof.Machine

theorem memRead_length (m : Memory) (a n : Nat) : (memRead m a n).length = n := by
  induction n generalizing a with
  | zero => rfl
  | succ n ih => rw [memRead, List.length_cons, ih]

theorem memRead_getD (m : Memory) (a : Nat) {n k : Nat} (h : k < n) : (memRead m a n).getD k 0 = memGet m (a + k) := by
  induction n generalizing a k with
  | zero => omega
  | succ n ih =>
    cases k with
    | zero => rfl
    | succ k => rw [memRead, List.getD_cons_succ, ih (a + 1) (by omega), Nat.add_right_comm, Nat.add_assoc]

/-- A byte of a number is the byte of the list that the number was read from. -/
theorem bytesNat_div_mod (bs : List Byte) (k : Nat) : BitVec.ofNat 8 (bytesNat bs / 2 ^ (8 * k)) = bs.getD k 0 := by
  induction bs generalizing k with
  | nil => simp [bytesNat]
  | cons b bs ih =>
    cases k with
    | zero => apply BitVec.eq_of_toNat_eq; have := b.isLt; simp [bytesNat]; omega
    | succ k =>
      rw [show 8 * (k + 1) = 8 + 8 * k by ring, pow_add, ← Nat.div_div_eq_div_mul, bytesNat, show (b.toNat + 256 * bytesNat bs) / 2 ^ 8 = bytesNat bs by have := b.isLt; omega, ih]
      simp

theorem bytesNat_lt (bs : List Byte) : bytesNat bs < 2 ^ (8 * bs.length) := by
  induction bs with
  | nil => simp [bytesNat]
  | cons b bs ih =>
    have := b.isLt
    rw [bytesNat, List.length_cons, show 8 * (bs.length + 1) = 8 + 8 * bs.length by ring, pow_add]
    omega

/-- The row that a span of 512 bytes holds, byte by byte. -/
theorem rowByte_memNat (m : Memory) (off : Nat) {k : Nat} (hk : k < 512) : rowByte (BitVec.ofNat 4096 (memNat m off 512)) k = memGet m (off + k) := by
  have hlt : memNat m off 512 < 2 ^ 4096 := (bytesNat_lt _).trans_eq (by rw [memRead_length])
  rw [rowByte, BitVec.toNat_ofNat, Nat.mod_eq_of_lt hlt, memNat, bytesNat_div_mod, memRead_getD m off hk]

theorem noEarly_free {s : State} {f : Upd → Bool} (opnd : Nat) (h : pendingOn (ctx s) f = false) : noEarly s opnd f = .ok () := by
  rw [noEarly, if_neg (by simp [h])]

theorem soundRead_sound {s : State} {off n : Nat} (h : isBad s (windowPa s.focus off) n = false) : soundRead s off n = .ok () := by
  rw [soundRead, if_neg (by simp [h])]

theorem vecRow_held {s : State} {w n : Nat} (hw : (ctx s).window = some w) (hb : holdsBank (ctx s) (vrow (ctx s) w n / 4) = true) :
    vecRow s n = .ok (vrow (ctx s) w n) := by
  simp [vecRow, hw, hb]

/-- Settles O27: each code has its own arm of `readVec`. -/
theorem vectorSourceCodes : Obligations.VectorSourceCodes := by
  unfold Obligations.VectorSourceCodes
  intro s pos code extra
  refine ⟨fun w hc hw hb hp hs => ⟨rfl, ?_⟩, fun l h1 h2 hl => ?_, fun off f h1 h2 hr hp hs => ?_, fun h => ?_, fun h => ?_, fun l h hl => ?_⟩
  · simp [readVec, hc, vecRow_held hw hb, noEarly_free _ hp, soundRead_sound hs]
  · subst hl
    rw [readVec, if_neg (by omega), if_pos h2]
    rfl
  · refine ⟨BitVec.ofNat 4096 (memNat (cur s).spad off 512), ?_, fun k hk => rowByte_memNat _ _ hk⟩
    simp [readVec, show ¬code < 48 by omega, show ¬code < 56 by omega, h2, hr, noEarly_free _ hp, soundRead_sound hs]
  · subst h; rfl
  · subst h; rfl
  · subst h hl; exact rfl

/-! ### The false guard -/

/-- Fewer source codes ask no more of the S slot's operation. -/
theorem bcastLegal_subset {s : State} {cs ds : List Nat} (h : bcastLegal s ds = .ok ()) (hs : ∀ c ∈ cs, c ∈ ds) : bcastLegal s cs = .ok () := by
  unfold bcastLegal needLegal at *
  split at h
  · rename_i hd
    rw [if_pos]
    simp only [Bool.or_eq_true, Bool.not_eq_true', List.any_eq_false, beq_iff_eq] at hd ⊢
    exact hd.imp_left fun hn c hc => hn c (hs c hc)
  · cases h

/-- An operation whose false guard is looked at first ends there (R39). -/
theorem guarded_false {s : State} {g : Nat} (x : Except Stop (List Eff)) (hg : predReady s g = true) (hv : predVal s g = false) :
    (do if !(← rdP s 3 g) then pure [] else x) = .ok [] := by
  simp [rdP_ready 3 hg, hv]

/-- The same after the check of code 61. -/
theorem legal_guarded_false {s : State} {g : Nat} {cs : List Nat} (x : Except Stop (List Eff)) (hl : bcastLegal s cs = .ok ())
    (hg : predReady s g = true) (hv : predVal s g = false) : (do bcastLegal s cs; if !(← rdP s 3 g) then pure [] else x) = .ok [] := by
  simp [hl, rdP_ready 3 hg, hv]

theorem vecShift_guard_false {s : State} {d a i g w : Nat} {f : BitVec 32 → BitVec 32} (hi : i ≤ 31) (hl : bcastLegal s [a] = .ok ())
    (hg : predReady s g = true) (hv : predVal s g = false) : vecShift s d a i g w f = .ok [] := by
  simp [vecShift, needLegal, hi, vecOp_guard_false (pos := [(0, a)]) hl hg hv]

/-- Settles O28: the guard is looked at before any source, by the shared course of the vector operations or by the operation itself. -/
theorem falseGuardSuppresses : Obligations.FalseGuardSuppresses := by
  unfold Obligations.FalseGuardSuppresses
  intro s d a b c f g i k o r w hg hv hl
  have legal (cs : List Nat) (h : ∀ c ∈ cs, c ∈ [a, b, d]) : bcastLegal s cs = .ok () := bcastLegal_subset hl h
  have off {x : Except Stop (List Eff)} (h : x = .ok []) : perform s x = .next (noted s []) := by rw [h]; rfl
  have v (pos lat ok alike f') (h : ∀ c ∈ pos.map Prod.snd, c ∈ [a, b, d]) : perform s (vecOp s g d w lat pos ok alike f') = .next (noted s []) :=
    off (vecOp_guard_false (legal _ h) hg hv)
  have v0 {lat ok alike f'} := v [] lat ok alike f' (by simp)
  have v1 {lat ok alike f'} := v [(0, a)] lat ok alike f' (by simp)
  have v2 {lat ok alike f'} := v [(0, a), (1, b)] lat ok alike f' (by simp)
  have v3 {lat ok alike f'} := v [(0, a), (1, b), (2, d)] lat ok alike f' (by simp)
  have gl (cs : List Nat) (x : Except Stop (List Eff)) (h : ∀ c ∈ cs, c ∈ [a, b, d]) := off (legal_guarded_false x (legal cs h) hg hv)
  have g1 {x} := gl [a] x (by simp)
  have g2 {x} := gl [a, b] x (by simp)
  have gd {x} := gl [d] x (by simp)
  have g0 {x : Except Stop (List Eff)} := off (guarded_false x hg hv)
  have sh (hi : i ≤ 31) {f'} := off (vecShift_guard_false (d := d) (w := w) (f := f') hi (legal [a] (by simp)) hg hv)
  refine ⟨⟨v2, v2, v2, v2, v1, v1, v2, v3, v3⟩, ⟨g1, g1, g1, g1, g1, g1⟩, ⟨v2, v2, v2, v2, v2, v2, v2, v2⟩, fun hi => ⟨sh hi, sh hi, sh hi⟩,
    ⟨g2, g2, g0, g0, g0⟩, ⟨v1, v1, v1, v0, v2, v1, v1, g1, g1⟩, ⟨v1, v1, v2, v2, v2, v3, v2, v2⟩, ⟨g0, gd, g1, g0⟩⟩

end Sys2Proof.Machine
end

-- ==== the frame of a result that lands: O53 ====

section

/-! SUPPORT. What an update does to its core, location by location, and what it leaves of the state. -/

namespace Sys2Proof.Machine

theorem sregOf_setSreg (x : Ctxt) (d n : Nat) (v : Word) : sregOf (setSreg x d v) n = if n = d ∧ n ≠ 0 then v else sregOf x n := by
  unfold setSreg sregOf
  by_cases hn : n = 0
  · simp [hn]
  · by_cases hd : d = 0
    · simp [hn, hd]
    · simp [hn, hd, mget_mput]

/-- The mask of one predicate among sixteen. -/
theorem getLsbD_predMask (d : Nat) {n : Nat} (hn : n < 16) : (BitVec.ofNat 16 (2 ^ d)).getLsbD n = decide (d = n) := by
  rw [BitVec.getLsbD_ofNat, Nat.testBit_two_pow, decide_eq_true hn, Bool.true_and]

theorem predOf_setPred (x : Ctxt) (d : Nat) {n : Nat} (v : Bool) (hn : n < 16) :
    predOf (setPred x d v) n = if n = d ∧ n ≠ 0 then v else predOf x n := by
  have hm := getLsbD_predMask d hn
  unfold setPred
  split
  · rw [if_neg (by omega)]
  · rename_i h0
    by_cases h : n = d
    · subst h
      cases v <;> simp only [predOf, Bool.false_eq_true, if_true, if_false, beq_eq_false_iff_ne.2 h0, BitVec.getLsbD_or, BitVec.getLsbD_and, BitVec.getLsbD_not, hm] <;> simp [h0]
    · cases v <;> simp only [predOf, Bool.false_eq_true, if_true, if_false, BitVec.getLsbD_or, BitVec.getLsbD_and, BitVec.getLsbD_not, hm] <;> simp [h, Ne.symm h, hn]

/-- A range of keys put at once. -/
theorem mget_putRange {α : Type} (dflt : α) (f : Nat → α) (m : List (Nat × α)) (r k n : Nat) :
    mget dflt n ((List.range k).foldl (fun m j => mput (r + j) (f j) m) m) = if r ≤ n ∧ n < r + k then f (n - r) else mget dflt n m := by
  induction k with
  | zero => rw [if_neg (by omega)]; rfl
  | succ k ih =>
    rw [List.range_succ, List.foldl_append, List.foldl_cons, List.foldl_nil, mget_mput, ih]
    by_cases h : n = r + k
    · subst h; simp
    · rw [if_neg h]
      refine if_congr ?_ rfl rfl
      omega

theorem mget_fillRows {α : Type} (dflt v : α) (m : List (Nat × α)) (r k n : Nat) :
    mget dflt n (fillRows v m r k) = if r ≤ n ∧ n < r + k then v else mget dflt n m := mget_putRange dflt (fun _ => v) m r k n

theorem getLsbD_bankBits (f k : Nat) {b : Nat} (hb : b < 256) : (bankBits f k).getLsbD b = (decide (f ≤ b) && decide (b < f + k)) := by
  unfold bankBits
  rw [BitVec.getLsbD_ofNat, ← Nat.shiftLeft_eq, Nat.testBit_shiftLeft, Nat.testBit_two_pow_sub_one]
  simp [hb]
  by_cases h : f ≤ b <;> simp [h]
  omega

theorem natBytes_length (n v : Nat) : (natBytes n v).length = n := by
  induction n generalizing v with
  | zero => rfl
  | succ n ih => rw [natBytes, List.length_cons, ih]


/-- What SYSWR leaves of a core: all that is not a system register, a branch target or the rotation. -/
structure SysKeeps (c c' : Core) (n : Nat) (v : Word) : Prop where
  spad : c'.spad = c.spad
  rows : c'.rows = c.rows
  tags : c'.tags = c.tags
  rot : c'.ctx.rot = if n = 3 then v.toNat % 16 else c.ctx.rot
  bregs : c'.ctx.bregs = if 8 ≤ n ∧ n ≤ 15 then mput (n - 8) v c.ctx.bregs else c.ctx.bregs
  ctx : c'.ctx = { c.ctx with
    rot := c'.ctx.rot, bregs := c'.ctx.bregs, sticky := c'.ctx.sticky, nopre := c'.ctx.nopre, cause := c'.ctx.cause, faultpc := c'.ctx.faultpc
    faultpcSet := c'.ctx.faultpcSet, faultinfo := c'.ctx.faultinfo, shapeinfo := c'.ctx.shapeinfo, esave := c'.ctx.esave
    rehearse := c'.ctx.rehearse, iroot := c'.ctx.iroot, droot := c'.ctx.droot }

theorem coreOf_dropTlb (s : State) (core : Nat) (inst : Bool) (old new : Nat) :
    coreOf (dropTlb s core inst old new) core =
      if inst then { coreOf s core with itlb := [] } else { coreOf s core with dtlb := [] } := by
  cases inst <;> simp [dropTlb]

theorem SysKeeps.ite {c : Core} {core n : Nat} {v : Word} {p : Prop} [Decidable p] {a b : State} (ha : p → SysKeeps c (coreOf a core) n v)
    (hb : ¬p → SysKeeps c (coreOf b core) n v) : SysKeeps c (coreOf (if p then a else b) core) n v := by
  split
  · exact ha ‹_›
  · exact hb ‹_›

/-- Every register but ROTBASE and the branch targets: its write is one that SYSWR's frame allows. -/
theorem sysWrite_keeps (s : State) (core n : Nat) (v : Word) : SysKeeps (coreOf s core) (coreOf (sysWrite s core n v) core) n v := by
  unfold sysWrite
  extract_lets c x put
  have hput (x' : Ctxt) : coreOf (put x') core = { c with ctx := x' } := coreOf_setCoreOf_same ..
  refine .ite (fun h3 => ?_) fun h3 => ?_
  · rw [hput]
    exact ⟨rfl, rfl, rfl, (if_pos h3).symm, (if_neg (by omega)).symm, rfl⟩
  refine .ite (fun h4 => ?_) fun h4 => .ite (fun h5 => ?_) fun h5 => .ite (fun h8 => ?_) fun h8 => ?_
  · rw [hput]
    exact ⟨rfl, rfl, rfl, (if_neg h3).symm, (if_neg (by omega)).symm, rfl⟩
  · rw [hput]
    exact ⟨rfl, rfl, rfl, (if_neg h3).symm, (if_neg (by omega)).symm, rfl⟩
  · rw [hput]
    exact ⟨rfl, rfl, rfl, (if_neg h3).symm, (if_pos h8).symm, rfl⟩
  repeat' refine SysKeeps.ite (fun _ => ?_) fun _ => ?_
  any_goals rw [coreOf_dropTlb]
  any_goals rw [coreOf_setCoreOf_same]
  all_goals exact ⟨rfl, rfl, rfl, (if_neg h3).symm, (if_neg h8).symm, rfl⟩

/-! ### What an update leaves of its core -/

/-- A core after an update has landed: the location that it names, and the rest as it was. -/
structure Landed (c c' : Core) (u : Upd) : Prop where
  mode : c'.ctx.mode = c.ctx.mode := by rfl
  pc : c'.ctx.pc = c.ctx.pc := by rfl
  sregs : ∀ n, sregOf c'.ctx n = (match (generalizing := false) u with | .sreg d v => if n = d ∧ n ≠ 0 then v else sregOf c.ctx n | _ => sregOf c.ctx n) := by intros; rfl
  preds : ∀ n, n < 16 → predOf c'.ctx n =
    (match (generalizing := false) u with | .pred d v => if n = d ∧ n ≠ 0 then v else predOf c.ctx n | _ => predOf c.ctx n) := by intros; rfl
  kmasks : ∀ n, kmaskOf c'.ctx n = (match (generalizing := false) u with | .kmask d b k => if n = d then (b, k) else kmaskOf c.ctx n | _ => kmaskOf c.ctx n) := by
    intros; rfl
  bregs : ∀ n, bregOf c'.ctx n = (match (generalizing := false) u with
    | .breg d v => if n = d then v else bregOf c.ctx n
    | .sys d v => if 8 ≤ d ∧ d ≤ 15 ∧ n = d - 8 then v else bregOf c.ctx n
    | _ => bregOf c.ctx n) := by intros; rfl
  tiles : ∀ n, tileOf c'.ctx n = (match (generalizing := false) u with
    | .tile d tw bd => if n = d then ⟨tw.getD (tileOf c.ctx n).tw, bd.getD (tileOf c.ctx n).bd⟩ else tileOf c.ctx n
    | _ => tileOf c.ctx n) := by intros; rfl
  dims : ∀ n, dimOf c'.ctx n = (match (generalizing := false) u with
    | .dim d v => if n = d then { dimOf c.ctx n with val := v } else dimOf c.ctx n
    | .dimLimit d b => if n = d then { dimOf c.ctx n with limit := b } else dimOf c.ctx n
    | _ => dimOf c.ctx n) := by intros; rfl
  ports : ∀ n, portOf c'.ctx n = (match (generalizing := false) u with | .port d p => if n = d then p else portOf c.ctx n | _ => portOf c.ctx n) := by intros; rfl
  spad : ∀ a, memGet c'.spad a = (match (generalizing := false) u with
    | .spad off n v => if off < 0x200000 ∧ off ≤ a ∧ a < off + n then (natBytes n v).getD (a - off) 0 else memGet c.spad a
    | _ => memGet c.spad a) := by intros; rfl
  rows : (∀ off n v, u = .spad off n v → off < 0x200000) → ∀ n, rowOf c' n = (match (generalizing := false) u with
    | .row r v _ => if n = r ∧ holdsBank c.ctx (r / 4) = true then v else rowOf c n
    | .accAlloc f k => if 4 * f ≤ n ∧ n < 4 * f + 4 * k then 0 else rowOf c n
    | _ => rowOf c n) := by intros; rfl
  tags : (∀ off n v, u = .spad off n v → off < 0x200000) → ∀ n, tagOf c' n = (match (generalizing := false) u with
    | .row r _ tag => if n = r ∧ holdsBank c.ctx (r / 4) = true then tag else tagOf c n
    | .accAlloc f k => if 4 * f ≤ n ∧ n < 4 * f + 4 * k then none else tagOf c n
    | .accWin w fmt => if w ≤ n ∧ n < w + 48 then some fmt else tagOf c n
    | _ => tagOf c n) := by intros; rfl
  banks : ∀ b, b < 256 → holdsBank c'.ctx b = (match (generalizing := false) u with
    | .accAlloc f k => holdsBank c.ctx b || (decide (f ≤ b) && decide (b < f + k))
    | .accFree f k => holdsBank c.ctx b && !(decide (f ≤ b) && decide (b < f + k))
    | _ => holdsBank c.ctx b) := by intros; rfl
  window : (c'.ctx.window, c'.ctx.wfmt, c'.ctx.rot) = (match (generalizing := false) u with
    | .accWin w fmt => (some w, fmt, 0)
    | .accFree f k => (c.ctx.window.filter (fun w => !(decide (w / 4 < f + k) && decide (f < w / 4 + 12))), c.ctx.wfmt, c.ctx.rot)
    | .rot v => (c.ctx.window, c.ctx.wfmt, v)
    | .sys n v => (c.ctx.window, c.ctx.wfmt, if n = 3 then v.toNat % 16 else c.ctx.rot)
    | _ => (c.ctx.window, c.ctx.wfmt, c.ctx.rot)) := by rfl
  flights : (c'.ctx.inflight, c'.ctx.trapCap) = (match (generalizing := false) u with
    | .accFree f k => (c.ctx.inflight.map (dropRows f k), c.ctx.trapCap.map (dropRows f k))
    | _ => (c.ctx.inflight, c.ctx.trapCap)) := by rfl
  tree : c'.ctx.tree = (match (generalizing := false) u with | .tree v => v | _ => c.ctx.tree) := by rfl
  pgMem : ∀ n, mget 0 n c'.ctx.pgMem = (match (generalizing := false) u with
    | .pgMem dest ws => if dest ≤ n ∧ n < dest + ws.length then ws.getD (n - dest) 0 else mget 0 n c.ctx.pgMem
    | _ => mget 0 n c.ctx.pgMem) := by intros; rfl
  pgCtxs : ∀ n, pctxOf c'.ctx n = (match (generalizing := false) u with | .pgCtx g p => if n = g then p else pctxOf c.ctx n | _ => pctxOf c.ctx n) := by intros; rfl
  latches : ∀ n, latchOf c'.ctx n = (match (generalizing := false) u with
    | .latchType l tw col g => if n = l then { latchOf c.ctx l with tw := tw, col := col, grp := g.getD (latchOf c.ctx l).grp } else latchOf c.ctx n
    | _ => latchOf c.ctx n) := by intros; rfl
  others : (∀ n v, u ≠ .sys n v) → c'.tvec = c.tvec ∧ c'.ctx = { c.ctx with
    sregs := c'.ctx.sregs, preds := c'.ctx.preds, bregs := c'.ctx.bregs, kmasks := c'.ctx.kmasks, tiles := c'.ctx.tiles, dims := c'.ctx.dims
    ports := c'.ctx.ports, held := c'.ctx.held, window := c'.ctx.window, wfmt := c'.ctx.wfmt, rot := c'.ctx.rot, inflight := c'.ctx.inflight
    trapCap := c'.ctx.trapCap, tree := c'.ctx.tree, pgMem := c'.ctx.pgMem, pgCtxs := c'.ctx.pgCtxs, latches := c'.ctx.latches } := by
    exact fun _ => ⟨rfl, rfl⟩

/-- A value put that depends on its key. -/
theorem mget_mput_of {α : Type} (dflt : α) (f : Nat → α) (d n : Nat) (m : List (Nat × α)) :
    mget dflt n (mput d (f d) m) = if n = d then f n else mget dflt n m := by
  rw [mget_mput]
  split
  · rw [‹n = d›]
  · rfl

/-- The context with one register written. -/
theorem setSreg_eq (x : Ctxt) (n : Nat) (v : Word) : setSreg x n v = { x with sregs := (setSreg x n v).sregs } := by
  unfold setSreg; split <;> rfl

theorem setPred_eq (x : Ctxt) (n : Nat) (v : Bool) : setPred x n v = { x with preds := (setPred x n v).preds } := by
  unfold setPred; split <;> rfl

theorem landed_row (c : Core) (r : Nat) (v : Row) (tag : Option Nat) :
    Landed c (if holdsBank c.ctx (r / 4) then { c with rows := mput r v c.rows, tags := mput r tag c.tags } else c) (.row r v tag) := by
  split
  · rename_i h
    exact { rows := fun _ n => by simp [rowOf, mget_mput, h], tags := fun _ n => by simp [tagOf, mget_mput, h] }
  · rename_i h
    exact { rows := fun _ n => by simp [h], tags := fun _ n => by simp [h] }

theorem landed_accAlloc (c : Core) (f k : Nat) :
    Landed c { c with ctx := { c.ctx with held := c.ctx.held ||| bankBits f k }, rows := fillRows 0 c.rows (4 * f) (4 * k)
                      tags := fillRows none c.tags (4 * f) (4 * k) } (.accAlloc f k) :=
  { rows := fun _ n => mget_fillRows ..
    tags := fun _ n => mget_fillRows ..
    banks := fun b hb => by simp only [holdsBank, BitVec.getLsbD_or, getLsbD_bankBits f k hb] }

theorem landed_accFree (c : Core) (f k : Nat) :
    Landed c { c with ctx := { c.ctx with
        held := c.ctx.held &&& ~~~(bankBits f k)
        inflight := c.ctx.inflight.map (dropRows f k)
        trapCap := c.ctx.trapCap.map (dropRows f k)
        window := match c.ctx.window with
          | some w => if w / 4 < f + k ∧ f < w / 4 + 12 then none else some w
          | none => none } } (.accFree f k) :=
  { banks := fun b hb => by simp only [holdsBank, BitVec.getLsbD_and, BitVec.getLsbD_not, getLsbD_bankBits f k hb, hb, decide_true, Bool.true_and]
    window := by
      cases c.ctx.window with
      | none => rfl
      | some w => by_cases h : w / 4 < f + k ∧ f < w / 4 + 12 <;> simp [Option.filter, h] }

theorem landed_accWin (c : Core) (w fmt : Nat) :
    Landed c { c with ctx := { c.ctx with window := some w, wfmt := fmt, rot := 0 }, tags := fillRows (some fmt) c.tags w 48 } (.accWin w fmt) :=
  { tags := fun _ n => by rw [tagOf, mget_fillRows]; rfl }

theorem landed_spad (c : Core) (off n v : Nat) (h : off < 0x200000) :
    Landed c { c with spad := memBlock c.spad off (natBytes n v) } (.spad off n v) :=
  { spad := fun a => by rw [memGet_memBlock, natBytes_length]; exact if_congr (by simp [h]) rfl rfl }

/-- Past the scratchpad the bytes are those of accumulator rows. -/
theorem landed_spad_rows (c : Core) (rs : List (Nat × Row)) (off n v : Nat) (h : ¬ off < 0x200000) : Landed c { c with rows := rs } (.spad off n v) :=
  { spad := fun a => (if_neg fun hc => h hc.1).symm
    rows := fun hu => absurd (hu off n v rfl) h
    tags := fun hu => absurd (hu off n v rfl) h }

theorem SysKeeps.landed {c c' : Core} {n : Nat} {v : Word} (h : SysKeeps c c' n v) : Landed c c' (.sys n v) where
  mode := by rw [h.ctx]
  pc := by rw [h.ctx]
  sregs := fun k => by rw [h.ctx]; rfl
  preds := fun k _ => by rw [h.ctx]; rfl
  kmasks := fun k => by rw [h.ctx]; rfl
  bregs := fun k => by
    rw [bregOf, h.bregs]
    split
    · rw [mget_mput]
      exact if_congr (by omega) rfl rfl
    · exact (if_neg (by omega)).symm
  tiles := fun k => by rw [h.ctx]; rfl
  dims := fun k => by rw [h.ctx]; rfl
  ports := fun k => by rw [h.ctx]; rfl
  spad := fun a => by rw [h.spad]
  rows := fun _ k => by rw [rowOf, h.rows]; rfl
  tags := fun _ k => by rw [tagOf, h.tags]; rfl
  banks := fun b _ => by rw [h.ctx]; rfl
  window := by rw [h.rot, h.ctx]
  flights := by rw [h.ctx]
  tree := by rw [h.ctx]
  pgMem := fun k => by rw [h.ctx]
  pgCtxs := fun k => by rw [h.ctx]; rfl
  latches := fun k => by rw [h.ctx]; rfl
  others := fun hu => absurd rfl (hu n v)

/-- What an update lands in its core. -/
theorem landed_applyUpd (s : State) (core : Nat) (u : Upd) : Landed (coreOf s core) (coreOf (applyUpd s core u) core) u := by
  have put (c : Core) (h : Landed (coreOf s core) c u) : Landed (coreOf s core) (coreOf (setCoreOf s core c) core) u := by
    rwa [coreOf_setCoreOf_same]
  cases u
  case sreg d v => exact put _ (by rw [setSreg_eq]; exact { sregs := fun n => sregOf_setSreg _ d n v })
  case pred d v => exact put _ (by rw [setPred_eq]; exact { preds := fun n hn => predOf_setPred _ d v hn })
  case breg d v => exact put _ { bregs := fun n => mget_mput .. }
  case kmask d b k => exact put _ { kmasks := fun n => mget_mput .. }
  case row r v tag =>
    have h := landed_row (coreOf s core) r v tag
    unfold applyUpd
    dsimp only
    split at h
    · rw [if_pos ‹_›]; exact put _ h
    · rw [if_neg ‹_›]; exact h
  case spad off n v =>
    obtain ⟨c, adm, w, bad, rels, he, -, hlo, hhi⟩ := coreStore_frame s core off (natBytes n v)
    have hc : coreOf (applyUpd s core (.spad off n v)) core = c := (congrArg (coreOf · core) he).trans (coreOf_setCoreOf_same ..)
    rw [hc]
    by_cases h : off < 0x200000
    · rw [hlo h]; exact landed_spad _ off n v h
    · obtain ⟨rs, hr⟩ := hhi h
      rw [hr]; exact landed_spad_rows _ rs off n v h
  case tile t tw bd =>
    exact put _ { tiles := fun n => mget_mput_of _ (fun k => (⟨tw.getD (tileOf (coreOf s core).ctx k).tw, bd.getD (tileOf (coreOf s core).ctx k).bd⟩ : Tile)) t n _ }
  case dim d v =>
    exact put _ { dims := fun n => mget_mput_of _ (fun k => (⟨(dimOf (coreOf s core).ctx k).limit, v⟩ : Dim)) d n _ }
  case dimLimit d b =>
    exact put _ { dims := fun n => mget_mput_of _ (fun k => (⟨b, (dimOf (coreOf s core).ctx k).val⟩ : Dim)) d n _ }
  case sys n v => exact (sysWrite_keeps s core n v).landed
  case port z p => exact put _ { ports := fun n => mget_mput .. }
  case accAlloc f k => exact put _ (landed_accAlloc _ f k)
  case accFree f k => exact put _ (landed_accFree _ f k)
  case accWin w fmt => exact put _ (landed_accWin _ w fmt)
  case rot v => exact put _ {}
  case tree v => exact put _ {}
  case pgMem dest ws => exact put _ { pgMem := fun n => mget_putRange .. }
  case pgCtx g p => exact put _ { pgCtxs := fun n => mget_mput .. }
  case latchType l tw col g => exact put _ { latches := fun n => mget_mput .. }

/-- An update acts on one core; beside it the errors, releases and admitted leaves of what it overwrites go, and the TLB entries of a replaced root. -/
structure LandsIn (s t : State) (core : Nat) : Prop where
  mem : t.mem = s.mem
  pits : t.pits = s.pits
  house : { t.house with admission := s.house.admission, waived := s.house.waived } = s.house
  others : ∀ n, n ≠ core → coreOf t n = coreOf s n

theorem LandsIn.refl (s : State) (core : Nat) : LandsIn s s core := ⟨rfl, rfl, rfl, fun _ _ => rfl⟩

theorem landsIn_setCoreOf (s : State) (core : Nat) (c : Core) : LandsIn s (setCoreOf s core c) core :=
  ⟨rfl, rfl, rfl, fun _ h => coreOf_setCoreOf_other s c h⟩

theorem LandsIn.written {s t : State} {core : Nat} (h : LandsIn s t core) (pa n : Nat) : LandsIn s (written t pa n) core :=
  ⟨h.mem, h.pits, h.house, h.others⟩

theorem landsIn_dropTlb (s : State) (core : Nat) (c : Core) (inst : Bool) (old new : Nat) :
    LandsIn s (dropTlb (setCoreOf s core c) core inst old new) core :=
  ⟨rfl, rfl, rfl, fun n h => by simp [dropTlb, coreOf_setCoreOf_other, h]⟩

theorem LandsIn.ite {s a b : State} {core : Nat} {p : Prop} [Decidable p] (ha : LandsIn s a core) (hb : LandsIn s b core) :
    LandsIn s (if p then a else b) core := by
  split <;> assumption

theorem landsIn_sysWrite (s : State) (core n : Nat) (v : Word) : LandsIn s (sysWrite s core n v) core := by
  unfold sysWrite
  extract_lets c x put
  repeat' apply LandsIn.ite
  any_goals exact .refl ..
  any_goals exact landsIn_dropTlb ..
  all_goals exact landsIn_setCoreOf ..

theorem landsIn_applyUpd (s : State) (core : Nat) (u : Upd) : LandsIn s (applyUpd s core u) core := by
  unfold applyUpd
  cases u <;> dsimp only
  case sys n v => exact landsIn_sysWrite s core n v
  case row r v tag =>
    split
    · exact (landsIn_setCoreOf ..).written ..
    · exact .refl ..
  case spad off n v =>
    exact (landsIn_setCoreOf ..).written ..
  case accAlloc f k => exact (landsIn_setCoreOf ..).written ..
  all_goals exact landsIn_setCoreOf ..


/-- Settles O53: the frame of the state, and of the core in which the result lands. -/
theorem landingFrame : Obligations.LandingFrame := by
  unfold Obligations.LandingFrame
  intro s core u
  have h := landsIn_applyUpd s core u
  have l := landed_applyUpd s core u
  exact ⟨h.mem, h.pits, h.house, h.others, l.mode, l.pc, l.sregs, l.preds, l.kmasks, l.bregs, l.tiles, l.dims, l.ports, l.spad,
    fun hu => ⟨l.rows hu, l.tags hu⟩, l.banks, l.window, l.flights, l.tree, l.pgMem, l.pgCtxs, l.latches, l.others⟩

end Sys2Proof.Machine
end

-- ==== the bundle in issue: O54 ====

section

/-! SUPPORT. What a step does with the bundle that its core has fetched: its slots, its close, and the trap of a word that is no instruction. -/

namespace Sys2Proof.Machine

/-! ### What a step does with the bundle that its core has fetched -/

/-- The same state with the bundle in issue at another slot. -/
def inSlot (s : State) (k : Nat) : State := { s with issue := { s.issue with slot := k } }

theorem step_of_error {s t : State} (hb : booting s = false) (ha : s.agenda = []) (hf : s.focus < 512) (h : prepare s = .error t) :
    step s = .next (useFree t) := by
  have hf : s.focus < Config.cores := hf
  simp [step, runStep, move, ha, coreMove, hb, hf, h]

theorem step_of_issue {s s1 t : State} {slots : List (Nat × Instr)} (hb : booting s = false) (ha : s.agenda = []) (hf : s.focus < 512)
    (hp : prepare s = .ok (s1, slots)) (hr : runSlots slots s1 = .next t) (hl : lateFault t = false) : step s = .next (useFree (close t)) := by
  have hf : s.focus < Config.cores := hf
  simp [step, runStep, move, ha, coreMove, hb, hf, hp, hr, hl]

theorem step_of_lateFault {s s1 t u : State} {slots : List (Nat × Instr)} (hb : booting s = false) (ha : s.agenda = []) (hf : s.focus < 512)
    (hp : prepare s = .ok (s1, slots)) (hr : runSlots slots s1 = .next t) (hl : lateFault t = true)
    (hc : runSlots slots (calm s1) = .next u) : step s = .next (useFree (close (withStalls t u))) := by
  have hf : s.focus < Config.cores := hf
  simp [step, runStep, move, ha, coreMove, hb, hf, hp, hr, hl, hc]

/-! ### The slots of a bundle with one instruction -/

theorem exec_nop (s : State) : exec .nop s = .next s := by
  show perform s (.ok []) = _
  rw [perform_next, settle]
  simp

theorem runSlots_append (a b : List (Nat × Instr)) (s : State) :
    runSlots (a ++ b) s = match runSlots a s with | .next t => runSlots b t | o => o := by
  induction a generalizing s with
  | nil => rfl
  | cons e a ih =>
    simp only [List.cons_append, runSlots]
    cases exec e.2 { s with issue := { s.issue with slot := e.1 } } with
    | next t => exact ih t
    | _ => rfl

/-- NOPs leave nothing but their slot. -/
theorem runSlots_nops (ks : List Nat) (s : State) : ∃ n, runSlots (ks.map fun k => (k, Instr.nop)) s = .next (inSlot s n) := by
  induction ks generalizing s with
  | nil => exact ⟨s.issue.slot, rfl⟩
  | cons k ks ih =>
    obtain ⟨n, hn⟩ := ih (inSlot s k)
    refine ⟨n, ?_⟩
    rw [List.map_cons, runSlots, exec_nop]
    exact hn

/-- One instruction among NOPs runs in its slot, and the bundle ends in some slot. -/
theorem runSlots_lone {ks : List Nat} {k : Nat} {i : Instr} {s t : State} (hd : ks.Nodup) (hk : k ∈ ks) (h : exec i (inSlot s k) = .next t) :
    ∃ n, runSlots (ks.map fun j => (j, if j = k then i else .nop)) s = .next (inSlot t n) := by
  obtain ⟨l, r, rfl⟩ := List.append_of_mem hk
  have hl : l.map (fun j => (j, if j = k then i else Instr.nop)) = l.map fun j => (j, Instr.nop) := by
    refine List.map_congr_left fun j hj => ?_
    rw [if_neg]
    rintro rfl
    exact (List.nodup_append.1 hd).2.2 j hj j (by simp) rfl
  have hr : r.map (fun j => (j, if j = k then i else Instr.nop)) = r.map fun j => (j, Instr.nop) := by
    refine List.map_congr_left fun j hj => ?_
    rw [if_neg]
    rintro rfl
    exact (List.nodup_cons.1 (List.nodup_append.1 hd).2.1).1 hj
  obtain ⟨m, hm⟩ := runSlots_nops l s
  obtain ⟨n, hn⟩ := runSlots_nops r t
  refine ⟨n, ?_⟩
  rw [List.map_append, List.map_cons, hl, hr, runSlots_append, hm, if_pos rfl]
  simp only [runSlots]
  rw [show { inSlot s m with issue := { (inSlot s m).issue with slot := k } } = inSlot s k from rfl, h]
  exact hn

/-! ### The close of a bundle does not look at the slot it ended in -/

theorem stopsOf_inSlot (s : State) (n : Nat) : stopsOf (inSlot s n) = stopsOf s := rfl

theorem lateFault_inSlot (s : State) (n : Nat) : lateFault (inSlot s n) = lateFault s := rfl

theorem physRead_inSlot (s : State) (k pa n : Nat) : physRead (inSlot s k) pa n = physRead s pa n := by
  induction n generalizing pa with
  | zero => rfl
  | succ n ih => exact congrArg (physByte s pa :: ·) (ih (pa + 1))

theorem dieRead_inSlot (s : State) (k die pa n : Nat) : dieRead (inSlot s k) die pa n = dieRead s die pa n := by
  simp only [dieRead, physRead_inSlot]
  rfl

theorem walk_inSlot (s : State) (k die : Nat) (inst : Bool) (va fuel lvl table : Nat) :
    walk (inSlot s k) die inst va fuel lvl table = walk s die inst va fuel lvl table := by
  induction fuel generalizing lvl table with
  | zero => rfl
  | succ fuel ih => simp only [walk, dieRead_inSlot, ih]

theorem fetchBundle_inSlot (s : State) (k core : Nat) : fetchBundle (inSlot s k) core = fetchBundle s core := by
  have hleaf (inst : Bool) (root va : Nat) : findLeaf (inSlot s k) core inst root va = findLeaf s core inst root va := by
    simp only [findLeaf, walkedLeaf, walk_inSlot]
    rfl
  have hx (mode : Mode) (root va : Nat) : xlateInst (inSlot s k) core mode root va = xlateInst s core mode root va := by
    simp only [xlateInst, hleaf]
    rfl
  have hw (pa : Nat) : fetchWords (inSlot s k) pa = fetchWords s pa := by
    simp only [fetchWords, physRead_inSlot]
    rfl
  simp only [fetchBundle, hx, hw]
  rfl

theorem onWaived_inSlot (s : State) (n core : Nat) : onWaived (inSlot s n) core = onWaived s core := by
  rw [onWaived, fetchBundle_inSlot, onWaived]

theorem commit_inSlot (s : State) (n : Nat) : commit (inSlot s n) = commit s := by
  have h := onWaived_inSlot s n s.focus
  unfold commit
  rw [show (inSlot s n).focus = s.focus from rfl]
  simp only [h]
  rfl

theorem close_inSlot (s : State) (n : Nat) : close (inSlot s n) = close s := by
  unfold close
  rw [stopsOf_inSlot, commit_inSlot]
  rfl

theorem withStalls_inSlot (s u : State) (n m : Nat) : withStalls (inSlot s n) (inSlot u m) = inSlot (withStalls s u) n := rfl

theorem calm_inSlot (s : State) (n : Nat) : calm (inSlot s n) = inSlot (calm s) n := rfl

/-! ### The bundle fetched -/

theorem decodeSlot_zero (q : SlotKind) : decodeSlot q 0 = .ok .nop := by cases q <;> rfl

/-- A bundle with one word that decodes. -/
theorem decodeWords_lone {x : Ctxt} {wv : Bool} {k w : Nat} {i : Instr} (hd : decodeSlot (slotKindOf k) w = .ok i)
    (hi : (wv && waivedIllegal x i) = false) (hn : (wv && waivedIllegal x .nop) = false) (a m : Nat) :
    decodeWords x wv a ((List.range' a m).map fun j => if j = k then w else 0) =
      ((List.range' a m).map fun j => (j, if j = k then i else .nop), []) := by
  induction m generalizing a with
  | zero => rfl
  | succ m ih =>
    simp only [List.range'_succ, List.map_cons, decodeWords, ih]
    by_cases h : a = k
    · subst h; simp [hd, hi]
    · simp [h, decodeSlot_zero, hn]

/-- A bundle with one word that decodes to no instruction. -/
theorem decodeWords_lone_error {x : Ctxt} {wv : Bool} {k w : Nat} {r : DecodeError} (hd : decodeSlot (slotKindOf k) w = .error r)
    (hn : (wv && waivedIllegal x .nop) = false) (a m : Nat) :
    decodeWords x wv a ((List.range' a m).map fun j => if j = k then w else 0) =
      (((List.range' a m).filter (· != k)).map fun j => (j, .nop),
        if k ∈ List.range' a m then [(k, .fault ⟨1, BitVec.ofNat 64 k, none⟩)] else []) := by
  induction m generalizing a with
  | zero => rfl
  | succ m ih =>
    simp only [List.range'_succ, List.map_cons, decodeWords, ih]
    by_cases h : a = k
    · subst h; simp [hd]
    · simp [h, Ne.symm h, decodeSlot_zero, hn]

/-- A core that waits no more. -/
def woken (s : State) : State := setCur s { cur s with ctx := { (cur s).ctx with wait := none } }

theorem wakeUp_of_no_wait {s : State} (hw : (cur s).ctx.wait = none) : wakeUp s s.focus = woken s :=
  if_neg (by
    show ¬ ((cur s).ctx.wait.isSome = true)
    rw [hw]
    decide)

/-- The state in which a fetched bundle stands in issue, at a slot, with the stops of its words. -/
def issuing (s : State) (e : TlbEnt) (ws : List Nat) (k : Nat) (stops : List (Nat × Stop)) : State :=
  { tlbFill (woken s) s.focus true e with issue := ⟨k, ws, [], stops⟩ }

/-- What a core that may go on prepares: the bundle that it fetches, decoded. -/
theorem prepare_fetched {s : State} {e : TlbEnt} {ws : List Nat} {wv : Bool} (hr : (cur s).status = .running) (hs : (cur s).debugStop = false)
    (ho : (cur s).ctx.owed = 0) (hd : (cur s).ctx.draining = none) (hb : boundaryTrap s s.focus = none)
    (hw : (cur s).ctx.wait = none) (hc : (cur s).icache.contains (icacheKey (cur s).ctx) = true)
    (hf : fetchBundle (woken s) s.focus = .ok (e, ws, wv)) :
    prepare s = .ok (issuing s e ws 0 (decodeWords (cur s).ctx wv 0 ws).2, (decodeWords (cur s).ctx wv 0 ws).1) := by
  unfold prepare
  extract_lets core c x s1
  have hs1 : s1 = woken s := wakeUp_of_no_wait hw
  have hr : c.status = .running := hr
  have hs : c.debugStop = false := hs
  have ho : x.owed = 0 := ho
  have hd : x.draining = none := hd
  have hw : x.wait = none := hw
  have hc : c.icache.contains (icacheKey x) = true := hc
  rw [← hs1] at hf
  rw [if_neg (by simp [hs, hr]), if_neg (by simp [hr]), if_neg (by simp [ho]), hd, hb, hw, hf]
  simp only [Option.filter_none, Bool.false_eq_true, if_false, hc, Bool.not_true]
  rw [hs1]
  rfl

/-- A bundle with one instruction runs it in its slot, and closes. -/
theorem step_lone {s t : State} {e : TlbEnt} {k w : Nat} {i : Instr} (hb : booting s = false) (ha : s.agenda = []) (hf : s.focus < 512)
    (hk : k < 8) (hp : prepare s = .ok (issuing s e ((List.range 8).map fun j => if j = k then w else 0) 0 [],
      (List.range 8).map fun j => (j, if j = k then i else .nop)))
    (ht : exec i (issuing s e ((List.range 8).map fun j => if j = k then w else 0) k []) = .next t) :
    (lateFault t = false → step s = .next (useFree (close t))) ∧
    (∀ u, lateFault t = true → exec i (calm (issuing s e ((List.range 8).map fun j => if j = k then w else 0) k [])) = .next u →
      step s = .next (useFree (close (withStalls t u)))) := by
  obtain ⟨n, hn⟩ := runSlots_lone List.nodup_range (List.mem_range.2 hk) (s := issuing s e _ 0 []) ht
  refine ⟨fun hl => ?_, fun u hl hu => ?_⟩
  · rw [step_of_issue hb ha hf hp hn hl, close_inSlot]
  · obtain ⟨m, hm⟩ := runSlots_lone List.nodup_range (List.mem_range.2 hk) (s := calm (issuing s e _ 0 [])) hu
    rw [step_of_lateFault hb ha hf hp hn hl hm, withStalls_inSlot, close_inSlot]

/-! ### What a fetch and a trap leave -/

/-- A state that differs in the house die, though not in the cores that it enables. -/
def HouseDiffers (s t : State) : Prop := ∃ h, t = { s with house := h } ∧ h.enables = s.house.enables

theorem HouseDiffers.refl (s : State) : HouseDiffers s s := ⟨s.house, rfl, rfl⟩

theorem HouseDiffers.foldl {α : Type} {f : State → α → State} (hf : ∀ s a, HouseDiffers s (f s a)) {s t : State} (h : HouseDiffers s t) (l : List α) :
    HouseDiffers s (l.foldl f t) := by
  induction l generalizing t with
  | nil => exact h
  | cons a l ih =>
    obtain ⟨h1, rfl, e1⟩ := h
    obtain ⟨h2, e, e2⟩ := hf { s with house := h1 } a
    exact ih ⟨h2, e, e2.trans e1⟩

theorem houseDiffers_noteRead (s : State) (pa : Nat) : HouseDiffers s (noteRead s pa) := by
  unfold noteRead
  split
  · exact ⟨_, rfl, rfl⟩
  · split
    · exact ⟨_, rfl, rfl⟩
    · exact .refl s

theorem houseDiffers_errorMet (s : State) (pa : Nat) : HouseDiffers s (errorMet s pa) := by
  unfold errorMet
  split
  · exact .refl s
  · split
    · unfold unitMet
      extract_lets same t
      split
      · exact .refl s
      · split <;> exact ⟨_, rfl, rfl⟩
    · exact .refl s

/-- What a read leaves beside its bytes stands in the house die alone (R9, R372). -/
theorem houseDiffers_noteMet (s : State) (ps : List (Nat × Nat)) : HouseDiffers s (noteMet s ps) :=
  ((HouseDiffers.refl s).foldl (fun s (p : Nat × Nat) => houseDiffers_noteRead s p.1) ps).foldl houseDiffers_errorMet _

/-- A translation learnt changes the core's and the die's TLB, and the house die by what the walk met (R358, R372). -/
theorem tlbFill_frame (s : State) (core : Nat) (e : TlbEnt) : ∃ h ds, h.enables = s.house.enables ∧ tlbFill s core true e =
    { setCoreOf s core { coreOf s core with itlb := tlbAdd 32 (coreOf s core).itlb e } with house := h, dies := ds } := by
  obtain ⟨h, hw, he⟩ := houseDiffers_noteMet s (walkNotes s core true e.root e.vbase)
  have hw : walkMet s core true e.root e.vbase = { s with house := h } := hw
  unfold tlbFill
  rw [hw]
  exact ⟨h, _, he, rfl⟩

/-- The CAUSE of a trap (R348, R350). -/
def causeOf (m : Mode) (code : Nat) : Word :=
  (if m = .stageManager then BitVec.ofNat 64 (2 ^ 63) else 0) ||| BitVec.ofNat 64 (2 ^ 62) ||| BitVec.ofNat 64 code

/-- A trap that a handler takes: the core goes on there, and its registers and storage are as they were. -/
theorem trapOn_taken {s : State} {core : Nat} (f : Word) (t : Trap) (hl : live (coreOf s core).ctx = false) (hv : (coreOf s core).tvec ≠ 0)
    (ha : (coreOf s core).tvec.toNat % 32 = 0) :
    ∃ c, trapOn s core f t = setCoreOf (setCoreOf s core { dropVerdict (coreOf s core) with ctx := { (coreOf s core).ctx with spent := 0 } }) core c ∧
      c.spad = (coreOf s core).spad ∧ c.ctx.cause = causeOf (coreOf s core).ctx.mode t.code ∧ c.ctx.faultinfo = t.info ∧ c.ctx.faultpc = f ∧
      c.ctx.pc = (coreOf s core).tvec ∧ c.ctx.sregs = (coreOf s core).ctx.sregs := by
  unfold trapOn takeTrap
  simp only [coreOf_setCoreOf_same]
  rw [if_neg]
  · exact ⟨_, rfl, rfl, rfl, rfl, rfl, rfl, rfl⟩
  · show ¬ ((live (coreOf s core).ctx || (coreOf s core).tvec = 0#64 || (coreOf s core).tvec.toNat % 32 ≠ 0) = true)
    simpa [hl, ha] using hv

/-- A handler's bit is set, and the cause stands in the low byte. -/
theorem causeOf_fields (m : Mode) : (causeOf m 1).toNat % 256 = 1 ∧ (causeOf m 1).getLsbD 62 = true := by
  cases m <;> decide

/-- The bundle in issue changes of its core the instruction TLB and the wait. -/
theorem issuing_core (s : State) (e : TlbEnt) (ws : List Nat) (k : Nat) (stops : List (Nat × Stop)) :
    coreOf (issuing s e ws k stops) s.focus =
      { cur s with itlb := tlbAdd 32 (cur s).itlb e, ctx := { (cur s).ctx with wait := none } } ∧
    (∀ n, n ≠ s.focus → coreOf (issuing s e ws k stops) n = coreOf s n) := by
  obtain ⟨h, ds, -, ht⟩ := tlbFill_frame (woken s) s.focus e
  rw [issuing, ht, woken, setCur, coreOf_setCoreOf_same]
  exact ⟨coreOf_setCoreOf_same .., fun n hn => (coreOf_setCoreOf_other _ _ hn).trans (coreOf_setCoreOf_other _ _ hn)⟩

theorem issuing_state (s : State) (e : TlbEnt) (ws : List Nat) (k : Nat) (stops : List (Nat × Stop)) :
    (issuing s e ws k stops).mem = s.mem ∧ (issuing s e ws k stops).pits = s.pits ∧ (issuing s e ws k stops).focus = s.focus ∧
      (issuing s e ws k stops).house.enables = s.house.enables := by
  obtain ⟨h, ds, he, ht⟩ := tlbFill_frame (woken s) s.focus e
  rw [issuing, ht]
  exact ⟨rfl, rfl, rfl, he⟩

/-- An undecodable word stops its bundle before every stall, and a handler takes the trap at the bundle (R57, R58). -/
theorem close_illegal {s : State} {k : Nat} (h : s.issue.stops = [(k, .fault ⟨1, BitVec.ofNat 64 k, none⟩)]) (hl : live (ctx s) = false)
    (hv : (cur s).tvec ≠ 0) (ha : (cur s).tvec.toNat % 32 = 0) :
    lateFault s = false ∧ (close s).mem = s.mem ∧ (cur (close s)).spad = (cur s).spad ∧ (ctx (close s)).cause = causeOf (ctx s).mode 1 ∧
      (ctx (close s)).faultinfo = BitVec.ofNat 64 k ∧ (ctx (close s)).faultpc = (ctx s).pc ∧ (ctx (close s)).pc = (cur s).tvec ∧
      (ctx (close s)).sregs = (ctx s).sregs := by
  have hs : stopsOf s = [(k, .fault ⟨1, BitVec.ofNat 64 k, none⟩)] := by
    rw [stopsOf, h]
    simp [undueUnbound, Stop.trap]
  have hc : close s = trapOn { s with issue := ⟨0, [], [], []⟩ } s.focus (ctx s).pc ⟨1, BitVec.ofNat 64 k, none⟩ := by
    unfold close
    rw [hs]
    rfl
  have hlate : lateFault s = false := by
    rw [lateFault, hs]
    rfl
  obtain ⟨c, hy, hspad, hcause, hinfo, hfpc, hpc, hsregs⟩ := trapOn_taken (s := { s with issue := ⟨0, [], [], []⟩ }) (core := s.focus) (ctx s).pc
    ⟨1, BitVec.ofNat 64 k, none⟩ hl hv ha
  have hcur : cur (close s) = c := by
    rw [hc, hy]
    exact coreOf_setCoreOf_same ..
  refine ⟨hlate, by rw [hc, hy]; rfl, ?_⟩
  rw [ctx, hcur]
  exact ⟨hspad, hcause, hinfo, hfpc, hpc, hsregs⟩

/-- Settles O54: NOPs leave nothing but their slot, which the close of a bundle does not look at. -/
theorem stepRunsDecodedBundle : Obligations.StepRunsDecodedBundle := by
  unfold Obligations.StepRunsDecodedBundle
  intro s hb ha hf
  refine ⟨fun s1 slots t hp hr => ⟨step_of_issue hb ha hf hp hr, fun u => step_of_lateFault hb ha hf hp hr⟩, fun t => step_of_error hb ha hf, ?_, ?_⟩
  · intro e wv k w i t c wk ws issued hr hs he ho hd hbt hw hc hfe hk _ hdec hwi hwn ht
    have hp := prepare_fetched hr hs ho hd hbt hw hc hfe
    have hdw := decodeWords_lone hdec hwi hwn 0 8
    rw [← List.range_eq_range'] at hdw
    rw [hdw] at hp
    exact step_lone hb ha hf hk hp ht
  · intro e wv k w r c wk hr hs he ho hd hbt hw hc hfe hk hdec hwn hlive hv hal
    have hp := prepare_fetched hr hs ho hd hbt hw hc hfe
    have hdw := decodeWords_lone_error hdec hwn 0 8
    rw [← List.range_eq_range'] at hdw
    rw [hdw, if_pos (List.mem_range.2 hk)] at hp
    generalize (List.range 8).map (fun j => if j = k then w else 0) = ws at hp
    generalize hσ : issuing s e ws 0 [(k, .fault ⟨1, BitVec.ofNat 64 k, none⟩)] = σ at hp
    obtain ⟨n, hn⟩ := runSlots_nops ((List.range 8).filter (· != k)) σ
    obtain ⟨hcore, -⟩ := issuing_core s e ws 0 [(k, .fault ⟨1, BitVec.ofNat 64 k, none⟩)]
    obtain ⟨hm, -, hfocus, -⟩ := issuing_state s e ws 0 [(k, .fault ⟨1, BitVec.ofNat 64 k, none⟩)]
    rw [hσ] at hcore hm hfocus
    have hcur : cur σ = _ := (congrArg (coreOf σ) hfocus).trans hcore
    obtain ⟨hlate, hmem, hspad, hcause, hinfo, hfpc, hpc, hsregs⟩ := close_illegal (s := σ) (k := k) (by rw [← hσ]; rfl)
      (by rw [ctx, hcur]; exact hlive) (by rw [hcur]; exact hv) (by rw [hcur]; exact hal)
    refine ⟨useFree (close σ), ?_, ?_⟩
    · rw [step_of_issue hb ha hf hp hn hlate, close_inSlot]
    · have hctx : ctx σ = { (cur s).ctx with wait := none } := congrArg Core.ctx hcur
      rw [hctx] at hcause hfpc hsregs
      rw [hcur] at hspad hpc
      obtain ⟨h1, h62⟩ := causeOf_fields (cur s).ctx.mode
      exact ⟨(congrArg (·.toNat % 256) hcause).trans h1, hinfo, hfpc, hpc, (congrArg (·.getLsbD 62) hcause).trans h62, hsregs, hspad, hmem.trans hm⟩

end Sys2Proof.Machine
end

-- ==== one step over a bundle with ADD: O55 ====

section

/-! SUPPORT. The prepared bundle read back, the moves that change one core, and the issue of a bundle with one scalar result. -/

namespace Sys2Proof.Machine

/-! ### The bundle that a core has prepared -/

/-- A prepared bundle has been fetched, and its words decoded. -/
theorem prepare_ok {s s1 : State} {slots : List (Nat × Instr)} (hw : (ctx s).wait = none) (h : prepare s = .ok (s1, slots)) :
    ∃ e ws wv, s1 = issuing s e ws 0 (decodeWords (ctx s) wv 0 ws).2 ∧ slots = (decodeWords (ctx s) wv 0 ws).1 := by
  have hwake : wakeUp s s.focus = woken s := wakeUp_of_no_wait hw
  unfold prepare at h
  extract_lets core c x s2 at h
  have hs2 : s2 = woken s := hwake
  split at h
  · cases h
  split at h
  · cases h
  split at h
  · cases h
  split at h
  · cases h
  split at h
  · cases h
  simp only [show x.wait = none from hw, Bool.false_eq_true, if_false] at h
  split at h
  · cases h
  rename_i f _
  split at h
  · cases h
  cases h
  exact ⟨f.1, f.2.1, f.2.2, by rw [hs2]; rfl, rfl⟩

/-- The delay bundles of a bundle are those of its first instruction. -/
theorem hasDelays_of_decodeWords {x : Ctxt} {wv : Bool} {ws : List Nat} {i : Instr} {r : List (Nat × Instr)}
    (h : (decodeWords x wv 0 ws).1 = (0, i) :: r) (hs : (decodeWords x wv 0 ws).2 = []) : hasDelays ws = i.info.delays := by
  cases ws with
  | nil => cases h
  | cons w ws =>
    unfold decodeWords at h hs
    unfold hasDelays
    rw [List.getD_cons_zero]
    cases hd : decodeSlot (slotKindOf 0) w with
    | error e => simp [hd] at hs
    | ok j =>
      simp only [hd] at h hs
      rw [show decodeSlot .c w = .ok j from hd]
      split at h
      · rw [if_pos ‹_›] at hs
        cases hs
      · cases h
        rfl

/-! ### A move that changes one core -/

/-- A state that differs in one core, which stands at a value. -/
structure OnlyCore (s t : State) (core : Nat) (c : Core) : Prop where
  mem : t.mem = s.mem
  house : t.house = s.house
  pits : t.pits = s.pits
  focus : t.focus = s.focus
  others : ∀ n, n ≠ core → coreOf t n = coreOf s n
  same : coreOf t core = c

theorem OnlyCore.set {s t : State} {core : Nat} {c : Core} (h : OnlyCore s t core c) (c' : Core) : OnlyCore s (setCoreOf t core c') core c' :=
  ⟨h.mem, h.house, h.pits, h.focus, fun n hn => (coreOf_setCoreOf_other _ _ hn).trans (h.others n hn), coreOf_setCoreOf_same ..⟩

theorem OnlyCore.noteEvent {s t : State} {core : Nat} {c : Core} (h : OnlyCore s t core c) (code : Nat) :
    ∃ ev, OnlyCore s (noteEvent t core code) core { c with evcnt := ev } := by
  rw [← h.same]
  exact ⟨_, h.set _⟩

/-- Whether two cores work together depends on their DUETCTL and on whether they are enabled (R218). -/
theorem duetPartner_congr {s t : State} (core : Nat) (hd : ∀ n, (coreOf t n).duetctl = (coreOf s n).duetctl)
    (he : t.house.enables = s.house.enables) : duetPartner t core = duetPartner s core := by
  unfold duetPartner coreUsable enabled
  simp only [hd, he]

theorem nopreExpire_eq (x : Ctxt) : ∃ np st, nopreExpire x = { x with nopre := np, sticky := st } := by
  unfold nopreExpire
  split
  · split <;> exact ⟨_, _, rfl⟩
  · exact ⟨_, _, rfl⟩

/-- A cycle of a core that works alone. -/
theorem OnlyCore.ticks {s t : State} {core : Nat} {c : Core} (h : OnlyCore s t core c) (hp : duetPartner s core = none)
    (hc : c.duetctl = (coreOf s core).duetctl) (n : Nat) :
    ∃ cy np st, OnlyCore s (ticks t core n) core { c with cycles := cy, ctx := { c.ctx with nopre := np, sticky := st } } := by
  have hd (c' : Core) (hc' : c'.duetctl = (coreOf s core).duetctl) : OnlyCore s (duetTick (setCoreOf t core c') core) core c' := by
    have hn : duetPartner (setCoreOf t core c') core = none := by
      rw [← hp]
      refine duetPartner_congr core (fun k => ?_) (congrArg House.enables h.house)
      by_cases hk : k = core
      · rw [hk, coreOf_setCoreOf_same, hc']
      · rw [coreOf_setCoreOf_other _ _ hk, h.others k hk]
    rw [duetTick, hn]
    exact h.set c'
  have hx : ∃ np st, (if c.status = .idle then c.ctx else nopreExpire { c.ctx with nopre := c.ctx.nopre.map (· + n) }) =
      { c.ctx with nopre := np, sticky := st } := by
    split
    · exact ⟨_, _, rfl⟩
    · obtain ⟨np, st, e⟩ := nopreExpire_eq { c.ctx with nopre := c.ctx.nopre.map (· + n) }
      exact ⟨np, st, e⟩
  obtain ⟨np, st, e⟩ := hx
  refine ⟨(c.cycles + n) % 2 ^ 64, np, st, ?_⟩
  rw [Sys2Proof.Machine.ticks, h.same, e]
  exact hd _ hc

/-- A scalar result lands in its register, with its flags (R43, R89). -/
theorem OnlyCore.landOne {s t : State} {core : Nat} {c : Core} (h : OnlyCore s t core c) (n o d : Nat) (v f : Word) :
    ∃ st, OnlyCore s (landOne core t ⟨n, o, some (.sreg d v), none, f, false⟩) core { c with ctx := setSreg { c.ctx with sticky := st } d v } := by
  refine ⟨stickySet c.ctx.sticky f, ?_⟩
  rw [Sys2Proof.Machine.landOne, h.same]
  show OnlyCore s (applyUpd _ core (.sreg d v)) core _
  rw [applyUpd, coreOf_setCoreOf_same]
  exact (h.set _).set _

/-- The one result in flight is due at the boundary (R43). -/
theorem pipeStep_due {s : State} {core : Nat} {fl : Flight} (hi : (coreOf s core).ctx.inflight = [fl]) (hl : fl.left = 1) (hb : fl.byp = none) :
    pipeStep s core =
      landOne core (setCoreOf s core { coreOf s core with ctx := { (coreOf s core).ctx with inflight := [], fresh := 0 } }) fl := by
  obtain ⟨n, o, u, b, f, a⟩ := fl
  obtain rfl : n = 1 := hl
  obtain rfl : b = none := hb
  simp only [pipeStep, hi]
  rfl

theorem OnlyCore.pipeStep {s t : State} {core : Nat} {c : Core} (h : OnlyCore s t core c) {d o : Nat} {v f : Word}
    (hi : c.ctx.inflight = [⟨1, o, some (.sreg d v), none, f, false⟩]) :
    ∃ st, OnlyCore s (pipeStep t core) core { c with ctx := setSreg { c.ctx with inflight := [], fresh := 0, sticky := st } d v } := by
  rw [pipeStep_due (by rw [h.same, hi]) rfl rfl, h.same]
  obtain ⟨st, h'⟩ := (h.set { c with ctx := { c.ctx with inflight := [], fresh := 0 } }).landOne 1 o d v f
  exact ⟨st, h'⟩

/-- A bundle without a transfer, at which no branch is pending, is followed by the next one (R105). -/
theorem nextPc_next {x : Ctxt} (h : x.delay = none) : nextPc x none false = (x.pc + 32#64, none, x.shadow - 1, false) := by
  unfold nextPc
  rw [h]
  rfl

/-- What ADD leaves in the bundle in issue. -/
theorem exec_add_ready {s : State} {d a b : Nat} (ha : regReady s a = true) (hb : regReady s b = true) (hd : regFree s d = true) :
    exec (.add d a b) s = .next (noted s (landB d (regVal s a + regVal s b))) := by
  show perform s (aluRR s d a b fun x y => x + y) = _
  rw [aluRR_ready ha hb hd]
  rfl

/-- A bundle issues whose one effect is a scalar result that its broadcast shows. -/
theorem commit_landB {s : State} {c : Core} {k d : Nat} {v : Word} (hes : s.issue.effs = (landB d v).map fun e => (k, e))
    (hdel : hasDelays s.issue.words = false) (hcore : coreOf s s.focus = c) (hinf : c.ctx.inflight = []) (hdelay : c.ctx.delay = none)
    (hp : duetPartner s s.focus = none) :
    ∃ c', OnlyCore s (commit s) s.focus c' ∧ c'.spad = c.spad ∧ c'.ctx.inflight = [] ∧ c'.ctx.pc = c.ctx.pc + 32#64 ∧ c'.ctx.preds = c.ctx.preds ∧
      c'.ctx.mode = c.ctx.mode ∧ ∀ n, sregOf c'.ctx n = if n = d ∧ n ≠ 0 then v else sregOf c.ctx n := by
  unfold commit
  extract_lets core es x0 f ct nx s1 s2 s3 s4 k4 y4 x4 b4 s5 s6
  have hes : es = [(k, .bcast v), (k, .land 1 (some (.sreg d v)) none 0)] := hes
  have hx0 : x0 = c.ctx := congrArg Core.ctx hcore
  have hct : ct = none := by show ctlOf es = none; rw [hes]; rfl
  have hnx : nx = (c.ctx.pc + 32#64, none, c.ctx.shadow - 1, false) := by
    show nextPc x0 ct (hasDelays s.issue.words) = _
    rw [hct, hdel, hx0, nextPc_next hdelay]
  have hnw : wantsArray es = false := by rw [hes]; rfl
  have h1 : OnlyCore s s1 core c := ⟨rfl, rfl, rfl, rfl, fun _ _ => rfl, hcore⟩
  obtain ⟨ev, h2⟩ : ∃ ev, OnlyCore s s2 core { c with evcnt := ev } := by
    show ∃ ev, OnlyCore s (noteEvent (if onWaived s core then noteEvent s1 core 7 else s1) core 1) core { c with evcnt := ev }
    split
    · obtain ⟨ev, h⟩ := h1.noteEvent 7
      exact h.noteEvent 1
    · exact h1.noteEvent 1
  have h3 : OnlyCore s s3 core (addFlight (dropVerdict { c with evcnt := ev }) 1 (some (.sreg d v)) none 0 false) := by
    show OnlyCore s (es.foldl (applyEff core) (setCoreOf s2 core (dropVerdict (coreOf s2 core)))) core _
    rw [hes, h2.same]
    show OnlyCore s (setCoreOf _ core (addFlight (coreOf (setCoreOf s2 core _) core) _ _ _ _ _)) core _
    rw [coreOf_setCoreOf_same]
    exact (h2.set _).set _
  have h4 : OnlyCore s s4 core (addFlight (dropVerdict { c with evcnt := ev }) 1 (some (.sreg d v)) none 0 false) := by
    have : actsOf es = [] := by rw [hes]; rfl
    show OnlyCore s ((actsOf es).foldl _ s3) core _
    rw [this]
    exact h3
  have hk4 : k4 = addFlight (dropVerdict { c with evcnt := ev }) 1 (some (.sreg d v)) none 0 false := h4.same
  have h5 : OnlyCore s s5 core { nextBlock k4 with ctx := x4 } := by
    have : (nx.2.2.2 || setsWindow es) = false := by rw [hnx, hes]; rfl
    show OnlyCore s (setCoreOf s4 core { nextBlock k4 with ctx := if nx.2.2.2 || setsWindow es then groupSwitch x4 else x4 }) core _
    rw [this, if_neg Bool.false_ne_true]
    exact h4.set _
  obtain ⟨cy, np, st, h6⟩ := h5.ticks hp (by show k4.duetctl = _; rw [hk4, hcore]; rfl) 1
  obtain ⟨st', h7⟩ := h6.pipeStep (d := d) (v := v) (f := 0) (o := c.nextOrd) (by
    show k4.ctx.inflight = _
    rw [hk4]
    show c.ctx.inflight ++ _ = _
    rw [hinf]
    rfl)
  have hs6 : s6 = pipeStep (ticks s5 core 1) core := by
    show control _ core f ct = _
    rw [hct]
    rfl
  rw [hnw, Bool.false_and, if_neg Bool.false_ne_true, hs6]
  refine ⟨_, h7, (congrArg Core.spad hk4 : k4.spad = _), setSreg_inflight .., (setSreg_pc ..).trans (congrArg (·.1) hnx),
    (setSreg_preds ..).trans (congrArg (fun y : Core => y.ctx.preds) hk4 :), (setSreg_mode ..).trans (congrArg (fun y : Core => y.ctx.mode) hk4 :),
    fun n => (sregOf_setSreg ..).trans ?_⟩
  have hs : sregOf k4.ctx n = sregOf c.ctx n := (congrArg (fun y : Core => sregOf y.ctx n) hk4 :)
  exact if_congr Iff.rfl rfl hs

/-- A bundle in which no slot stops issues. -/
theorem close_of_no_stops {s : State} (h : s.issue.stops = []) : lateFault s = false ∧ close s = commit s := by
  have hs : stopsOf s = [] := by rw [stopsOf, h]; rfl
  constructor
  · rw [lateFault, hs]
    rfl
  · unfold close
    rw [hs]
    rfl

/-- Settles O55: the bundle runs, closes without a stop and issues; its one result is due at its own boundary. -/
theorem addBundleStep : Obligations.AddBundleStep := by
  unfold Obligations.AddBundleStep
  intro s s1 d a b hbt hag hf hp hst ha hb hd hinf hdelay hw hduet
  obtain ⟨e, ws, wv, hs1, hslots⟩ := prepare_ok hw hp
  obtain ⟨hcore, hothers⟩ := issuing_core s e ws 0 (decodeWords (ctx s) wv 0 ws).2
  obtain ⟨hmem, hpits, hfocus, hen⟩ := issuing_state s e ws 0 (decodeWords (ctx s) wv 0 ws).2
  rw [← hs1] at hcore hothers hmem hpits hfocus hen
  have hstops : (decodeWords (ctx s) wv 0 ws).2 = [] := by rw [← hst, hs1]; rfl
  have hdel : hasDelays s1.issue.words = false := by
    rw [hs1]
    exact hasDelays_of_decodeWords (i := .nop) hslots.symm hstops
  have hcur : cur s1 = _ := (congrArg (coreOf s1) hfocus).trans hcore
  have hctx : ctx s1 = { ctx s with wait := none } := congrArg Core.ctx hcur
  have hfree (n : Nat) : regFree (inSlot s1 1) n = regFree s n := by
    show (!busyReg (cur s1) n && (regErrOf (ctx s1) n).isNone) = _
    rw [hcur, hctx]
    rfl
  have hready (n : Nat) : regReady (inSlot s1 1) n = regReady s n := by
    show (regFree (inSlot s1 1) n && !pendingOn (ctx s1) (landsSreg n)) = _
    rw [hfree, hctx]
    rfl
  have hval (n : Nat) : regVal (inSlot s1 1) n = regVal s n := by
    show sregOf (ctx s1) n = _
    rw [hctx]
    rfl
  have hexec := exec_add_ready (s := inSlot s1 1) (d := d) (a := a) (b := b) (by rw [hready, ha]) (by rw [hready, hb]) (by rw [hfree, hd])
  rw [hval, hval] at hexec
  obtain ⟨n, hrun⟩ := runSlots_lone List.nodup_range (List.mem_range.2 (by decide : 1 < 8)) hexec
  generalize ht : noted (inSlot s1 1) (landB d (regVal s a + regVal s b)) = t at hrun
  have htc (k : Nat) : coreOf t k = coreOf s1 k := by rw [← ht]; rfl
  have hte : t.issue.effs = (landB d (regVal s a + regVal s b)).map fun e => (1, e) := by rw [← ht, hs1]; rfl
  obtain ⟨hlate, hclose⟩ := close_of_no_stops (s := t) (by rw [← ht]; exact hst)
  have htf : t.focus = s.focus := by rw [← ht]; exact hfocus
  have htcur : coreOf t t.focus = cur s1 := by rw [htf, htc, hcur, hcore]
  have hduett : duetPartner t t.focus = none := by
    rw [htf, ← hduet]
    refine duetPartner_congr _ (fun k => ?_) (by rw [← ht]; exact hen)
    rw [htc]
    by_cases hk : k = s.focus
    · rw [hk, hcore]
      rfl
    · rw [hothers k hk]
  obtain ⟨c, hc, hspad, hin, hpc, hpreds, hmode, hsregs⟩ := commit_landB (c := cur s1) hte (by rw [← ht]; exact hdel) htcur
    (by rw [← ctx, hctx]; exact hinf) (by rw [← ctx, hctx]; exact hdelay) hduett
  rw [← ctx, hctx] at hpc hpreds hmode hsregs
  rw [hcur] at hspad
  rw [htf] at hc
  have hcurt : cur (useFree (commit t)) = c := by
    show coreOf (commit t) (commit t).focus = _
    rw [hc.focus, htf, hc.same]
  refine ⟨useFree (commit t), ?_, ?_, ?_, ?_, fun k hk => ?_, ?_, ?_⟩
  · rw [step_of_issue hbt hag hf hp hrun hlate, close_inSlot, hclose]
  · exact (hc.mem.trans (by rw [← ht]; rfl)).trans hmem
  · exact hc.house.trans (by rw [← ht]; rfl)
  · exact (hc.pits.trans (by rw [← ht]; rfl)).trans hpits
  · exact (hc.others k hk).trans ((htc k).trans (hothers k hk))
  · exact hc.focus.trans htf
  · rw [ctx, hcurt]
    exact ⟨hpc, hpreds, hmode, hspad, hin, hsregs⟩

end Sys2Proof.Machine
end

-- ==== core events and the counting pass ====

section

/-! SUPPORT. What the events of a core that are no engine's do to it: landing, timeouts, traps, marks, and the pass of the state counters. -/

namespace Sys2Proof.Machine

/-! ### Events of a core -/

theorem emptyStep_eq (s : State) (core : Nat) :
    emptyStep s core = if drains (coreOf s core) = true ∧ (coreOf s core).ctx.inflight ≠ [] then pipeStep s core else s := by
  unfold emptyStep
  extract_lets c
  have h : (drains c && !c.ctx.inflight.isEmpty) = true ↔ drains c = true ∧ c.ctx.inflight ≠ [] := by simp
  simp only [h, c]

theorem nopreExpire_some {x : Ctxt} {n : Nat} (h : x.nopre = some n) :
    nopreExpire x = if Config.nopreLimit ≤ n then { x with nopre := none, sticky := stickySet x.sticky flagNopreOver } else x := by
  unfold nopreExpire
  simp only [h]

theorem nopreExpire_none {x : Ctxt} (h : x.nopre = none) : nopreExpire x = x := by
  unfold nopreExpire
  simp only [h]

/-- The DATAERR of a resume is the boundary cause wherever the core runs (R369). -/
theorem boundaryTrap_resume {s : State} {core : Nat} {w : Word} (hs : (coreOf s core).status = .running) (hd : (coreOf s core).debugStop = false)
    (hw : (coreOf s core).ctx.resumeErr = some w) :
    boundaryTrap s core = some (trapOn (setCoreOf s core { coreOf s core with ctx := { (coreOf s core).ctx with resumeErr := none } }) core
      (coreOf s core).ctx.pc ⟨14, w, none⟩) := by
  unfold boundaryTrap resumeTrap
  simp only [hw, hs, hd]
  rfl

theorem boundaryTrap_pit {s : State} {core : Nat} {t : PitTrap} {ts : List PitTrap} (hs : (coreOf s core).status = .running)
    (hd : (coreOf s core).debugStop = false) (hw : (coreOf s core).ctx.resumeErr = none) (hr : (coreOf s core).ctx.draining = none)
    (hl : live (coreOf s core).ctx = false) (ht : (coreOf s core).ctx.pitTraps = t :: ts) :
    boundaryTrap s core = some (trapOn (setCoreOf s core { coreOf s core with ctx := { (coreOf s core).ctx with pitTraps := ts } }) core
      (coreOf s core).ctx.pc ⟨t.code, t.info, none⟩) := by
  have h1 : resumeTrap s core = none := by
    unfold resumeTrap
    simp only [hw]
  rw [boundaryTrap, h1]
  unfold pitTrap
  simp only [hs, hd, hr, hl, ht]
  rfl

theorem boundaryTrap_none {s : State} {core : Nat} (h : (coreOf s core).status ≠ .running ∨ (coreOf s core).debugStop = true ∨
      ((coreOf s core).ctx.resumeErr = none ∧
        ((coreOf s core).ctx.draining ≠ none ∨ live (coreOf s core).ctx = true ∨ (coreOf s core).ctx.pitTraps = []))) :
    boundaryTrap s core = none := by
  have h1 : resumeTrap s core = none := by
    unfold resumeTrap
    extract_lets c
    split
    · next hw =>
      rcases h with h | h | ⟨h, -⟩
      · simp [c, h]
      · simp [c, h]
      · simp [c, h] at hw
    · rfl
  have h2 : pitTrap s core = none := by
    unfold pitTrap
    extract_lets c x
    rcases h with h | h | ⟨-, h | h | h⟩
    · simp [c, h]
    · simp [c, h]
    · obtain ⟨d, hd⟩ := Option.ne_none_iff_exists'.1 h
      simp [c, x, hd]
    · simp [c, x, h]
    · simp [c, x, h]
  rw [boundaryTrap, h1, h2]
  rfl

theorem mStart_none {s : State} {core : Nat} (h : mNext s core = none) : mStart s core = s := by
  unfold mStart
  rw [h]

theorem mStart_some {s : State} {core i : Nat} {m : MCmd} (h : mNext s core = some i) (hm : (coreOf s core).ctx.mq[i]? = some m) :
    mStart s core = setCtxOf (sramFill s (arrayOf s core).1 0) core { (coreOf s core).ctx with
      mq := (coreOf s core).ctx.mq.set i { m with started := true, running := true }
      cells := if fld m.word 26 6 = 3 then some (fld m.word 14 2) else (coreOf s core).ctx.cells } := by
  unfold mStart
  simp only [h, hm]

/-! ### Marks and counting passes -/

/-- One step of R325 over every mark of an ensemble: what a test leaves of each mark. -/
def markNext (s : State) (k : Mark) : Mark := if k.inited && markDone s k then { k with arrived := 0, gen := (k.gen + 1) % 65536 } else k

theorem markDone_congr {s t : State} (h : t.house = s.house) (m : Mark) : markDone t m = markDone s m := by
  unfold markDone ensCount
  rw [h]

theorem markTest_house (s : State) (home n : Nat) : (markTest s home n).house = s.house := by
  unfold markTest
  extract_lets c m
  split <;> rfl

theorem markOf_markTest (s : State) (home n k : Nat) :
    markOf (coreOf (markTest s home n) home) k = if k = n then markNext s (markOf (coreOf s home) k) else markOf (coreOf s home) k := by
  unfold markTest markNext
  extract_lets c m
  by_cases h : k = n
  · subst h
    rw [if_pos rfl]
    split
    · rw [coreOf_setCoreOf_same]
      exact mget_mput_same ..
    · rfl
  · rw [if_neg h]
    split
    · rw [coreOf_setCoreOf_same]
      exact mget_mput_other _ h ..
    · rfl

theorem markTests (home : Nat) (l : List Nat) (hl : l.Nodup) (s : State) :
    (l.foldl (fun st n => markTest st home n) s).house = s.house ∧
      ∀ k, markOf (coreOf (l.foldl (fun st n => markTest st home n) s) home) k =
        if k ∈ l then markNext s (markOf (coreOf s home) k) else markOf (coreOf s home) k := by
  induction l generalizing s with
  | nil => simp
  | cons n l ih =>
    obtain ⟨hn, hl⟩ := List.nodup_cons.1 hl
    obtain ⟨h1, h2⟩ := ih hl (markTest s home n)
    refine ⟨h1.trans (markTest_house ..), fun k => ?_⟩
    rw [List.foldl_cons, h2, markOf_markTest]
    have hnext (m : Mark) : markNext (markTest s home n) m = markNext s m := by
      unfold markNext
      rw [markDone_congr (markTest_house s home n)]
    by_cases hk : k = n
    · subst hk
      simp [hn]
    · simp [hk, hnext]

/-- The marks of a home that are bound to an ensemble and whose keys rise: each is tested once (R325). -/
theorem ensembleNotice {s : State} {home : Nat} (ens : Nat) (hh : home < 512) (hr : keysRise (coreOf s home).marks = true) :
    ∃ t, exec (.ensembleCountNotice home ens) s = .next t ∧ t.house = s.house ∧
      ∀ m, markOf (coreOf t home) m =
        if (markOf (coreOf s home) m).bound = true ∧ (markOf (coreOf s home) m).inited = true ∧ (markOf (coreOf s home) m).expect = ens ∧
            ensCount s ens ≤ (markOf (coreOf s home) m).arrived
        then { markOf (coreOf s home) m with arrived := 0, gen := ((markOf (coreOf s home) m).gen + 1) % 65536 } else markOf (coreOf s home) m := by
  let ms := ((coreOf s home).marks.filter fun m => m.2.bound && m.2.inited && m.2.expect == ens).map Prod.fst
  have hd : ms.Nodup := by
    have := ((keysRise_iff _).1 hr).filter (fun m => m.2.bound && m.2.inited && m.2.expect == ens)
    exact (List.pairwise_map.2 (this.imp fun h => Nat.ne_of_lt h))
  obtain ⟨h1, h2⟩ := markTests home ms hd s
  refine ⟨_, if_pos hh, h1, fun m => ?_⟩
  rw [h2]
  have hm : m ∈ ms ↔ (markOf (coreOf s home) m).bound = true ∧ (markOf (coreOf s home) m).inited = true ∧
      (markOf (coreOf s home) m).expect = ens := by
    simp only [ms, List.mem_map, List.mem_filter, Bool.and_eq_true, beq_iff_eq]
    constructor
    · rintro ⟨e, ⟨he, ⟨hb, hi⟩, hx⟩, rfl⟩
      rw [markOf, mget_mem _ hr he]
      exact ⟨hb, hi, hx⟩
    · rintro ⟨hb, hi, hx⟩
      rcases mget_cases Mark.start m (coreOf s home).marks with hc | ⟨e, he, rfl, hc⟩
      · rw [markOf, hc] at hi
        cases hi
      · rw [markOf, hc] at hb hi hx
        exact ⟨e, ⟨he, ⟨hb, hi⟩, hx⟩, rfl⟩
  by_cases h : m ∈ ms
  · obtain ⟨hb, hi, hx⟩ := hm.1 h
    rw [if_pos h]
    simp [markNext, markDone, hb, hi, hx]
  · rw [if_neg h, if_neg fun ⟨hb, hi, hx, _⟩ => h (hm.2 ⟨hb, hi, hx⟩)]

theorem countPassEnd_idle {s : State} {core g : Nat} (h : (pctxOf (coreOf s core).ctx g).counting = false) : countPassEnd s core g = s := by
  unfold countPassEnd
  extract_lets c x p
  rw [if_neg (by simp [p, x, c, h])]

theorem countPassEnd_counting {s : State} {core g : Nat} (h : (pctxOf (coreOf s core).ctx g).counting = true) :
    (pctxOf (coreOf (countPassEnd s core g) core).ctx g).counting = false ∧
      ∀ k, pctxSet (coreOf s core).ctx.pgMem (pctxOf (coreOf s core).ctx g) = some k →
        (pctxOf (coreOf (countPassEnd s core g) core).ctx g).total = (k.members (pctxOf (coreOf s core).ctx g).order).length := by
  have hp : pctxOf (coreOf (countPassEnd s core g) core).ctx g = { pctxOf (coreOf s core).ctx g with
      total := match pctxSet (coreOf s core).ctx.pgMem (pctxOf (coreOf s core).ctx g) with
        | some k => (k.members (pctxOf (coreOf s core).ctx g).order).length | none => 0
      counting := false } := by
    unfold countPassEnd
    extract_lets c x p n
    rw [if_pos h, coreOf_setCoreOf_same]
    exact mget_mput_same ..
  rw [hp]
  refine ⟨rfl, fun k hk => ?_⟩
  simp only [hk]

end Sys2Proof.Machine
end

-- ==== the matrix queue, migration and duet mode ====

section

/-! SUPPORT. What a matrix command's start, end, recall and migration make of its queue, and a duet tick of the cells. -/

namespace Sys2Proof.Machine

/-! ### The queue of the matrix array -/

theorem coreOf_setCtxOf (s : State) (core : Nat) (x : Ctxt) (n : Nat) :
    coreOf (setCtxOf s core x) n = if n = core then { coreOf s core with ctx := x } else coreOf s n := coreOf_setCoreOf ..

theorem coreOf_setCtxOf_same (s : State) (core : Nat) (x : Ctxt) : coreOf (setCtxOf s core x) core = { coreOf s core with ctx := x } :=
  coreOf_setCoreOf_same ..

theorem coreOf_setCtxOf_other (s : State) {core n : Nat} (x : Ctxt) (h : n ≠ core) : coreOf (setCtxOf s core x) n = coreOf s n :=
  coreOf_setCoreOf_other s _ h

/-- The tests that an idle array begins stand in the house die alone (R372). -/
theorem arrayRest_frame (s : State) : ∃ h, arrayRest s = { s with house := h } := by
  unfold arrayRest
  extract_lets rests
  generalize s.house.due.filter rests = l
  suffices H : ∀ (t : State), (∃ h, t = { s with house := h }) → ∃ h, l.foldl testBegin t = { s with house := h } from H _ ⟨_, rfl⟩
  induction l with
  | nil => exact fun t h => h
  | cons a l ih =>
    rintro t ⟨h, rfl⟩
    exact ih _ ⟨_, rfl⟩

theorem coreOf_arrayRest (s : State) (n : Nat) : coreOf (arrayRest s) n = coreOf s n := by
  obtain ⟨h, e⟩ := arrayRest_frame s
  rw [e]
  rfl

theorem mem_arrayRest (s : State) : (arrayRest s).mem = s.mem := by
  obtain ⟨h, e⟩ := arrayRest_frame s
  rw [e]

/-- A command all of whose rows have entered leaves its queue without an error (R197). -/
theorem mFinish_done {s : State} {home i : Nat} {m : MCmd} (hm : (coreOf s home).ctx.mq[i]? = some m) (hr : mTotal m ≤ m.rows) :
    (coreOf (mFinish s home i) home).ctx.mq = (coreOf s home).ctx.mq.eraseIdx i ∧
      (coreOf (mFinish s home i) home).ctx.matErrs = (coreOf s home).ctx.matErrs ∧ (mFinish s home i).mem = s.mem ∧
      ∀ n, n ≠ home → coreOf (mFinish s home i) n = coreOf s n := by
  have h : ∃ x, mFinish s home i = arrayRest (setCtxOf s home x) ∧ x.mq = (coreOf s home).ctx.mq.eraseIdx i ∧
      x.matErrs = (coreOf s home).ctx.matErrs := by
    unfold mFinish
    simp only [hm, Nat.sub_eq_zero_of_le hr, mRows]
    exact ⟨_, rfl, rfl, rfl⟩
  obtain ⟨x, h, hq, he⟩ := h
  rw [h]
  refine ⟨?_, ?_, ?_, fun n hn => ?_⟩
  · rw [coreOf_arrayRest, coreOf_setCtxOf_same]; exact hq
  · rw [coreOf_arrayRest, coreOf_setCtxOf_same]; exact he
  · rw [mem_arrayRest]; rfl
  · rw [coreOf_arrayRest, coreOf_setCtxOf_other s x hn]

theorem mRecall_idle {s : State} {n : Nat} (h : (coreOf s n).foreign = none) : mRecall s n = s := by
  unfold mRecall mRecallTo
  rw [h]

theorem mRecall_gone {s : State} {n home : Nat} {k : MCmd} (h : (coreOf s n).foreign = some (home, k))
    (ha : mAwayAt (coreOf s home).ctx.mq n = none) : mRecall s n = setCoreOf s n { coreOf s n with foreign := none } := by
  have hh : (coreOf (setCoreOf s n { coreOf s n with foreign := none }) home).ctx = (coreOf s home).ctx := by
    rw [coreOf_setCoreOf]
    split
    · next e => rw [e]
    · rfl
  unfold mRecall mRecallTo
  simp only [h]
  rw [hh, ha]

theorem mComplete_serves {s : State} {core : Nat} (h : mServes s core = true) : mComplete s core = mServe s core := by
  unfold mComplete
  rw [if_pos h]

theorem mComplete_idle {s : State} {core : Nat} (hf : (coreOf s core).foreign = none) (h : mServes s core = false)
    (hr : mRunning (coreOf s core).ctx.mq = none) : mComplete s core = s := by
  unfold mComplete
  rw [if_neg (by simp [h]), hf, hr]

theorem mComplete_own {s : State} {core i : Nat} (hf : (coreOf s core).foreign = none) (h : mServes s core = false)
    (hr : mRunning (coreOf s core).ctx.mq = some i) : mComplete s core = mFinish s core i := by
  unfold mComplete
  rw [if_neg (by simp [h]), hf, hr]

/-! ### Migration and duet windows -/

theorem foldl_min_mem (n : Nat) (l : List Nat) : l.foldl min n ∈ n :: l := by
  induction l generalizing n with
  | nil => simp
  | cons a l ih =>
    rw [List.foldl_cons]
    rcases List.mem_cons.1 (ih (min n a)) with h | h
    · rw [h]
      rcases Nat.le_total n a with e | e
      · simp [e]
      · simp [e]
    · simp [h]

/-- A start on an array changes at most that array's errors (R402). -/
theorem sramFill_frame (s : State) (core e : Nat) :
    ∃ b, sramFill s core e = s ∨ sramFill s core e = setCoreOf s core { coreOf s core with sramBad := b } := by
  unfold sramFill
  extract_lets c
  split
  · exact ⟨_, .inr rfl⟩
  · exact ⟨[], .inl rfl⟩

theorem sramFill_state (s : State) (core e : Nat) : (sramFill s core e).mem = s.mem ∧ (sramFill s core e).house = s.house ∧
    (sramFill s core e).pits = s.pits := by
  obtain ⟨b, h | h⟩ := sramFill_frame s core e <;> rw [h] <;> exact ⟨rfl, rfl, rfl⟩

/-- A command as it goes to core n, with a copy of its latch group (R214). -/
def sentTo (x : Ctxt) (k : MCmd) (n : Nat) : MCmd :=
  { k with started := true, running := true, away := some n, latch := (List.range 4).map fun j => (j, latchesOf x k j) }

/-- The state in which command i of a home has gone to core n. -/
def migrated (s : State) (core n i : Nat) (k : MCmd) : State :=
  let k' := sentTo (coreOf s core).ctx k n
  let s0 := setMq (sramFill s n 0) core ((coreOf s core).ctx.mq.set i k')
  let s1 := setCoreOf s0 core (countEvent (coreOf s0 core) 0x0A)
  setCoreOf s1 n { coreOf s1 n with foreign := some (core, k') }

/-- A command moves only under the home's control word, within MAXAWAY, and to a core that takes it (R214, R216). -/
theorem mMigrate_cases (s : State) (core : Nat) : mMigrate s core = s ∨ ∃ n i k, migTarget s n = true ∧ migCommand (coreOf s core) i = true ∧
    (coreOf s core).ctx.mq[i]? = some k ∧ (coreOf s core).migctl.getLsbD 0 = true ∧
    ((coreOf s core).ctx.mq.filter fun q => q.away.isSome).length < maxAway (coreOf s core).migctl ∧ mMigrate s core = migrated s core n i k := by
  unfold mMigrate
  extract_lets c dirs ns
  split
  · exact .inl rfl
  next hg =>
  rcases hns : ns with _ | ⟨n0, rest⟩
  · exact .inl rfl
  have hn : rest.foldl min n0 ∈ ns := hns ▸ foldl_min_mem n0 rest
  simp only [Bool.or_eq_true, not_or, decide_eq_true_eq, Bool.not_eq_true'] at hg
  obtain ⟨⟨⟨⟨-, ho⟩, -⟩, -⟩, hl⟩ := hg
  dsimp only
  split
  · exact .inl rfl
  next i hi =>
  split
  · exact .inl rfl
  next k hk =>
  exact .inr ⟨_, i, k, (List.mem_filter.1 hn).2, List.find?_some hi, hk, by simpa using ho, Nat.lt_of_not_le hl, rfl⟩

theorem migrated_state (s : State) (core n i : Nat) (k : MCmd) : (migrated s core n i k).mem = s.mem ∧
    (migrated s core n i k).house = s.house ∧ (migrated s core n i k).pits = s.pits := sramFill_state s n 0

theorem migrated_cores (s : State) (core n i : Nat) (k : MCmd) :
    (coreOf (migrated s core n i k) core).ctx.mq = (coreOf s core).ctx.mq.set i (sentTo (coreOf s core).ctx k n) ∧
      (coreOf (migrated s core n i k) n).foreign = some (core, sentTo (coreOf s core).ctx k n) := by
  unfold migrated
  extract_lets k' s0 s1
  have h1 : (coreOf s1 core).ctx.mq = (coreOf s core).ctx.mq.set i k' := by
    simp only [s1, s0, setMq]
    rw [coreOf_setCoreOf_same, coreOf_setCtxOf_same]
    rfl
  constructor
  · rw [coreOf_setCoreOf]
    split
    · next e => exact (congrArg (fun j => (coreOf s1 j).ctx.mq) e.symm).trans h1
    · exact h1
  · rw [coreOf_setCoreOf_same]

/-- A migration leaves memory, the house die and the pit engines alone, and moves at most one command (R214, R216). -/
theorem mMigrate_moves (s : State) (core : Nat) :
    (mMigrate s core).mem = s.mem ∧ (mMigrate s core).house = s.house ∧ (mMigrate s core).pits = s.pits ∧
      (mMigrate s core = s ∨ ∃ n i k, migTarget s n = true ∧ migCommand (coreOf s core) i = true ∧ (coreOf s core).ctx.mq[i]? = some k ∧
        (coreOf s core).migctl.getLsbD 0 = true ∧
        ((coreOf s core).ctx.mq.filter fun q => q.away.isSome).length < maxAway (coreOf s core).migctl ∧
        ∃ k', k'.away = some n ∧ k'.word = k.word ∧ k'.ops = k.ops ∧ k'.rows = k.rows ∧
          (coreOf (mMigrate s core) core).ctx.mq = (coreOf s core).ctx.mq.set i k' ∧
          (coreOf (mMigrate s core) n).foreign = some (core, k')) := by
  rcases mMigrate_cases s core with h | ⟨n, i, k, h1, h2, h3, h4, h5, h⟩
  · rw [h]
    exact ⟨rfl, rfl, rfl, .inl rfl⟩
  · obtain ⟨hm, hh, hp⟩ := migrated_state s core n i k
    rw [h]
    exact ⟨hm, hh, hp, .inr ⟨n, i, k, h1, h2, h3, h4, h5, sentTo (coreOf s core).ctx k n, rfl, rfl, rfl, rfl, migrated_cores s core n i k⟩⟩

theorem duetTick_alone {s : State} {core : Nat} (h : duetPartner s core = none) : duetTick s core = s := by
  unfold duetTick
  rw [h]

theorem duetTick_same {s : State} {core p : Nat} (h : duetPartner s core = some p)
    (hs : (coreOf s (arrayOf s core).1).duetSide = ((coreOf s (arrayOf s core).1).cycles / 64 % 2 == 1)) : duetTick s core = s := by
  unfold duetTick
  simp only [h]
  rw [if_pos hs]

/-- A window that changes where nothing runs unloads the cells of both sides and leaves their queues (R217). -/
theorem duetTick_change {s : State} {core p a b : Nat} {side : Bool} (h : duetPartner s core = some p) (ha : a = (arrayOf s core).1)
    (hb : b = if a = core then p else core) (hside : side = ((coreOf s a).cycles / 64 % 2 == 1)) (hs : (coreOf s a).duetSide ≠ side)
    (hr : mRunning (coreOf s (if side then a else b)).ctx.mq = none) (hab : a ≠ b) :
    (coreOf (duetTick s core) a).duetSide = side ∧ (coreOf (duetTick s core) a).ctx.cells = none ∧ (coreOf (duetTick s core) b).ctx.cells = none ∧
      (coreOf (duetTick s core) a).ctx.mq = (coreOf s a).ctx.mq ∧ (coreOf (duetTick s core) b).ctx.mq = (coreOf s b).ctx.mq := by
  let s1 := setCoreOf s a { coreOf s a with duetSide := side }
  let s3 := setCtxOf s1 a { (coreOf s1 a).ctx with cells := none }
  have hctx (n : Nat) : (coreOf s1 n).ctx = (coreOf s n).ctx := by
    simp only [s1]
    rw [coreOf_setCoreOf]
    split
    · next e => rw [e]
    · rfl
  have ht : duetTick s core = setCtxOf s3 b { (coreOf s3 b).ctx with cells := none } := by
    subst ha hb hside
    unfold duetTick
    simp only [h]
    rw [if_neg hs, hctx, hr]
  have hb1 : coreOf s3 b = coreOf s b :=
    (coreOf_setCtxOf_other s1 _ hab.symm).trans (coreOf_setCoreOf_other s _ hab.symm)
  have ha1 : coreOf s1 a = { coreOf s a with duetSide := side } := coreOf_setCoreOf_same ..
  rw [ht, coreOf_setCtxOf_other _ _ hab, coreOf_setCtxOf_same, coreOf_setCtxOf_same, ha1, hb1]
  exact ⟨rfl, rfl, rfl, rfl, rfl⟩

end Sys2Proof.Machine
end

-- ==== MSAVE and MRESUME served ====

section

/-! SUPPORT. The image that an MSAVE writes, and the queue and latches that an MRESUME restores from one. -/

namespace Sys2Proof.Machine

/-! ### MSAVE and MRESUME -/

/-- The image of a queue with no command: header, latch types, cells, bands, empty records, scales, elements (R209). -/
theorem mImage_nil_length (x : Ctxt) : (mImage x []).length = 73984 := by
  simp [mImage, mOrdered, natBytes_length, memRead_length, List.length_flatMap]

theorem mService_single {m : MCmd} (h : 7 ≤ fld m.word 26 6) : mService [m] = some 0 := by
  simp [mService, List.findIdx?_cons, h]

theorem mHaltAll_idle {s : State} {core : Nat} {m : MCmd} (hq : (coreOf s core).ctx.mq = [m]) (hr : m.running = false) (ha : m.away = none) :
    mHaltAll s core = s := by
  have h1 : mRecallAll s core = s := by
    unfold mRecallAll
    rw [hq]
    simp [ha]
  unfold mHaltAll
  rw [h1]
  simp [hq, mRunning, List.findIdx?_cons, hr]

/-- The scratchpad after a store that ends within it (R12). -/
theorem spad_coreStore (s : State) (core off : Nat) (bs : List Byte) (h : off < 0x200000) (y : Nat) :
    memGet (coreOf (coreStore s core off bs) core).spad y =
      if off ≤ y ∧ y < off + bs.length then bs.getD (y - off) 0 else memGet (coreOf s core).spad y := by
  unfold coreStore coreBytes
  extract_lets c
  rw [coreOf_written, if_pos h, coreOf_setCoreOf_same]
  exact memGet_memBlock ..

/-- An MSAVE that stands alone writes the image of an empty queue and leaves nothing in the queue (R209, R211, log 48). -/
theorem mServe_msave {s : State} {core : Nat} {m : MCmd} (hq : (coreOf s core).ctx.mq = [m]) (hr : m.running = false) (ha : m.away = none)
    (ho : fld m.word 26 6 = 7) (hl : latchSick s core (latchOf (coreOf s core).ctx) = none) (hf : bdOff (mOp m 0).bd + 73984 ≤ 0x200000) :
    (coreOf (mServe s core) core).ctx.mq = [] ∧ (coreOf (mServe s core) core).ctx.latches = (coreOf s core).ctx.latches ∧
      (mServe s core).mem = s.mem ∧ ∀ y, memGet (coreOf (mServe s core) core).spad y =
        if bdOff (mOp m 0).bd ≤ y ∧ y < bdOff (mOp m 0).bd + 73984 then (mImage (coreOf s core).ctx []).getD (y - bdOff (mOp m 0).bd) 0
        else memGet (coreOf s core).spad y := by
  have hs : mService [m] = some 0 := mService_single (by omega)
  have h : ∃ x, mServe s core = arrayRest (setCtxOf (coreStore s core (bdOff (mOp m 0).bd) (mImage (coreOf s core).ctx [])) core x) ∧
      x.mq = [] ∧ x.latches = (coreOf s core).ctx.latches := by
    unfold mServe
    simp only [hq, hs, List.getElem?_cons_zero, ho, if_true]
    unfold mSave
    rw [mHaltAll_idle hq hr ha]
    simp only [hq, hs, List.getElem?_cons_zero, hl, List.take_zero]
    exact ⟨_, rfl, rfl, rfl⟩
  obtain ⟨x, h, hx, hx'⟩ := h
  rw [h]
  refine ⟨?_, ?_, ?_, fun y => ?_⟩
  · rw [coreOf_arrayRest, coreOf_setCtxOf_same]; exact hx
  · rw [coreOf_arrayRest, coreOf_setCtxOf_same]; exact hx'
  · rw [mem_arrayRest]; rfl
  · rw [coreOf_arrayRest, coreOf_setCtxOf_same]
    have := spad_coreStore s core (bdOff (mOp m 0).bd) (mImage (coreOf s core).ctx []) (by omega) y
    rw [mImage_nil_length] at this
    exact this

/-- An MRESUME at the head of its queue whose latches' bytes hold no error (R212). -/
theorem mResume_sound {s : State} {core : Nat} {m : MCmd} {b : MBack} (hq : (coreOf s core).ctx.mq = [m]) (hb : (coreOf s core).ctx.mback = some b)
    (hv : (viewOf core (mOp m 1)).bad (landed s core) mHeadBytes (mImageBytes - mHeadBytes) = none) :
    ∃ x, mResume s core 0 m = setCtxOf s core x ∧ x.mq = b.cmds.map (fun k => { k with issuedAt := (coreOf s core).cycles }) ∧
      x.mback = none ∧ x.latches = (b.fill (coreLoad (landed s core) core (viewOf core (mOp m 1)).off mImageBytes)).latches ∧ x.cells = b.cells := by
  -- the definition is unfolded under a name of its own: applied, its match would have the kernel run `landed`
  obtain ⟨f, hf⟩ : ∃ f, f = mResume := ⟨_, rfl⟩
  rw [← hf]
  delta mResume at hf
  subst hf
  beta_reduce
  generalize landed s core = now at hv ⊢
  simp only [hv, hb, hq, Option.getD_some, List.take_zero, List.nil_append]
  exact ⟨_, rfl, List.append_nil _, rfl, rfl, rfl⟩

/-- An MRESUME that stands alone loads latches and cells, and the restored commands stand in the queue (R212, log 106). -/
theorem mServe_mresume {s : State} {core : Nat} {m : MCmd} {b : MBack} (hq : (coreOf s core).ctx.mq = [m]) (ho : fld m.word 26 6 = 8)
    (hb : (coreOf s core).ctx.mback = some b)
    (hv : (viewOf core (mOp m 1)).bad (landed s core) 0x1100 0x11000 = none) :
    (mServe s core).mem = s.mem ∧ (coreOf (mServe s core) core).spad = (coreOf s core).spad ∧
      (coreOf (mServe s core) core).ctx.mq = b.cmds.map (fun k => { k with issuedAt := (coreOf s core).cycles }) ∧
      (coreOf (mServe s core) core).ctx.mback = none ∧
      (coreOf (mServe s core) core).ctx.latches = (b.fill (coreLoad (landed s core) core (viewOf core (mOp m 1)).off 73984)).latches ∧
      (coreOf (mServe s core) core).ctx.cells = b.cells := by
  have hs : mService [m] = some 0 := mService_single (by omega)
  have h : mServe s core = arrayRest (mResume s core 0 m) := by
    unfold mServe
    simp only [hq, hs, List.getElem?_cons_zero]
    rw [if_neg (by omega)]
  have hh : mHeadBytes = 0x1100 := rfl
  have hi : mImageBytes = 73984 := rfl
  obtain ⟨x, hx, h1, h2, h3, h4⟩ := mResume_sound hq hb (by rw [hh, hi]; exact hv)
  rw [hi] at h3
  rw [h, hx, mem_arrayRest, coreOf_arrayRest, coreOf_setCtxOf_same]
  exact ⟨rfl, rfl, h1, h2, h3, h4⟩

end Sys2Proof.Machine
end

-- ==== bits of tiles in a core's storage ====

section

/-! SUPPORT. A byte of a core's storage by its bits, and the element that a tile's view writes into it. -/

namespace Sys2Proof.Machine

/-! ### Bits of bytes -/

theorem testBit_bytesNat (bs : List Byte) (i : Nat) : (bytesNat bs).testBit i = (bs.getD (i / 8) 0).getLsbD (i % 8) := by
  have h := congrArg (fun b : Byte => b.getLsbD (i % 8)) (bytesNat_div_mod bs (i / 8))
  simp only [BitVec.getLsbD_ofNat, Nat.testBit_div_two_pow] at h
  rw [← h, Nat.mod_add_div]
  simp [Nat.mod_lt]

theorem natBytes_getD {n i : Nat} (x : Nat) (h : i < n) : (natBytes n x).getD i 0 = BitVec.ofNat 8 (x / 2 ^ (8 * i)) := by
  induction n generalizing i x with
  | zero => omega
  | succ n ih =>
    cases i with
    | zero => simp [natBytes]
    | succ i =>
      rw [natBytes, List.getD_cons_succ, ih (x / 256) (by omega), Nat.div_div_eq_div_mul, show (256 : Nat) = 2 ^ 8 from rfl, ← Nat.pow_add,
        show 8 + 8 * i = 8 * (i + 1) by omega]

theorem getLsbD_natBytes {n i : Nat} (x : Nat) (h : i < 8 * n) : ((natBytes n x).getD (i / 8) 0).getLsbD (i % 8) = x.testBit i := by
  rw [natBytes_getD x (by omega), BitVec.getLsbD_ofNat, Nat.testBit_div_two_pow, Nat.mod_add_div]
  simp [Nat.mod_lt]

/-- A field of a bit string replaced, bit by bit. -/
theorem testBit_patchBits (x b n c i : Nat) :
    (patchBits x b n c).testBit i = if b ≤ i ∧ i < b + n then c.testBit (i - b) else x.testBit i := by
  have h : patchBits x b n c = 2 ^ b * (2 ^ n * (x / 2 ^ b / 2 ^ n) + c % 2 ^ n) + x % 2 ^ b := by
    have h1 := Nat.div_add_mod x (2 ^ b)
    have h2 := Nat.div_add_mod (x / 2 ^ b) (2 ^ n)
    unfold patchBits
    rw [Nat.mul_comm (x / 2 ^ b % 2 ^ n), Nat.mul_comm (c % 2 ^ n), Nat.mul_add (2 ^ b)]
    conv_lhs => rw [← h1]
    conv_lhs => enter [1, 1, 1, 2]; rw [← h2]
    rw [h1, Nat.mul_add]
    omega
  rw [h, Nat.testBit_two_pow_mul_add _ (Nat.mod_lt _ (Nat.two_pow_pos b)), Nat.testBit_two_pow_mul_add _ (Nat.mod_lt _ (Nat.two_pow_pos n)),
    Nat.testBit_mod_two_pow, Nat.testBit_mod_two_pow, Nat.testBit_div_two_pow, Nat.testBit_div_two_pow]
  by_cases h1 : i < b
  · simp [h1, Nat.not_le.2 h1]
  · by_cases h2 : i < b + n
    · simp [h1, h2, show i - b < n by omega, Nat.le_of_not_lt h1]
    · simp [h1, h2, show ¬ i - b < n by omega, show i - b - n + n + b = i by omega]

/-- Codes of one width packed, bit by bit. -/
theorem testBit_packElts (w : Nat) (cs : List Nat) (j i : Nat) (hi : i < w) : (packElts w cs).testBit (w * j + i) = (cs.getD j 0).testBit i := by
  induction cs generalizing j with
  | nil => simp [packElts]
  | cons c cs ih =>
    rw [packElts, Nat.add_comm, Nat.testBit_two_pow_mul_add _ (Nat.mod_lt _ (Nat.two_pow_pos w))]
    cases j with
    | zero => simp [hi, Nat.testBit_mod_two_pow]
    | succ j =>
      rw [if_neg (by rw [Nat.mul_succ]; omega), show w * (j + 1) + i - w = w * j + i by rw [Nat.mul_succ]; omega, ih]
      simp

theorem packElts_lt (w : Nat) (cs : List Nat) : packElts w cs < 2 ^ (w * cs.length) := by
  induction cs with
  | nil => simp [packElts]
  | cons c cs ih =>
    have h1 := Nat.mod_lt c (Nat.two_pow_pos w)
    have h2 : 2 ^ w * (packElts w cs + 1) ≤ 2 ^ w * 2 ^ (w * cs.length) := Nat.mul_le_mul_left _ ih
    rw [packElts, List.length_cons, Nat.mul_succ, Nat.add_comm (w * cs.length), Nat.pow_add]
    rw [Nat.mul_succ] at h2
    omega

/-! ### A core's own storage, byte by byte -/

/-- The byte at a window offset of a core's scratchpad or accumulator rows. -/
def storeByte (c : Core) (a : Nat) : Byte := if a < 0x200000 then memGet c.spad a else rowByte (rowOf c ((a - 0x200000) / 512)) (a % 512)

theorem coreLoad_eq (s : State) (core off n : Nat) : coreLoad s core off n = (List.range n).map fun i => storeByte (coreOf s core) (off + i) := by
  induction n generalizing off with
  | zero => rfl
  | succ n ih =>
    rw [coreLoad, ih, List.range_succ_eq_map, List.map_cons, List.map_map]
    refine congrArg₂ _ rfl (List.map_congr_left fun i _ => ?_)
    simp only [Function.comp, Nat.succ_eq_add_one, Nat.add_assoc, Nat.add_comm 1]

theorem coreLoad_getD (s : State) (core off : Nat) {n i : Nat} (h : i < n) : (coreLoad s core off n).getD i 0 = storeByte (coreOf s core) (off + i) := by
  rw [coreLoad_eq, List.getD_eq_getElem _ _ (by simpa using h)]
  simp

/-- Bit k of a core's own storage, by window offset. -/
def storeBit (c : Core) (k : Nat) : Bool := (storeByte c (k / 8)).getLsbD (k % 8)

theorem testBit_coreLoad (s : State) (core off : Nat) {n i : Nat} (h : i < 8 * n) :
    (bytesNat (coreLoad s core off n)).testBit i = storeBit (coreOf s core) (8 * off + i) := by
  rw [testBit_bytesNat, coreLoad_getD _ _ _ (by omega), storeBit, show (8 * off + i) / 8 = off + i / 8 by omega, show (8 * off + i) % 8 = i % 8 by omega]

theorem TileView.testBit_bits (v : TileView) (s : State) (b n : Nat) {i : Nat} (h : i < n) :
    (v.bits s b n).testBit i = storeBit (coreOf s v.core) (8 * v.off + b + i) := by
  rw [TileView.bits, Nat.testBit_mod_two_pow, Nat.testBit_div_two_pow, testBit_coreLoad _ _ _ (by omega)]
  simp only [h, decide_true, Bool.true_and]
  congr 1
  omega

/-- A code of n bits from its bits. -/
theorem eq_of_testBit_lt {x y n : Nat} (hx : x < 2 ^ n) (hy : y < 2 ^ n) (h : ∀ i, i < n → x.testBit i = y.testBit i) : x = y := by
  refine Nat.eq_of_testBit_eq fun i => ?_
  by_cases hi : i < n
  · exact h i hi
  · rw [Nat.testBit_lt_two_pow (hx.trans_le (Nat.pow_le_pow_right (by decide) (Nat.le_of_not_lt hi))),
      Nat.testBit_lt_two_pow (hy.trans_le (Nat.pow_le_pow_right (by decide) (Nat.le_of_not_lt hi)))]

theorem TileView.bits_lt (v : TileView) (s : State) (b n : Nat) : v.bits s b n < 2 ^ n := Nat.mod_lt _ (Nat.two_pow_pos n)

theorem getLsbD_rowByte (r : Row) (k : Nat) {j : Nat} (hj : j < 8) : (rowByte r k).getLsbD j = r.toNat.testBit (j + 8 * k) := by
  rw [rowByte, BitVec.getLsbD_ofNat, Nat.testBit_div_two_pow, decide_eq_true hj, Bool.true_and]

/-- One byte of a row after a patch. -/
theorem rowByte_rowPatch (r : Row) (i : Nat) (bs : List Byte) {k : Nat} (hk : k < 512) :
    rowByte (rowPatch r i bs) k = if i ≤ k ∧ k < i + bs.length then bs.getD (k - i) 0 else rowByte r k := by
  have hb := bytesNat_lt bs
  have e : r.toNat % 2 ^ (8 * i) + 2 ^ (8 * i) * bytesNat bs + 2 ^ (8 * (i + bs.length)) * (r.toNat / 2 ^ (8 * (i + bs.length))) =
      2 ^ (8 * i) * (2 ^ (8 * bs.length) * (r.toNat / 2 ^ (8 * (i + bs.length))) + bytesNat bs) + r.toNat % 2 ^ (8 * i) := by
    rw [Nat.mul_add (2 ^ (8 * i)), ← Nat.mul_assoc, ← Nat.pow_add, ← Nat.mul_add 8]
    omega
  refine BitVec.eq_of_getLsbD_eq fun j hj => ?_
  have hlt : 8 * k + j < 4096 := by omega
  rw [rowByte, rowPatch, BitVec.getLsbD_ofNat, BitVec.toNat_ofNat, Nat.testBit_div_two_pow, Nat.testBit_mod_two_pow, e,
    Nat.testBit_two_pow_mul_add _ (Nat.mod_lt _ (Nat.two_pow_pos _)), Nat.testBit_two_pow_mul_add _ hb, Nat.testBit_mod_two_pow,
    Nat.testBit_div_two_pow]
  simp only [hj, decide_true, Bool.true_and, show j + 8 * k < 4096 by omega]
  split
  · next h1 => rw [if_neg (by omega), getLsbD_rowByte r k hj, decide_eq_true h1, Bool.true_and]
  · next h1 =>
    split
    · next h2 =>
      rw [if_pos (by omega), testBit_bytesNat, show (j + 8 * k - 8 * i) / 8 = k - i by omega, show (j + 8 * k - 8 * i) % 8 = j by omega]
    · next h2 =>
      rw [if_neg (by omega), getLsbD_rowByte r k hj, show j + 8 * k - 8 * i - 8 * bs.length + 8 * (i + bs.length) = j + 8 * k by omega]

/-- Accumulator bytes after a write, whatever rows it crosses (R171). -/
theorem rowByte_accBytes (c : Core) (o fuel : Nat) (bs : List Byte) (hf : bs.length ≤ fuel) (a : Nat) :
    rowByte (rowOf (accBytes c o fuel bs) (a / 512)) (a % 512) =
      if o ≤ a ∧ a < o + bs.length then bs.getD (a - o) 0 else rowByte (rowOf c (a / 512)) (a % 512) := by
  induction fuel generalizing c o bs with
  | zero =>
    rw [accBytes, if_neg (by omega)]
  | succ n ih =>
    unfold accBytes
    split
    · next h =>
      rw [if_neg (by simp only [List.isEmpty_iff] at h; simp [h])]
    · next h =>
      have hl : 0 < bs.length := List.length_pos_iff.2 (by simpa using h)
      extract_lets k r c'
      have hk : k = min bs.length (512 - o % 512) := rfl
      have hkl : (bs.take k).length = k := by rw [List.length_take]; omega
      rw [ih c' (o + k) (bs.drop k) (by rw [List.length_drop]; omega), List.length_drop]
      have hrow : rowByte (rowOf c' (a / 512)) (a % 512) = if o ≤ a ∧ a < o + k then bs.getD (a - o) 0 else rowByte (rowOf c (a / 512)) (a % 512) := by
        have hp : rowOf c' (a / 512) = if a / 512 = r then rowPatch (rowOf c r) (o % 512) (bs.take k) else rowOf c (a / 512) := mget_mput ..
        rw [hp]
        split
        · next hr =>
          rw [rowByte_rowPatch _ _ _ (by omega), hkl, hr]
          have hr' : a / 512 = o / 512 := hr
          split
          · next hc =>
            rw [if_pos (by omega), show a % 512 - o % 512 = a - o by omega]
            simp only [List.getD_eq_getElem?_getD, List.getElem?_take]
            rw [if_pos (by omega)]
          · next hc => rw [if_neg (by omega)]
        · next hr =>
          have hr' : ¬ a / 512 = o / 512 := hr
          rw [if_neg (by omega)]
      rw [hrow]
      split
      · next h1 =>
        rw [if_pos (by omega)]
        simp only [List.getD_eq_getElem?_getD, List.getElem?_drop]
        congr 2
        omega
      · next h1 =>
        split
        · next h2 => rw [if_pos (by omega)]
        · next h2 => rw [if_neg (by omega)]

/-- A core's own storage after a write that does not run out of the scratchpad. -/
theorem storeByte_coreBytes (s : State) (core off : Nat) (bs : List Byte) (h : 0x200000 ≤ off ∨ off + bs.length ≤ 0x200000) (a : Nat) :
    storeByte (coreOf (coreBytes s core off bs) core) a =
      if off ≤ a ∧ a < off + bs.length then bs.getD (a - off) 0 else storeByte (coreOf s core) a := by
  unfold coreBytes
  extract_lets c
  rw [coreOf_setCoreOf_same]
  by_cases ho : off < 0x200000
  · rw [if_pos ho]
    by_cases ha : a < 0x200000
    · simp only [storeByte, ha, if_true]
      exact memGet_memBlock ..
    · simp only [storeByte, ha, if_false]
      rw [if_neg (by omega)]
      rfl
  · rw [if_neg ho]
    by_cases ha : a < 0x200000
    · obtain ⟨rs, e⟩ := accBytes_frame c (off - 0x200000) (bs.length + 1) bs
      rw [e]
      simp only [storeByte, ha, if_true]
      rw [if_neg (by omega)]
    · have := rowByte_accBytes c (off - 0x200000) (bs.length + 1) bs (by omega) (a - 0x200000)
      rw [show (a - 0x200000) % 512 = a % 512 by omega] at this
      rw [storeByte, storeByte, if_neg ha, if_neg ha]
      rw [this]
      by_cases hc : off ≤ a ∧ a < off + bs.length
      · rw [if_pos (by omega), if_pos hc, show a - 0x200000 - (off - 0x200000) = a - off by omega]
      · rw [if_neg (by omega), if_neg hc]

/-! ### Elements written into a tile -/

/-- Two bit fields without a common bit. -/
def Apart (f g : Nat × Nat × Nat) : Prop := f.1 + f.2.1 ≤ g.1 ∨ g.1 + g.2.1 ≤ f.1

/-- A field holds a bit. -/
def Holds (f : Nat × Nat × Nat) (k : Nat) : Prop := f.1 ≤ k ∧ k < f.1 + f.2.1

/-- Fields put one after the other over a number whose bit 0 is bit o of the tile. -/
def patches (o : Nat) (fs : List (Nat × Nat × Nat)) (x : Nat) : Nat := fs.foldl (fun x g => patchBits x (g.1 - o) g.2.1 g.2.2) x

theorem testBit_patches_free {o : Nat} {fs : List (Nat × Nat × Nat)} (ho : ∀ f ∈ fs, o ≤ f.1) (x : Nat) {k : Nat}
    (h : ∀ f ∈ fs, ¬ Holds f (o + k)) : (patches o fs x).testBit k = x.testBit k := by
  induction fs generalizing x with
  | nil => rfl
  | cons f fs ih =>
    have h1 := ho f (by simp)
    have h2 := h f (by simp)
    rw [patches, List.foldl_cons, ← patches, ih (fun g hg => ho g (by simp [hg])) _ (fun g hg => h g (by simp [hg])), testBit_patchBits,
      if_neg (by unfold Holds at h2; omega)]

theorem testBit_patches_mem {o : Nat} {fs : List (Nat × Nat × Nat)} (ho : ∀ f ∈ fs, o ≤ f.1) (hp : fs.Pairwise Apart) (x : Nat)
    {f : Nat × Nat × Nat} (hf : f ∈ fs) {i : Nat} (hi : i < f.2.1) : (patches o fs x).testBit (f.1 - o + i) = f.2.2.testBit i := by
  induction fs generalizing x with
  | nil => cases hf
  | cons g fs ih =>
    obtain ⟨hg, hp⟩ := List.pairwise_cons.1 hp
    have ho' : ∀ f ∈ fs, o ≤ f.1 := fun f hf => ho f (by simp [hf])
    rcases List.mem_cons.1 hf with rfl | hf
    · have hof := ho f (by simp)
      rw [patches, List.foldl_cons, ← patches, testBit_patches_free ho' _ fun g' hg' hh => ?_, testBit_patchBits, if_pos (by omega), Nat.add_sub_cancel_left]
      have := hg g' hg'
      unfold Holds at hh
      unfold Apart at this
      omega
    · rw [patches, List.foldl_cons, ← patches]
      exact ih ho' hp _ hf

theorem foldl_min_le {α : Type} (g : α → Nat) (l : List α) (a : Nat) :
    l.foldl (fun a x => min a (g x)) a ≤ a ∧ ∀ x ∈ l, l.foldl (fun a x => min a (g x)) a ≤ g x := by
  induction l generalizing a with
  | nil => simp
  | cons b l ih =>
    obtain ⟨h1, h2⟩ := ih (min a (g b))
    rw [List.foldl_cons]
    refine ⟨by omega, fun x hx => ?_⟩
    rcases List.mem_cons.1 hx with rfl | hx
    · omega
    · exact h2 x hx

theorem le_foldl_max {α : Type} (g : α → Nat) (l : List α) (a : Nat) :
    a ≤ l.foldl (fun a x => max a (g x)) a ∧ ∀ x ∈ l, g x ≤ l.foldl (fun a x => max a (g x)) a := by
  induction l generalizing a with
  | nil => simp
  | cons b l ih =>
    obtain ⟨h1, h2⟩ := ih (max a (g b))
    rw [List.foldl_cons]
    refine ⟨by omega, fun x hx => ?_⟩
    rcases List.mem_cons.1 hx with rfl | hx
    · omega
    · exact h2 x hx

theorem foldl_max_le {α : Type} (g : α → Nat) (l : List α) {a n : Nat} (ha : a ≤ n) (h : ∀ x ∈ l, g x ≤ n) :
    l.foldl (fun a x => max a (g x)) a ≤ n := by
  induction l generalizing a with
  | nil => exact ha
  | cons b l ih => exact ih (Nat.max_le.2 ⟨ha, h b (by simp)⟩) fun x hx => h x (by simp [hx])

/-- The first byte that fields touch, and the first one behind them. -/
def firstByte : List (Nat × Nat × Nat) → Nat
  | [] => 0
  | f :: rest => rest.foldl (fun a g => min a (g.1 / 8)) (f.1 / 8)
def endByte : List (Nat × Nat × Nat) → Nat
  | [] => 0
  | f :: rest => rest.foldl (fun a g => max a ((g.1 + g.2.1 + 7) / 8)) ((f.1 + f.2.1 + 7) / 8)

theorem firstByte_le {fs : List (Nat × Nat × Nat)} {f : Nat × Nat × Nat} (hf : f ∈ fs) : 8 * firstByte fs ≤ f.1 := by
  cases fs with
  | nil => cases hf
  | cons g rest =>
    obtain ⟨h1, h2⟩ := foldl_min_le (fun g : Nat × Nat × Nat => g.1 / 8) rest (g.1 / 8)
    rw [firstByte]
    rcases List.mem_cons.1 hf with rfl | hf
    · omega
    · have := h2 f hf
      omega

theorem le_endByte {fs : List (Nat × Nat × Nat)} {f : Nat × Nat × Nat} (hf : f ∈ fs) : f.1 + f.2.1 ≤ 8 * endByte fs := by
  cases fs with
  | nil => cases hf
  | cons g rest =>
    obtain ⟨h1, h2⟩ := le_foldl_max (fun g : Nat × Nat × Nat => (g.1 + g.2.1 + 7) / 8) rest ((g.1 + g.2.1 + 7) / 8)
    rw [endByte]
    rcases List.mem_cons.1 hf with rfl | hf
    · omega
    · have := h2 f hf
      omega

theorem endByte_le {fs : List (Nat × Nat × Nat)} {n : Nat} (h : ∀ f ∈ fs, f.1 + f.2.1 ≤ 8 * n) : endByte fs ≤ n := by
  cases fs with
  | nil => exact Nat.zero_le n
  | cons g rest =>
    refine foldl_max_le (fun g : Nat × Nat × Nat => (g.1 + g.2.1 + 7) / 8) rest ?_ fun f hf => ?_
    · have := h g (by simp)
      omega
    · have := h f (by simp [hf])
      show (f.1 + f.2.1 + 7) / 8 ≤ n
      omega

theorem TileView.put_none {v : TileView} {s : State} {cs : List (List Nat × Nat)} (h : v.fields cs = []) : v.put s cs = s := by
  unfold TileView.put
  simp only [h]

/-- What a write of elements does: the bytes from the first to the last of their fields take the fields (R402). -/
theorem TileView.put_some {v : TileView} {s : State} {cs : List (List Nat × Nat)} (h : v.fields cs ≠ []) :
    ∃ hit, v.put s cs = coreStoreAt s v.core (v.off + firstByte (v.fields cs)) (natBytes (endByte (v.fields cs) - firstByte (v.fields cs))
      (patches (8 * firstByte (v.fields cs)) (v.fields cs)
        (bytesNat (coreLoad s v.core (v.off + firstByte (v.fields cs)) (endByte (v.fields cs) - firstByte (v.fields cs)))))) hit := by
  obtain ⟨f, rest, hfs⟩ := List.exists_cons_of_ne_nil h
  unfold TileView.put
  simp only [hfs]
  exact ⟨_, rfl⟩

theorem storeByte_coreStoreAt (s : State) (core off : Nat) (bs : List Byte) (hit : Nat → Bool)
    (h : 0x200000 ≤ off ∨ off + bs.length ≤ 0x200000) (a : Nat) : storeByte (coreOf (coreStoreAt s core off bs hit) core) a =
      if off ≤ a ∧ a < off + bs.length then bs.getD (a - off) 0 else storeByte (coreOf s core) a :=
  storeByte_coreBytes s core off bs h a

/-- A tile's fields lie in accumulator rows, or end within the scratchpad. -/
def Fits (off : Nat) (fs : List (Nat × Nat × Nat)) : Prop := 0x200000 ≤ off ∨ ∀ f ∈ fs, 8 * off + f.1 + f.2.1 ≤ 8 * 0x200000

/-- A number written as bytes, read as bits of the storage. -/
theorem storeBit_coreStoreAt (s : State) (core off n x : Nat) (hit : Nat → Bool) (h : 0x200000 ≤ off ∨ off + n ≤ 0x200000) (k : Nat) :
    storeBit (coreOf (coreStoreAt s core off (natBytes n x) hit) core) k =
      if 8 * off ≤ k ∧ k < 8 * (off + n) then x.testBit (k - 8 * off) else storeBit (coreOf s core) k := by
  rw [storeBit, storeByte_coreStoreAt _ _ _ _ _ (by rw [natBytes_length]; exact h), natBytes_length]
  by_cases hk : 8 * off ≤ k ∧ k < 8 * (off + n)
  · rw [if_pos (by omega), if_pos hk, show k / 8 - off = (k - 8 * off) / 8 by omega, show k % 8 = (k - 8 * off) % 8 by omega,
      getLsbD_natBytes x (by omega)]
  · rw [if_neg (by omega), if_neg hk]
    rfl

/-- What a write of elements does, bit by bit: each field takes its code, where no two share a bit, and other bits stay. -/
theorem TileView.storeBit_put (v : TileView) (s : State) (cs : List (List Nat × Nat)) (hfit : Fits v.off (v.fields cs)) :
    (∀ k, (∀ f ∈ v.fields cs, ¬ Holds f k) → storeBit (coreOf (v.put s cs) v.core) (8 * v.off + k) = storeBit (coreOf s v.core) (8 * v.off + k)) ∧
      ((v.fields cs).Pairwise Apart → ∀ f ∈ v.fields cs, ∀ i, i < f.2.1 →
        storeBit (coreOf (v.put s cs) v.core) (8 * v.off + f.1 + i) = f.2.2.testBit i) := by
  by_cases hn : v.fields cs = []
  · rw [TileView.put_none hn, hn]
    exact ⟨fun _ _ => rfl, fun _ f hf => by cases hf⟩
  obtain ⟨hit, h⟩ := TileView.put_some (s := s) hn
  have hlo : ∀ f ∈ v.fields cs, 8 * firstByte (v.fields cs) ≤ f.1 := fun f hf => firstByte_le hf
  have hhi : ∀ f ∈ v.fields cs, f.1 + f.2.1 ≤ 8 * endByte (v.fields cs) := fun f hf => le_endByte hf
  have hle : firstByte (v.fields cs) ≤ endByte (v.fields cs) := by
    obtain ⟨f, rest, hfs⟩ := List.exists_cons_of_ne_nil hn
    have h1 := hlo f (by simp [hfs])
    have h2 := hhi f (by simp [hfs])
    omega
  have hin : 0x200000 ≤ v.off + firstByte (v.fields cs) ∨
      v.off + firstByte (v.fields cs) + (endByte (v.fields cs) - firstByte (v.fields cs)) ≤ 0x200000 := by
    rcases hfit with h | h
    · exact .inl (by omega)
    · by_cases h0 : v.off ≤ 0x200000
      · have := endByte_le (fs := v.fields cs) (n := 0x200000 - v.off) fun f hf => by have := h f hf; omega
        omega
      · exact .inl (by omega)
  have hb (k : Nat) := storeBit_coreStoreAt s v.core _ (endByte (v.fields cs) - firstByte (v.fields cs)) (patches (8 * firstByte (v.fields cs)) (v.fields cs)
        (bytesNat (coreLoad s v.core (v.off + firstByte (v.fields cs)) (endByte (v.fields cs) - firstByte (v.fields cs))))) hit hin k
  generalize firstByte (v.fields cs) = lo at *
  generalize endByte (v.fields cs) = hi at *
  rw [h]
  refine ⟨fun k hk => ?_, fun hp f hf i hi => ?_⟩
  · rw [hb]
    split
    · next hr =>
      rw [testBit_patches_free hlo _ fun f hf => ?_, testBit_coreLoad _ _ _ (by omega)]
      · congr 1
        omega
      · rw [show 8 * lo + (8 * v.off + k - 8 * (v.off + lo)) = k by omega]
        exact hk f hf
    · rfl
  · have h1 := hlo f hf
    have h2 := hhi f hf
    rw [hb, if_pos (by omega), show 8 * v.off + f.1 + i - 8 * (v.off + lo) = f.1 - 8 * lo + i by omega]
    exact testBit_patches_mem hlo hp _ hf hi

/-- A write of elements touches its core's storage alone: scratchpad or rows. -/
theorem TileView.put_frame (v : TileView) (s : State) (cs : List (List Nat × Nat)) : (v.put s cs).mem = s.mem ∧
    (∀ n, (coreOf (v.put s cs) n).ctx = (coreOf s n).ctx) ∧ (0x200000 ≤ v.off → ∀ n, (coreOf (v.put s cs) n).spad = (coreOf s n).spad) := by
  by_cases hn : v.fields cs = []
  · rw [TileView.put_none hn]
    exact ⟨rfl, fun _ => rfl, fun _ _ => rfl⟩
  obtain ⟨hit, h⟩ := TileView.put_some (s := s) hn
  rw [h]
  generalize natBytes _ _ = bs
  generalize firstByte (v.fields cs) = lo
  have hc (n : Nat) : coreOf (coreStoreAt s v.core (v.off + lo) bs hit) n = coreOf (coreBytes s v.core (v.off + lo) bs) n := rfl
  refine ⟨rfl, fun n => ?_, fun ho n => ?_⟩
  · rw [hc]
    unfold coreBytes
    extract_lets c
    rw [coreOf_setCoreOf]
    split
    · next e =>
      rw [e]
      split
      · rfl
      · obtain ⟨rs, e⟩ := accBytes_frame c (v.off + lo - 0x200000) (bs.length + 1) bs
        rw [e]
    · rfl
  · rw [hc]
    unfold coreBytes
    extract_lets c
    rw [coreOf_setCoreOf]
    split
    · next e =>
      obtain ⟨rs, ea⟩ := accBytes_frame c (v.off + lo - 0x200000) (bs.length + 1) bs
      rw [e, if_neg (by omega), ea]
    · rfl

end Sys2Proof.Machine
end

-- ==== rows of MMA and MLATCH ====

section

/-! SUPPORT. The elements that one row of an MMA or MLATCH writes, and no others. -/

namespace Sys2Proof.Machine

theorem TileView.fields_of_dense {v : TileView} (h : v.layout ≠ 2) (cs : List (List Nat × Nat)) :
    v.fields cs = cs.map fun c => (v.bit c.1 0, v.ew, c.2) := by
  unfold TileView.fields
  rw [if_neg h]

theorem TileView.code_of_dense {v : TileView} (h : v.layout ≠ 2) (s : State) (i : List Nat) : v.code s i = v.bits s (v.bit i 0) v.ew := by
  unfold TileView.code
  rw [if_neg h]

theorem TileView.code_lt (v : TileView) (s : State) (i : List Nat) : v.code s i < 2 ^ v.ew := by
  unfold TileView.code
  split
  · exact (packElts_lt 1 _).trans_eq (by simp)
  · exact v.bits_lt ..

theorem TileView.code_congr (v : TileView) {s t : State} (h : storeByte (coreOf t v.core) = storeByte (coreOf s v.core)) (i : List Nat) :
    v.code t i = v.code s i := by
  simp only [TileView.code, TileView.bits, coreLoad_eq, h]

/-- Two elements of a tile whose bits lie side by side. -/
def TileView.Beside (v : TileView) (i j : List Nat) : Prop := v.bit i 0 + v.ew ≤ v.bit j 0 ∨ v.bit j 0 + v.ew ≤ v.bit i 0

/-- A written element reads as its code. -/
theorem TileView.code_put_mem {v : TileView} (hl : v.layout ≠ 2) (s : State) {cs : List (List Nat × Nat)} (hfit : Fits v.off (v.fields cs))
    (hp : cs.Pairwise fun a b => v.Beside a.1 b.1) {c : List Nat × Nat} (hc : c ∈ cs) : v.code (v.put s cs) c.1 = c.2 % 2 ^ v.ew := by
  rw [TileView.code_of_dense hl]
  refine eq_of_testBit_lt (v.bits_lt ..) (Nat.mod_lt _ (Nat.two_pow_pos _)) fun i hi => ?_
  rw [TileView.testBit_bits v _ _ _ hi, Nat.testBit_mod_two_pow, decide_eq_true hi, Bool.true_and]
  refine (v.storeBit_put s cs hfit).2 ?_ (v.bit c.1 0, v.ew, c.2) ?_ i hi
  · rw [TileView.fields_of_dense hl]
    exact List.pairwise_map.2 hp
  · rw [TileView.fields_of_dense hl]
    exact List.mem_map_of_mem hc

/-- An element beside all that are written reads as before. -/
theorem TileView.code_put_other {v : TileView} (hl : v.layout ≠ 2) (s : State) {cs : List (List Nat × Nat)} (hfit : Fits v.off (v.fields cs))
    {i : List Nat} (hi : ∀ c ∈ cs, v.Beside c.1 i) : v.code (v.put s cs) i = v.code s i := by
  rw [TileView.code_of_dense hl, TileView.code_of_dense hl]
  refine eq_of_testBit_lt (v.bits_lt ..) (v.bits_lt ..) fun k hk => ?_
  rw [TileView.testBit_bits v _ _ _ hk, TileView.testBit_bits v _ _ _ hk, Nat.add_assoc]
  refine (v.storeBit_put s cs hfit).1 _ fun f hf => ?_
  rw [TileView.fields_of_dense hl] at hf
  obtain ⟨c, hc, rfl⟩ := List.mem_map.1 hf
  have := hi c hc
  unfold TileView.Beside at this
  rintro ⟨h1, h2⟩
  dsimp only at h1 h2
  omega

/-! ### One row of a matrix command -/

theorem mHeld_fresh {m : MCmd} (h : m.old = []) (x : Ctxt) (home : Nat) : mHeld x home m = m := by
  cases m
  subst h
  rfl

theorem storeByte_stickyOf (s : State) (core : Nat) (f : Word) (n : Nat) : storeByte (coreOf (stickyOf s core f) n) = storeByte (coreOf s n) := by
  unfold stickyOf
  rw [coreOf_setCtxOf]
  split
  · next e => rw [e]; rfl
  · rfl

/-- A row of a command that reads nothing as it stood before: the state after its row, with its flags, and its counter past it (R198, R213). -/
theorem mNextRow_row {s t : State} {core : Nat} {m m' : MCmd} (ho : m.old = []) (h5 : fld m.word 26 6 ≠ 5) (h6 : fld m.word 26 6 ≠ 6)
    (h : mNextRow s core m = .ok (t, m')) :
    t = stickyOf (mRow s s core m m.rows 0).1 core (mRow s s core m m.rows 0).2 ∧ m'.rows = m.rows + 1 := by
  have hr : mRun m = 0 := by
    unfold mRun
    rw [if_neg (by omega)]
  unfold mNextRow mRowTo at h
  dsimp only at h
  rw [hr, mHeld_fresh ho] at h
  split at h
  · cases h
  split at h
  · cases h
  cases h
  rw [ho]
  refine ⟨rfl, ?_⟩
  rw [if_neg (by omega)]

theorem rowMma_state (s rd : State) (home : Nat) (m : MCmd) (r : Nat) : (rowMma s rd home m r).1 = (viewOf home (mOp m 0)).put s
    ((List.range ((viewOf home (mOp m 0)).ext 1)).map fun j => ([r, j], (mmaCode s rd home m (mmaLeft rd home m r) r j).1)) := by
  unfold rowMma
  extract_lets d n out
  simp only [out, List.map_map, List.zip_map']
  rfl

/-- A row of codes written into a row tile: the row takes them, every other row keeps its codes (R196). -/
theorem TileView.code_put_row {d : TileView} (hl : d.layout = 3) (ho : 0x200000 ≤ d.off) (hw : d.ext 1 * d.ew ≤ 4096) (s : State) (r : Nat)
    (f : Nat → Nat) (i : Nat) {j : Nat} (hj : j < d.ext 1) :
    d.code (d.put s ((List.range (d.ext 1)).map fun j => ([r, j], f j))) [i, j] = if i = r then f j % 2 ^ d.ew else d.code s [i, j] := by
  have hd : d.layout ≠ 2 := by omega
  have hbit (a b : Nat) : d.bit [a, b] 0 = a * 4096 + b * d.ew := by
    simp [TileView.bit, hl]
  have hrow {b c : Nat} (h : b < c) : b * d.ew + d.ew ≤ c * d.ew := by
    rw [← Nat.succ_mul]
    exact Nat.mul_le_mul_right _ h
  split
  · next hi =>
    subst hi
    have hp : ((List.range (d.ext 1)).map fun j => ([i, j], f j)).Pairwise fun a b => d.Beside a.1 b.1 := by
      refine List.pairwise_map.2 (List.pairwise_lt_range.imp fun {b c} h => .inl ?_)
      rw [hbit, hbit]
      have := hrow h
      omega
    exact TileView.code_put_mem hd s (.inl ho) hp (c := ([i, j], f j)) (List.mem_map.2 ⟨j, List.mem_range.2 hj, rfl⟩)
  · next hi =>
    refine TileView.code_put_other hd s (.inl ho) fun c hc => ?_
    obtain ⟨b, hb, rfl⟩ := List.mem_map.1 hc
    unfold TileView.Beside
    rw [hbit, hbit]
    have h1 := hrow (List.mem_range.1 hb)
    have h2 := hrow hj
    omega

/-- A row of MMA into accumulator rows: every element of the row takes its sum, every other keeps its code (R126, R203). -/
theorem rowMma_codes (s : State) (core : Nat) (m : MCmd) (r : Nat) (hl : (viewOf core (mOp m 0)).layout = 3)
    (ho : 0x200000 ≤ (viewOf core (mOp m 0)).off) (hw : (viewOf core (mOp m 0)).ext 1 * (viewOf core (mOp m 0)).ew ≤ 4096) (i j : Nat)
    (hj : j < (viewOf core (mOp m 0)).ext 1) :
    (viewOf core (mOp m 0)).code (rowMma s s core m r).1 [i, j] =
      if i = r then (mmaCode s s core m (mmaLeft s core m i) i j).1 % 2 ^ (viewOf core (mOp m 0)).ew else (viewOf core (mOp m 0)).code s [i, j] := by
  rw [rowMma_state, TileView.code_put_row hl ho hw s r _ i hj]
  split
  · next hi => rw [hi]
  · rfl

theorem mNextRow_mma {s t : State} {core : Nat} {m m' : MCmd} (hold : m.old = []) (h : mNextRow s core m = .ok (t, m'))
    (h3 : fld m.word 26 6 = 3) (hl : (viewOf core (mOp m 0)).layout = 3)
    (ho : 0x200000 ≤ (viewOf core (mOp m 0)).off) (hw : (viewOf core (mOp m 0)).ext 1 * (viewOf core (mOp m 0)).ew ≤ 4096) :
    m'.rows = m.rows + 1 ∧ t.mem = s.mem ∧ (coreOf t core).spad = (coreOf s core).spad ∧ ∀ i j, j < (viewOf core (mOp m 0)).ext 1 →
      (viewOf core (mOp m 0)).code t [i, j] = if i = m.rows then (mmaCode s s core m (mmaLeft s core m i) i j).1 % 2 ^ (viewOf core (mOp m 0)).ew
        else (viewOf core (mOp m 0)).code s [i, j] := by
  obtain ⟨ht, hm⟩ := mNextRow_row hold (by omega) (by omega) h
  have hr : mRow s s core m m.rows 0 = rowMma s s core m m.rows := by
    unfold mRow
    rw [h3]
    rfl
  rw [hr] at ht
  obtain ⟨h1, -, h2⟩ := TileView.put_frame (viewOf core (mOp m 0)) s _
  refine ⟨hm, ?_, ?_, fun i j hj => ?_⟩
  · rw [ht]
    exact h1
  · rw [ht, stickyOf, coreOf_setCtxOf_same]
    exact h2 ho core
  · rw [← rowMma_codes s core m m.rows hl ho hw i j hj, ht]
    exact TileView.code_congr _ (storeByte_stickyOf ..) _

/-! ### The bits of a latch group (R194, R209) -/

/-- The byte of a latch group at a byte offset. -/
def latchByte (ls : Nat → LatchSt) (l a : Nat) : Byte := memGet (ls (l + a / 16384)).store (a % 16384)

theorem latchLoad_eq (ls : Nat → LatchSt) (l o n : Nat) : latchLoad ls l o n = (List.range n).map fun i => latchByte ls l (o + i) := by
  induction n generalizing o with
  | zero => rfl
  | succ n ih =>
    rw [latchLoad, ih, List.range_succ_eq_map, List.map_cons, List.map_map]
    refine congrArg₂ _ rfl (List.map_congr_left fun i _ => ?_)
    simp only [Function.comp, Nat.succ_eq_add_one, Nat.add_assoc, Nat.add_comm 1]

/-- Bit k of a latch group. -/
def latchBit (ls : Nat → LatchSt) (l k : Nat) : Bool := (latchByte ls l (k / 8)).getLsbD (k % 8)

theorem testBit_latchLoad (ls : Nat → LatchSt) (l o : Nat) {n i : Nat} (h : i < 8 * n) :
    (bytesNat (latchLoad ls l o n)).testBit i = latchBit ls l (8 * o + i) := by
  rw [testBit_bytesNat, latchLoad_eq, List.getD_eq_getElem _ _ (by simp; omega), latchBit, show (8 * o + i) / 8 = o + i / 8 by omega,
    show (8 * o + i) % 8 = i % 8 by omega]
  simp

theorem latchCode_lt (ls : Nat → LatchSt) (l fmt k n : Nat) : latchCode ls l fmt k n < 2 ^ fmtWidth fmt := Nat.mod_lt _ (Nat.two_pow_pos _)

theorem testBit_latchCode (ls : Nat → LatchSt) (l fmt k n : Nat) {i : Nat} (h : i < fmtWidth fmt) :
    (latchCode ls l fmt k n).testBit i = latchBit ls l ((k * 128 + n) * fmtWidth fmt + i) := by
  rw [latchCode, Nat.testBit_mod_two_pow, Nat.testBit_div_two_pow, testBit_latchLoad _ _ _ (by omega), decide_eq_true h, Bool.true_and]
  congr 1
  omega

theorem latchCode_congr {ls ls' : Nat → LatchSt} {l : Nat} (h : latchByte ls l = latchByte ls' l) (fmt k n : Nat) :
    latchCode ls l fmt k n = latchCode ls' l fmt k n := by
  unfold latchCode
  simp only [latchLoad_eq, h]

/-- One part of a group write: bytes into one latch. -/
def latchPut (y : Ctxt) (j a : Nat) (b : List Byte) : Ctxt :=
  if b.isEmpty then y
  else { y with latches := mput j { latchOf y j with
    store := memBlock (latchOf y j).store a b
    bad := (latchOf y j).bad.filter fun g => !(decide (a ≤ g) && decide (g + 8 ≤ a + b.length)) } y.latches }

theorem latchStore_eq (x : Ctxt) (l o : Nat) (bs : List Byte) : latchStore x l o bs =
    latchPut (latchPut x (l + o / 16384) (o % 16384) (bs.take (16384 - o % 16384))) (l + o / 16384 + 1) 0 (bs.drop (16384 - o % 16384)) := rfl

theorem memGet_latchPut (y : Ctxt) (j a : Nat) (b : List Byte) (i k : Nat) : memGet (latchOf (latchPut y j a b) i).store k =
    if i = j ∧ a ≤ k ∧ k < a + b.length then b.getD (k - a) 0 else memGet (latchOf y i).store k := by
  unfold latchPut
  split
  · next h =>
    rw [List.isEmpty_iff] at h
    subst h
    rw [if_neg (by simp)]
  · show memGet (mget LatchSt.empty i (mput j _ y.latches)).store k = _
    rw [mget_mput]
    by_cases hij : i = j
    · rw [if_pos hij, hij]
      simp only [true_and]
      exact memGet_memBlock ..
    · rw [if_neg hij, if_neg fun hc => hij hc.1]
      rfl

/-- Bytes of a group after a write that runs at most into the next latch. -/
theorem latchByte_latchStore (x : Ctxt) (l o : Nat) (bs : List Byte) (h : bs.length ≤ 16384) (a : Nat) :
    latchByte (latchOf (latchStore x l o bs)) l a = if o ≤ a ∧ a < o + bs.length then bs.getD (a - o) 0 else latchByte (latchOf x) l a := by
  rw [latchByte, latchStore_eq, memGet_latchPut, memGet_latchPut, List.length_take, List.length_drop]
  simp only [List.getD_eq_getElem?_getD, List.getElem?_drop, List.getElem?_take]
  by_cases h1 : o ≤ a ∧ a < o + bs.length
  · rw [if_pos h1]
    by_cases h2 : a / 16384 = o / 16384
    · rw [if_neg (by omega), if_pos (by omega), if_pos (by omega), show a % 16384 - o % 16384 = a - o by omega]
    · rw [if_pos (by omega), show 16384 - o % 16384 + (a % 16384 - 0) = a - o by omega]
  · rw [if_neg h1, if_neg (by omega), if_neg (by omega)]
    rfl

theorem fmtWidth_le (f : Nat) : fmtWidth f ≤ 64 := by
  unfold fmtWidth
  split <;> decide

theorem latchBit_latchStore (x : Ctxt) (l o n y : Nat) (h : n ≤ 16384) (b : Nat) :
    latchBit (latchOf (latchStore x l o (natBytes n y))) l b = if 8 * o ≤ b ∧ b < 8 * (o + n) then y.testBit (b - 8 * o) else latchBit (latchOf x) l b := by
  rw [latchBit, latchByte_latchStore _ _ _ _ (by rw [natBytes_length]; exact h), natBytes_length]
  by_cases hb : 8 * o ≤ b ∧ b < 8 * (o + n)
  · rw [if_pos (by omega), if_pos hb, show b / 8 - o = (b - 8 * o) / 8 by omega, show b % 8 = (b - 8 * o) % 8 by omega,
      getLsbD_natBytes y (by omega)]
  · rw [if_neg (by omega), if_neg hb]
    rfl

/-- The low bits of a number replaced, bit by bit. -/
theorem testBit_replaceLow (x : Nat) {y n : Nat} (hy : y < 2 ^ n) (i : Nat) : (x - x % 2 ^ n + y).testBit i = if i < n then y.testBit i else x.testBit i := by
  have h : x - x % 2 ^ n + y = 2 ^ n * (x / 2 ^ n) + y := by
    have := Nat.div_add_mod x (2 ^ n)
    omega
  rw [h, Nat.testBit_two_pow_mul_add _ hy]
  split
  · rfl
  · next hi => rw [Nat.testBit_div_two_pow, Nat.sub_add_cancel (Nat.le_of_not_lt hi)]

/-- The bits of a group after a row of codes: those of the row's columns are the codes', every other stays (R199). -/
theorem latchBit_latchPutRow (x : Ctxt) (l fmt r : Nat) (codes : List Nat) (hc : codes.length ≤ 128) (b : Nat) :
    latchBit (latchOf (latchPutRow x l fmt r codes)) l b =
      if 8 * (r * 16 * fmtWidth fmt) ≤ b ∧ b < 8 * (r * 16 * fmtWidth fmt) + codes.length * fmtWidth fmt
      then (packElts (fmtWidth fmt) codes).testBit (b - 8 * (r * 16 * fmtWidth fmt)) else latchBit (latchOf x) l b := by
  have hw := fmtWidth_le fmt
  have hn : codes.length * fmtWidth fmt ≤ 128 * 64 := Nat.mul_le_mul hc hw
  have hp := packElts_lt (fmtWidth fmt) codes
  rw [Nat.mul_comm] at hp
  unfold latchPutRow
  dsimp only
  generalize fmtWidth fmt = w at *
  rw [latchBit_latchStore _ _ _ _ _ (by omega)]
  by_cases h1 : 8 * (r * 16 * w) ≤ b ∧ b < 8 * (r * 16 * w + (codes.length * w + 7) / 8)
  · rw [if_pos h1, testBit_replaceLow _ hp]
    by_cases h2 : b - 8 * (r * 16 * w) < codes.length * w
    · rw [if_pos h2, if_pos (by omega)]
    · rw [if_neg h2, if_neg (by omega), testBit_latchLoad _ _ _ (by omega), show 8 * (r * 16 * w) + (b - 8 * (r * 16 * w)) = b by omega]
  · rw [if_neg h1, if_neg (by omega)]

/-- A row of codes written into a group: its columns take the codes, every other element keeps its code (R199). -/
theorem latchCode_latchPutRow (x : Ctxt) (l fmt r : Nat) (codes : List Nat) (hc : codes.length ≤ 128) (hw : ∀ c ∈ codes, c < 2 ^ fmtWidth fmt)
    (k : Nat) {j : Nat} (hj : j < 128) : latchCode (latchOf (latchPutRow x l fmt r codes)) l fmt k j =
      if k = r ∧ j < codes.length then codes.getD j 0 else latchCode (latchOf x) l fmt k j := by
  have hb (i : Nat) : (k * 128 + j) * fmtWidth fmt + i = 128 * k * fmtWidth fmt + fmtWidth fmt * j + i := by ring
  have ho : 8 * (r * 16 * fmtWidth fmt) = 128 * r * fmtWidth fmt := by ring
  split
  · next h =>
    obtain ⟨rfl, hl⟩ := h
    refine eq_of_testBit_lt (latchCode_lt ..) ?_ fun i hi => ?_
    · rw [List.getD_eq_getElem _ _ hl]
      exact hw _ (List.getElem_mem hl)
    · have hle : fmtWidth fmt * (j + 1) ≤ codes.length * fmtWidth fmt := by
        rw [Nat.mul_comm codes.length]
        exact Nat.mul_le_mul_left _ hl
      rw [Nat.mul_succ] at hle
      rw [testBit_latchCode _ _ _ _ _ hi, latchBit_latchPutRow _ _ _ _ _ hc, hb, ho, if_pos (by omega), ← testBit_packElts _ _ _ _ hi]
      congr 1
      omega
  · next h =>
    refine eq_of_testBit_lt (latchCode_lt ..) (latchCode_lt ..) fun i hi => ?_
    rw [testBit_latchCode _ _ _ _ _ hi, testBit_latchCode _ _ _ _ _ hi, latchBit_latchPutRow _ _ _ _ _ hc, hb, ho, if_neg]
    rintro ⟨h1, h2⟩
    have hj' : fmtWidth fmt * (j + 1) ≤ 128 * fmtWidth fmt := by
      rw [Nat.mul_comm 128]
      exact Nat.mul_le_mul_left _ hj
    have hl : codes.length * fmtWidth fmt ≤ 128 * fmtWidth fmt := Nat.mul_le_mul_right _ hc
    rw [Nat.mul_succ] at hj'
    have hk : k = r := by
      rcases Nat.lt_trichotomy k r with hlt | rfl | hlt
      · have := Nat.mul_le_mul_right (128 * fmtWidth fmt) (show k + 1 ≤ r from hlt)
        rw [Nat.succ_mul, ← Nat.mul_assoc, ← Nat.mul_assoc, Nat.mul_comm k, Nat.mul_comm r] at this
        omega
      · rfl
      · have := Nat.mul_le_mul_right (128 * fmtWidth fmt) (show r + 1 ≤ k from hlt)
        rw [Nat.succ_mul, ← Nat.mul_assoc, ← Nat.mul_assoc, Nat.mul_comm k, Nat.mul_comm r] at this
        omega
    subst hk
    have hjl : codes.length ≤ j := Nat.le_of_not_lt fun hl => h ⟨rfl, hl⟩
    have := Nat.mul_le_mul_right (fmtWidth fmt) hjl
    rw [Nat.mul_comm j] at this
    omega

/-- The stores of a context's latches after a row of MLATCH are those after its codes: scales, band and errors stand beside them (R199). -/
theorem rowMlatch_stores (s rd : State) (home : Nat) (m : MCmd) (k j : Nat) :
    (latchOf (coreOf (rowMlatch s rd home m k).1 home).ctx j).store = (latchOf (latchPutRow (coreOf s home).ctx (fld m.word 14 2)
      (viewOf home (mOp m 1)).fmt k (((List.range ((viewOf home (mOp m 1)).ext 1)).map fun j => [k, j]).map ((viewOf home (mOp m 1)).code rd))) j).store := by
  unfold rowMlatch
  extract_lets v l n is x st col b scales at' whole st'
  rw [coreOf_setCtxOf_same]
  show (mget LatchSt.empty j (mput l st' x.latches)).store = _
  rw [mget_mput]
  split
  · next h => rw [h]
  · rfl

theorem ctx_stickyOf (s : State) (core : Nat) (f : Word) : (coreOf (stickyOf s core f) core).ctx.latches = (coreOf s core).ctx.latches := by
  unfold stickyOf
  rw [coreOf_setCtxOf_same]

theorem mNextRow_mlatch {s t : State} {core : Nat} {m m' : MCmd} (hold : m.old = []) (h : mNextRow s core m = .ok (t, m'))
    (h1 : fld m.word 26 6 = 1) (he : (viewOf core (mOp m 1)).ext 1 ≤ 128) : m'.rows = m.rows + 1 ∧ ∀ k j, j < 128 →
      latchCode (latchOf (coreOf t core).ctx) (fld m.word 14 2) (viewOf core (mOp m 1)).fmt k j =
        if k = m.rows ∧ j < (viewOf core (mOp m 1)).ext 1 then (viewOf core (mOp m 1)).code s [k, j]
        else latchCode (latchOf (coreOf s core).ctx) (fld m.word 14 2) (viewOf core (mOp m 1)).fmt k j := by
  obtain ⟨ht, hm⟩ := mNextRow_row hold (by omega) (by omega) h
  have hr : mRow s s core m m.rows 0 = rowMlatch s s core m m.rows := by
    unfold mRow
    rw [h1]
    rfl
  rw [hr] at ht
  refine ⟨hm, fun k j hj => ?_⟩
  have hb : latchByte (latchOf (coreOf t core).ctx) (fld m.word 14 2) = latchByte (latchOf (latchPutRow (coreOf s core).ctx (fld m.word 14 2)
      (viewOf core (mOp m 1)).fmt m.rows (((List.range ((viewOf core (mOp m 1)).ext 1)).map fun j => [m.rows, j]).map
        ((viewOf core (mOp m 1)).code s)))) (fld m.word 14 2) := by
    funext a
    unfold latchByte
    rw [← rowMlatch_stores, ht, latchOf, ctx_stickyOf]
    rfl
  rw [latchCode_congr hb, latchCode_latchPutRow _ _ _ _ _ (by simpa using he) _ k hj]
  · simp only [List.length_map, List.length_range]
    split
    · next h =>
      obtain ⟨rfl, hl⟩ := h
      rw [List.getD_eq_getElem _ _ (by simpa using hl)]
      simp
    · rfl
  · intro c hc
    obtain ⟨i, -, rfl⟩ := List.mem_map.1 hc
    exact TileView.code_lt ..

end Sys2Proof.Machine
end

-- ==== units of COPY ====

section

/-! SUPPORT. The notes that reads leave, and the bytes that one unit of a COPY moves. -/

namespace Sys2Proof.Machine

/-! ### What reads leave beside their bytes -/

/-- A state with other notes in its house die: its error log and its self-tests. -/
def withNotes (s : State) (log : List LogEntry) (tests : List (Nat × SelfTest)) (next : Nat) (due : List SelfTest) : State :=
  { s with house := { s.house with log := log, tests := tests, nextTest := next, due := due } }

/-- A state that differs in such notes alone. -/
def Noted (s t : State) : Prop := ∃ log tests next due, t = withNotes s log tests next due

theorem Noted.refl (s : State) : Noted s s := ⟨_, _, _, _, rfl⟩

theorem Noted.trans {s t u : State} (h : Noted s t) (h' : Noted t u) : Noted s u := by
  obtain ⟨_, _, _, _, rfl⟩ := h
  obtain ⟨_, _, _, _, rfl⟩ := h'
  exact ⟨_, _, _, _, rfl⟩

theorem Noted.foldl {α : Type} {f : State → α → State} (hf : ∀ s a, Noted s (f s a)) (s : State) (l : List α) : Noted s (l.foldl f s) := by
  induction l generalizing s with
  | nil => exact .refl s
  | cons a l ih => exact (hf s a).trans (ih _)

theorem noted_noteRead (s : State) (pa : Nat) : Noted s (noteRead s pa) := by
  unfold noteRead
  split
  · exact ⟨_, _, _, _, rfl⟩
  · split
    · exact ⟨_, _, _, _, rfl⟩
    · exact .refl s

theorem noted_errorMet (s : State) (pa : Nat) : Noted s (errorMet s pa) := by
  unfold errorMet
  split
  · exact .refl s
  · split
    · unfold unitMet
      extract_lets same t
      split
      · exact .refl s
      · split <;> exact ⟨_, _, _, _, rfl⟩
    · exact .refl s

theorem noted_notePieces (s : State) (ps : List (Nat × Nat)) : Noted s (notePieces s ps) :=
  .foldl (fun s (p : Nat × Nat) => noted_noteRead s p.1) s ps

theorem noted_walkMet (s : State) (core : Nat) (inst : Bool) (root va : Nat) : Noted s (walkMet s core inst root va) :=
  (noted_notePieces s _).trans (.foldl noted_errorMet _ _)

theorem noted_kWalked (s : State) (core va n : Nat) : Noted s (kWalked s core va n) := .foldl (fun _ _ => noted_walkMet ..) s _

theorem Noted.coreOf {s t : State} (h : Noted s t) (n : Nat) : coreOf t n = coreOf s n := by
  obtain ⟨_, _, _, _, rfl⟩ := h
  rfl

theorem Noted.mem {s t : State} (h : Noted s t) : t.mem = s.mem := by
  obtain ⟨_, _, _, _, rfl⟩ := h
  rfl

theorem Noted.physByte {s t : State} (h : Noted s t) (pa : Nat) : physByte t pa = physByte s pa := by
  obtain ⟨_, _, _, _, rfl⟩ := h
  rfl

theorem physRead_eq (s : State) (pa n : Nat) : physRead s pa n = (List.range n).map fun i => physByte s (pa + i) := by
  induction n generalizing pa with
  | zero => rfl
  | succ n ih =>
    rw [physRead, ih, List.range_succ_eq_map, List.map_cons, List.map_map]
    refine congrArg₂ _ rfl (List.map_congr_left fun i _ => ?_)
    simp only [Function.comp, Nat.succ_eq_add_one, Nat.add_assoc, Nat.add_comm 1]

theorem Noted.physRead {s t : State} (h : Noted s t) (pa n : Nat) : physRead t pa n = physRead s pa n := by
  simp only [physRead_eq, h.physByte]

theorem dieRead_withNotes (s : State) {log tests next due} (die pa n : Nat) :
    dieRead (withNotes s log tests next due) die pa n = dieRead s die pa n := by
  simp only [dieRead, Noted.physRead ⟨log, tests, next, due, rfl⟩]
  rfl

theorem walk_withNotes (s : State) {log tests next due} (die : Nat) (inst : Bool) (va fuel lvl table : Nat) :
    walk (withNotes s log tests next due) die inst va fuel lvl table = walk s die inst va fuel lvl table := by
  induction fuel generalizing lvl table with
  | zero => rfl
  | succ fuel ih => simp only [walk, dieRead_withNotes, ih]

/-- What a read leaves beside its bytes changes no translation. -/
theorem Noted.kXlate {s t : State} (h : Noted s t) (core : Nat) (c : KCmd) (va : Nat) (rd wr : Bool) : kXlate t core c va rd wr = kXlate s core c va rd wr := by
  obtain ⟨log, tests, next, due, rfl⟩ := h
  have hleaf (root : Nat) : findLeaf (withNotes s log tests next due) core false root va = findLeaf s core false root va := by
    simp only [findLeaf, walkedLeaf, walk_withNotes]
    rfl
  simp only [Machine.kXlate, xlate, hleaf]
  rfl

/-! ### One piece of a copy engine's transfer -/

theorem kPages_single {va n : Nat} (hn : 0 < n) (h : va % 8192 + n ≤ 8192) : kPages va n = [(va, n)] := by
  have hk : min n (8192 - va % 8192) = n := by omega
  rw [kPages, show n / 8192 + 2 = n / 8192 + 1 + 1 from rfl, pieces, if_neg (by omega)]
  simp only [hk, Nat.sub_self]
  rw [pieces, if_pos rfl]

theorem kPieces_single {s : State} {core eng : Nat} {c : KCmd} {rd wr chk wait : Bool} {tier va n pa : Nat} {f : List TlbEnt}
    {ps : List (Nat × Nat)} (hx : kXlate s core c va rd wr = .ok (pa, f)) (h : kPieces s core eng c rd wr chk wait tier [(va, n)] = .ok ps) :
    ps = [(pa, n)] := by
  unfold kPieces at h
  simp only [hx] at h
  split at h
  · cases h
  split at h
  · cases h
  split at h
  · cases h
  cases h
  rfl

/-- What a fetch within a page of memory brings: the bytes that stand there (R333). -/
theorem kFetch_plain {s : State} {core eng : Nat} {c : KCmd} {va n tier pa : Nat} {f : List TlbEnt} {r : List Byte × State} (hn : 0 < n)
    (hp : va % 8192 + n ≤ 8192) (hx : kXlate s core c va true false = .ok (pa, f)) (hw : isWindow pa = false)
    (h : kFetch s core eng c va n tier = .ok r) : r.1 = physRead s pa n ∧ Noted s r.2 := by
  unfold kFetch at h
  rw [kPages_single hn hp] at h
  split at h
  · cases h
  next ps hps =>
  rw [kPieces_single hx hps] at h
  have hu : fetchUnits [(pa, n)] = [(pa, n)] := by simp [fetchUnits, hw]
  simp only [hu] at h
  split at h
  · cases h
  cases h
  have hf (t : State) : fetchUnit t core eng (pa, n) = (physRead t pa n, t) := by
    unfold fetchUnit
    rw [if_pos (by simp [hw])]
  have hN := (noted_notePieces s [(pa, n)]).trans (noted_kWalked _ core va n)
  simp only [List.foldl_cons, List.foldl_nil, hf]
  exact ⟨by rw [List.nil_append, hN.physRead], hN⟩

/-- What a write within a page sends: accesses to its units, one after the other (R333). -/
theorem kWrite_plain {s t : State} {core eng : Nat} {c : KCmd} {va tier pa : Nat} {bs : List Byte} {f : List TlbEnt} {rel : Bool}
    (hn : 0 < bs.length) (hp : va % 8192 + bs.length ≤ 8192) (hx : kXlate s core c va false true = .ok (pa, f))
    (h : kWrite s core eng c va bs tier rel = .ok t) : t.mem = s.mem ∧ (coreOf t core).pend = (coreOf s core).pend ++
      (kSent eng c (writeUnits pa bs.length (bs.length + 1)) bs).map fun a => { a with rel := rel } := by
  unfold kWrite at h
  rw [kPages_single hn hp] at h
  rcases hps : kPieces s core eng c false true false false tier [(va, bs.length)] with e | ps
  · rw [hps] at h; cases h
  rw [hps] at h
  have hps := kPieces_single hx hps
  subst hps
  have hk (l : List Access) (u : State) : (l.foldl (fun st a => kbufPatch st core eng a.pa (natBytes a.size a.data)) u).mem = u.mem ∧
      (coreOf (l.foldl (fun st a => kbufPatch st core eng a.pa (natBytes a.size a.data)) u) core).pend = (coreOf u core).pend := by
    induction l generalizing u with
    | nil => exact ⟨rfl, rfl⟩
    | cons a l ih =>
      obtain ⟨h1, h2⟩ := ih (kbufPatch u core eng a.pa (natBytes a.size a.data))
      rcases kbufPatch_frame u core eng a.pa (natBytes a.size a.data) with e | ⟨b, e⟩
      · rw [List.foldl_cons, h1, h2, e]
        exact ⟨rfl, rfl⟩
      · rw [List.foldl_cons, h1, h2, e]
        exact ⟨rfl, setKbuf_pend ..⟩
  cases h
  simp only [coreOf_setCoreOf_same, setCoreOf_mem, List.flatMap_cons, List.flatMap_nil, List.append_nil]
  obtain ⟨h1, h2⟩ := hk ((kSent eng c (writeUnits pa bs.length (bs.length + 1)) bs).map fun a => { a with rel := rel }) (kWalked s core va bs.length)
  rw [h1, h2, (noted_kWalked s core va bs.length).mem, (noted_kWalked s core va bs.length).coreOf]
  exact ⟨rfl, rfl⟩

/-- The accesses of a write lie within it, and each of its bytes is in one of them (R258, R333). -/
theorem kSent_covers (eng : Nat) (c : KCmd) (fuel : Nat) : ∀ (pa n : Nat) (bs : List Byte), n ≤ fuel →
    (∀ a ∈ kSent eng c (writeUnits pa n fuel) bs, a.kind = .posted eng ∧ pa ≤ a.pa ∧ a.pa + a.size ≤ pa + n) ∧
      ∀ y, y < n → ∃ a ∈ kSent eng c (writeUnits pa n fuel) bs, a.pa ≤ pa + y ∧ pa + y < a.pa + a.size ∧
        BitVec.ofNat 8 (a.data / 2 ^ (8 * (pa + y - a.pa))) = bs.getD y 0 := by
  induction fuel with
  | zero =>
    intro pa n bs hn
    exact ⟨fun a ha => (List.not_mem_nil ha).elim, fun y hy => by omega⟩
  | succ fuel ih =>
    intro pa n bs hn
    by_cases h0 : n = 0
    · rw [writeUnits, if_pos h0]
      exact ⟨fun a ha => (List.not_mem_nil ha).elim, fun y hy => by omega⟩
    obtain ⟨k, hk1, hkn, hk⟩ : ∃ k, 1 ≤ k ∧ k ≤ n ∧ writeUnits pa n (fuel + 1) = (pa, k) :: writeUnits (pa + k) (n - k) fuel := by
      rw [writeUnits, if_neg h0]
      extract_lets wide k
      refine ⟨k, ?_, ?_, rfl⟩
      · simp only [k]
        split <;> omega
      · simp only [k]
        split <;> omega
    rw [hk, kSent]
    obtain ⟨h1, h2⟩ := ih (pa + k) (n - k) (bs.drop k) (by omega)
    refine ⟨fun a ha => ?_, fun y hy => ?_⟩
    · rcases List.mem_cons.1 ha with rfl | ha
      · exact ⟨rfl, Nat.le_refl pa, Nat.add_le_add_left hkn pa⟩
      · obtain ⟨hkind, hlo, hhi⟩ := h1 a ha
        exact ⟨hkind, by omega, by omega⟩
    · by_cases hyk : y < k
      · refine ⟨_, List.mem_cons_self, Nat.le_add_right pa y, Nat.add_lt_add_left hyk pa, ?_⟩
        show BitVec.ofNat 8 (bytesNat (bs.take k) / 2 ^ (8 * (pa + y - pa))) = _
        rw [bytesNat_div_mod, Nat.add_sub_cancel_left]
        simp only [List.getD_eq_getElem?_getD, List.getElem?_take]
        rw [if_pos hyk]
      · obtain ⟨a, ha, hlo, hhi, hd⟩ := h2 (y - k) (by omega)
        rw [show pa + k + (y - k) = pa + y by omega] at hlo hhi hd
        refine ⟨a, List.mem_cons_of_mem _ ha, hlo, hhi, hd.trans ?_⟩
        simp only [List.getD_eq_getElem?_getD, List.getElem?_drop]
        rw [show k + (y - k) = y by omega]

/-- One unit of COPY whose source lies within a page of memory: its bytes are sent, and nothing is written yet (R273, R333, R336). -/
theorem kUnit_copy {s t : State} {core eng lim : Nat} {k k' : KCmd} (h : kUnit s core eng lim k = .ok (t, k')) (ho : fld k.word 26 6 = 6)
    (hp : k.progress < k.value) {pa qa : Nat} {f f' : List TlbEnt}
    (hs : (k.src + k.progress) % 8192 + min (64 - (k.dst + k.progress) % 64) (k.value - k.progress) ≤ 8192)
    (hx : kXlate s core k (k.src + k.progress) true false = .ok (pa, f))
    (hx' : kXlate s core k (k.dst + k.progress) false true = .ok (qa, f')) (hw : isWindow pa = false) :
    k'.progress = k.progress + min (64 - (k.dst + k.progress) % 64) (k.value - k.progress) ∧ t.mem = s.mem ∧
      ∃ sent, (coreOf t core).pend = (coreOf s core).pend ++ sent ∧
        (∀ a ∈ sent, a.kind = .posted eng ∧ qa ≤ a.pa ∧ a.pa + a.size ≤ qa + min (64 - (k.dst + k.progress) % 64) (k.value - k.progress)) ∧
        ∀ y, y < min (64 - (k.dst + k.progress) % 64) (k.value - k.progress) → ∃ a ∈ sent, a.pa ≤ qa + y ∧ qa + y < a.pa + a.size ∧
          BitVec.ofNat 8 (a.data / 2 ^ (8 * (qa + y - a.pa))) = physByte s (pa + y) := by
  have hu : unitCopy s core eng (kHeld core k) k.src k.value 0 0 = .ok (t, k') := by
    have ho' : fld (kHeld core k).word 26 6 = 6 := ho
    unfold kUnit at h
    simp only [ho'] at h
    exact h
  unfold unitCopy at hu
  have hP : (kHeld core k).progress = k.progress := rfl
  have hD : (kHeld core k).dst = k.dst := rfl
  have hX (u : State) (va : Nat) (rd wr : Bool) : kXlate u core (kHeld core k) va rd wr = kXlate u core k va rd wr := rfl
  dsimp only at hu
  rw [hP, hD] at hu
  generalize hn : min (64 - (k.dst + k.progress) % 64) (k.value - k.progress) = n at *
  have hn0 : 0 < n := by omega
  have hr : kReach s core (kHeld core k) true false 0 (kPages (k.src + k.progress) n) = n := by
    rw [kPages_single hn0 hs, kReach]
    simp only [hX, hx]
    rfl
  rw [hr, if_neg (by omega), Nat.min_self] at hu
  rcases hb : kFetch s core eng (kHeld core k) (k.src + k.progress) n 0 with e | r
  · rw [hb] at hu
    cases hu
  rw [hb] at hu
  obtain ⟨hbs, hN⟩ := kFetch_plain hn0 hs ((hX ..).trans hx) hw hb
  rcases hq : kWrite r.2 core eng (kHeld core k) (k.dst + k.progress) r.1 0 with e | s'
  · have hu : (kWrite r.2 core eng (kHeld core k) (k.dst + k.progress) r.1 0 >>= _) = Except.ok (t, k') := hu
    rw [hq] at hu
    cases hu
  have hu : (kWrite r.2 core eng (kHeld core k) (k.dst + k.progress) r.1 0 >>= _) = Except.ok (t, k') := hu
  rw [hq] at hu
  cases hu
  have hl : r.1.length = n := by rw [hbs, physRead_eq, List.length_map, List.length_range]
  obtain ⟨hm, hpend⟩ := kWrite_plain (by omega) (by omega) ((hN.kXlate ..).trans ((hX ..).trans hx')) hq
  rw [hN.mem] at hm
  rw [hN.coreOf, hl] at hpend
  obtain ⟨h1, h2⟩ := kSent_covers eng (kHeld core k) (n + 1) qa n r.1 (by omega)
  refine ⟨rfl, hm, _, hpend, fun a ha => ?_, fun y hy => ?_⟩
  · obtain ⟨b, hb, rfl⟩ := List.mem_map.1 ha
    exact h1 b hb
  · obtain ⟨a, ha, hlo, hhi, hd⟩ := h2 y hy
    refine ⟨_, List.mem_map_of_mem ha, hlo, hhi, hd.trans ?_⟩
    rw [hbs, physRead_eq, List.getD_eq_getElem _ _ (by simpa using hy)]
    simp

end Sys2Proof.Machine
end

-- ==== units of TSTORE ====

section

/-! SUPPORT. The items of a row tile in their linear order, and the words that one unit of a TSTORE sends. -/

namespace Sys2Proof.Machine

/-! ### The linear order of a row tile (R136) -/

/-- The element at place q of a ROW tile's linear order stands at place q of its bits. -/
theorem TileView.bit_lin {v : TileView} (hl : v.layout = 0) (he : v.e = constExts v.w) {q : Nat} (hq : q < v.e.foldl (· * ·) 1) :
    v.bit (v.lin q) 0 = q * v.ew := by
  have hx (k : Nat) (hk : k < 4) : v.ext k = if twRank v.w < k then 1 else twExt v.w k := by
    rw [TileView.ext, he, constExts, List.getD_eq_getElem _ _ (by simpa using hk)]
    simp
  have hn : v.e.foldl (· * ·) 1 = v.ext 0 * v.ext 1 * v.ext 2 * v.ext 3 := by
    rw [hx 0 (by decide), hx 1 (by decide), hx 2 (by decide), hx 3 (by decide), he, constExts]
    simp [List.range_succ]
  have h1 := hx 1 (by decide)
  have h2 := hx 2 (by decide)
  have h3 := hx 3 (by decide)
  rw [hn] at hq
  clear hn
  unfold TileView.bit TileView.lin
  rw [hl]
  by_cases hr : twRank v.w = 0
  · have hi : v.inner = 0 := by simp [TileView.inner, hr]
    rw [if_pos (by omega)] at h1 h2 h3
    rw [h1, h2, h3] at hq
    have hq0 : q / max (v.ext 0) 1 = 0 := Nat.div_eq_of_lt (by omega)
    simp [hi, h1, h2, hq0, Nat.mod_eq_of_lt (show q < max (v.ext 0) 1 by omega)]
  · have hi : v.inner = 1 := by simp [TileView.inner, hr, hl]
    clear h1 h2 h3
    simp only [hi]
    generalize v.ext 0 = e0 at *
    generalize v.ext 1 = e1 at *
    generalize v.ext 2 = e2 at *
    generalize v.ext 3 = e3 at *
    have hpos : 0 < e0 * e1 * e2 * e3 := by omega
    have h0 : 0 < e0 := Nat.pos_of_ne_zero fun h => by simp [h] at hpos
    have h1 : 0 < e1 := Nat.pos_of_ne_zero fun h => by simp [h] at hpos
    have h2 : 0 < e2 := Nat.pos_of_ne_zero fun h => by simp [h] at hpos
    have hm1 : max e1 1 = e1 := by omega
    have hm0 : max e0 1 = e0 := by omega
    have hm2 : max e2 1 = e2 := by omega
    have d1 := Nat.div_add_mod' q e1
    have d0 := Nat.div_add_mod' (q / e1) e0
    have d2 := Nat.div_add_mod' (q / e1 / e0) e2
    simp [hm0, hm1, hm2, d2, d0, d1]

theorem kTotal_dense {k : KCmd} (core : Nat) (ho : fld k.word 26 6 = 1 ∨ fld k.word 26 6 = 2) (hs : twScale (viewOf core k.tile).w = 0) :
    kTotal k = (viewOf core k.tile).e.foldl (· * ·) 1 := by
  have hs' : twScale (viewOf 0 k.tile).w = 0 := hs
  have hl : lineScales (viewOf 0 k.tile) = 0 := by simp [lineScales, hs', scBlock]
  have hb : bandScales (viewOf 0 k.tile) = 0 := by simp [bandScales, hs', scBand, fld]
  unfold kTotal
  rcases ho with ho | ho
  · simp only [ho, hl, hb]
    rfl
  · simp only [ho, hl, hb]
    rfl

/-! ### The items of one unit -/

theorem unitHull_widens (spans : List (Nat × Nat)) (k : Nat) (r : Nat × Nat) : (unitHull spans k r).1 ≤ r.1 ∧ r.2 ≤ (unitHull spans k r).2 := by
  induction k generalizing r with
  | zero => exact ⟨Nat.le_refl _, Nat.le_refl _⟩
  | succ k ih =>
    unfold unitHull
    extract_lets r'
    have hr : r'.1 ≤ r.1 ∧ r.2 ≤ r'.2 := by
      have hf (l : List (Nat × Nat)) (a : Nat × Nat) : (l.foldl (fun (a : Nat × Nat) e =>
          if e.1 < a.2 ∧ a.1 < e.2 then (min a.1 (e.1 / 64 * 64), max a.2 (round64 e.2)) else a) a).1 ≤ a.1 ∧ a.2 ≤ (l.foldl (fun (a : Nat × Nat) e =>
          if e.1 < a.2 ∧ a.1 < e.2 then (min a.1 (e.1 / 64 * 64), max a.2 (round64 e.2)) else a) a).2 := by
        induction l generalizing a with
        | nil => exact ⟨Nat.le_refl _, Nat.le_refl _⟩
        | cons e l ih =>
          rw [List.foldl_cons]
          by_cases hc : e.1 < a.2 ∧ a.1 < e.2
          · rw [if_pos hc]
            obtain ⟨h1, h2⟩ := ih (min a.1 (e.1 / 64 * 64), max a.2 (round64 e.2))
            exact ⟨h1.trans (Nat.min_le_left ..), (Nat.le_max_left ..).trans h2⟩
          · rw [if_neg hc]
            exact ih a
      exact hf spans r
    split
    · exact ⟨Nat.le_refl _, Nat.le_refl _⟩
    · obtain ⟨h1, h2⟩ := ih r'
      exact ⟨h1.trans hr.1, hr.2.trans h2⟩

/-- The items that move with a first one that has bytes: it stands at their head, and the others follow in order (R333). -/
theorem nextItems_head (v : TileView) (load : Bool) (h : Nat × KItem) (t : List (Nat × KItem)) (hs : (h.2.span v load).1 < (h.2.span v load).2) :
    ∃ l, nextItems v load 0 (h :: t) = h :: l ∧ l.Sublist t := by
  rw [nextItems, if_pos rfl, List.take_one, List.head?_cons, Option.toList_some, unitItems, List.foldl_nil]
  dsimp only
  generalize hh : unitHull _ 64 _ = hull
  have hw := unitHull_widens ((h :: t).map fun e => e.2.span v load) 64 ((h.2.span v load).1 / 64 * 64, round64 (h.2.span v load).2)
  rw [hh] at hw
  obtain ⟨h1, h2⟩ := hw
  have hr : (h.2.span v load).2 ≤ round64 (h.2.span v load).2 := by
    unfold round64 ceilDiv
    omega
  dsimp only at h1 h2
  rw [List.filter_cons_of_pos (by rw [Bool.and_eq_true, decide_eq_true_eq, decide_eq_true_eq]; omega)]
  exact ⟨_, rfl, List.filter_sublist⟩

/-- What is left of a command that has moved nothing ahead: its places from its progress on. -/
theorem kLeft_cons {k : KCmd} (ha : k.ahead = []) (hp : k.progress < kTotal k) :
    kLeft k = k.progress :: (List.range (kTotal k - k.progress - 1)).map fun i => k.progress + 1 + i := by
  have hr : kTotal k - k.progress = (kTotal k - k.progress - 1) + 1 := by omega
  unfold kLeft
  rw [ha, hr, List.range_succ_eq_map, List.map_cons, List.map_map, List.filter_eq_self.2 (by simp)]
  simp only [Nat.add_zero, Function.comp_def, Nat.succ_eq_add_one, Nat.add_sub_cancel, Nat.add_assoc, Nat.add_comm 1]

/-- A place of a dense command without scales is an element, against the window's element (R270). -/
theorem typedItem_elt {k : KCmd} {v : TileView} {q : Nat} (hq : q < v.e.foldl (· * ·) 1) :
    typedItem k v q = eltItem v (v.lin q) (winElt (winRec k.wrec) (winIndex k (fld k.word 3 1 == 1) (v.lin q))) := by
  unfold typedItem
  extract_lets r n j con
  rw [if_pos hq]

/-- The first of a list's runs begins with the list's first item, and the runs follow one another (R333). -/
theorem itemRuns_cons (x : Nat × KItem) (xs : List (Nat × KItem)) : ∃ tl rs, itemRuns (x :: xs) = (x :: tl) :: rs := by
  unfold itemRuns
  split
  · split
    · exact ⟨_, _, rfl⟩
    · exact ⟨_, _, rfl⟩
  · exact ⟨_, _, rfl⟩

theorem itemRuns_flatten (l : List (Nat × KItem)) : (itemRuns l).flatten = l := by
  induction l with
  | nil => rfl
  | cons x xs ih =>
    unfold itemRuns
    split
    · next h =>
      rw [h] at ih
      split <;> simp [← ih]
    · simp [ih]

/-- A run of several items lies within the page of its first one. -/
def InPage (w : Nat) (run : List (Nat × KItem)) : Prop :=
  ∀ x y tl, run = x :: y :: tl → (x.2.mem + w * run.length - 1) / 65536 = x.2.mem / 65536

theorem itemRuns_inPage {w : Nat} (hw : 0 < w) (l : List (Nat × KItem)) (hl : ∀ e ∈ l, e.2.bits = w) : ∀ run ∈ itemRuns l, InPage w run := by
  induction l with
  | nil => exact fun run h => (List.not_mem_nil h).elim
  | cons x xs ih =>
    have ih := ih fun e he => hl e (List.mem_cons_of_mem _ he)
    have hone (e : Nat × KItem) : InPage w [e] := fun _ _ _ h => by simp at h
    unfold itemRuns
    split
    · next y ys rs h =>
      rw [h] at ih
      have hy : y.2.bits = w := by
        refine hl y (List.mem_cons_of_mem _ ?_)
        rw [← itemRuns_flatten xs, h]
        simp
      split
      · next hc =>
        rintro run hrun
        rcases List.mem_cons.1 hrun with rfl | hrun
        · rintro a b tl ⟨⟩
          obtain ⟨h1, h2, h3⟩ := hc
          rw [hl x (by simp)] at h1
          rw [hy] at h3
          simp only [List.length_cons]
          cases ys with
          | nil =>
            simp only [List.length_nil]
            omega
          | cons z zs =>
            have := ih _ List.mem_cons_self y z zs rfl
            simp only [List.length_cons, Nat.mul_succ] at this ⊢
            have hp : y.2.mem / 65536 = x.2.mem / 65536 := by
              have h4 : x.2.mem / 65536 ≤ y.2.mem / 65536 := Nat.div_le_div_right (by omega)
              have h5 : y.2.mem / 65536 ≤ (y.2.mem + w - 1) / 65536 := Nat.div_le_div_right (by omega)
              omega
            rw [← hp, ← this, h1]
            congr 1
            omega
        · exact ih run (List.mem_cons_of_mem _ hrun)
      · rintro run hrun
        rcases List.mem_cons.1 hrun with rfl | hrun
        · exact hone x
        · exact ih run hrun
    · rintro run hrun
      rcases List.mem_cons.1 hrun with rfl | hrun
      · exact hone x
      · exact ih run hrun

/-! ### TSTORE of one element -/

theorem joinAll_single (a : Access) : joinAll [a] = [a] := by
  simp [joinAll, joinUnits]

/-- The bytes of one whole code. -/
theorem mergeCodes_word (fmt : Nat) {c : Nat} (hc : c < 2 ^ 32) : bytesNat (mergeCodes fmt 0 32 0 (natBytes 4 0) [c]).1 = c := by
  refine eq_of_testBit_lt (n := 32) ?_ hc fun i hi => ?_
  · refine (bytesNat_lt _).trans_le (Nat.pow_le_pow_right (by decide) ?_)
    simp [mergeCodes, natBytes_length]
  · rw [testBit_bytesNat]
    simp only [mergeCodes, List.mapIdx_cons, List.mapIdx_nil, if_true, List.foldl_cons, List.foldl_nil, natBytes_length]
    rw [getLsbD_natBytes _ (by omega), testBit_patchBits, if_pos (by omega)]
    simp

theorem writeUnits_word {pa : Nat} (h : pa % 4 = 0) : writeUnits pa 4 5 = [(pa, 4)] := by
  have hk (b : Bool) : (if b = true then min 4 (64 - pa % 64) else min 4 (8 - pa % 8)) = 4 := by
    cases b <;> simp <;> omega
  unfold writeUnits
  rw [if_neg (by decide)]
  extract_lets wide k
  have hk' : k = 4 := hk wide
  rw [hk']
  rfl

theorem sentSince_one {s t : State} {core : Nat} {a : Access} (h : (coreOf t core).pend = (coreOf s core).pend ++ [a]) :
    (coreOf (sentSince s t core) core).pend = (coreOf s core).pend ++ [a] := by
  unfold sentSince
  extract_lets n c
  rw [coreOf_setCoreOf_same]
  show c.pend.take n ++ joinAll (c.pend.drop n) = _
  rw [show c.pend = (coreOf s core).pend ++ [a] from h, List.take_left, List.drop_left, joinAll_single]

/-- A write within a page that translates is sent, whatever it meets later (R333, R336). -/
theorem kWrite_sent {s : State} {core eng : Nat} {c : KCmd} {va pa : Nat} {bs : List Byte} {f : List TlbEnt} {rel : Bool}
    (hn : 0 < bs.length) (hp : va % 8192 + bs.length ≤ 8192) (hx : kXlate s core c va false true = .ok (pa, f)) :
    ∃ t, kWrite s core eng c va bs 0 rel = .ok t := by
  have hps : kPieces s core eng c false true false false 0 [(va, bs.length)] = .ok [(pa, bs.length)] := by
    unfold kPieces
    simp only [hx]
    rfl
  unfold kWrite
  rw [kPages_single hn hp, hps]
  exact ⟨_, rfl⟩

/-- An element stored whole sends one access of its code (R271, R333). -/
theorem storeItems_one {s t : State} {core eng p pa : Nat} {v : TileView} {c k' : KCmd} {it : KItem} {f : List TlbEnt}
    (h : storeItems s core eng v 0 c [(p, it)] = .ok (t, k')) (hb : itemBad s v it = none) (ho : c.old = []) (hw : it.bits = 32) (hm : it.mem % 32 = 0)
    (hx : kXlate s core c (it.mem / 8) false true = .ok (pa, f)) (hpa : pa % 4 = 0) (hlt : itemCode s v it < 2 ^ 32) :
    t.mem = s.mem ∧ ∃ a, (coreOf t core).pend = (coreOf s core).pend ++ [a] ∧ a.kind = .posted eng ∧ a.pa = pa ∧ a.size = 4 ∧ a.hole = 0 ∧
      a.data = itemCode s v it := by
  have hold : asRead s core [] = s := rfl
  have hr : itemRuns [(p, it)] = [[(p, it)]] := rfl
  have hm8 : it.mem % 8 = 0 := by omega
  unfold storeItems at h
  rw [List.takeWhile_cons_of_pos (by simp [hb]), List.takeWhile_nil, ho] at h
  dsimp only at h
  rw [hold, hr] at h
  have hwhole : ([[(p, it)]].all fun run => run.all fun e => e.2.mem % 8 == 0 && e.2.bits % 8 == 0) = true := by simp [hm8, hw]
  rw [hwhole] at h
  generalize hcode : itemCode s v it = code at *
  have hk : kStoreCodes s core eng c true (it.mem / 8) (it.mem % 8) it.bits v.fmt 0 [code] =
      (kWrite s core eng c (it.mem / 8) (mergeCodes v.fmt 0 32 0 (natBytes 4 0) [code]).1 0).map fun st => (st, c) := by
    unfold kStoreCodes
    rw [hm8, hw]
    extract_lets n
    have hn : n = 4 := by simp [n]
    rw [if_pos (show (0 : Nat) = 0 ∧ true = true from ⟨rfl, rfl⟩), hn]
  have hl : (mergeCodes v.fmt 0 32 0 (natBytes 4 0) [code]).1.length = 4 := by simp [mergeCodes, natBytes_length]
  obtain ⟨s1, hq⟩ := kWrite_sent (eng := eng) (rel := false) (bs := (mergeCodes v.fmt 0 32 0 (natBytes 4 0) [code]).1) (by omega) (by omega) hx
  rw [hq] at hk
  have hs : storeRuns core eng v 0 true (itemCode s v) s c [[(p, it)]] = .ok (s1, kMoved c [p]) := by
    simp only [storeRuns, List.head?_cons, Option.map_some, Option.getD_some, List.map_cons, List.map_nil, hcode, hk, Except.map]
  rw [hs] at h
  cases h
  obtain ⟨h1, h2⟩ := kWrite_plain (by omega) (by omega) hx hq
  rw [hl, writeUnits_word hpa] at h2
  refine ⟨h1, _, sentSince_one h2, rfl, rfl, rfl, rfl, ?_⟩
  show bytesNat ((mergeCodes v.fmt 0 32 0 (natBytes 4 0) [code]).1.take 4) = code
  rw [List.take_of_length_le (by omega), mergeCodes_word _ hlt]

/-- One TSTORE unit that holds the last element of a dense tile (R271, R333). -/
theorem kUnit_tstore {s t : State} {core eng lim : Nat} {k k' : KCmd} (h : kUnit s core eng lim k = .ok (t, k')) (ho : fld k.word 26 6 = 2)
    (hr : fld k.word 4 2 = 0) (hl : (viewOf core k.tile).layout = 0) (hs : twScale (viewOf core k.tile).w = 0)
    (hw : fmtWidth (viewOf core k.tile).fmt = 32) (ha : k.ahead = []) (hold : k.old = []) (hp : k.progress + 1 = kTotal k)
    {va b pa : Nat} {f : List TlbEnt}
    (hat : winElt (winRec k.wrec) (winIndex k (fld k.word 3 1 == 1) ((viewOf core k.tile).lin k.progress)) = (va, b)) (h4 : va % 4 = 0) (h0 : b = 0)
    (hpa : pa % 4 = 0) (hx : kXlate s core k va false true = .ok (pa, f)) (hb : eltsBad s (viewOf core k.tile) [(viewOf core k.tile).lin k.progress] = none) :
    t.mem = s.mem ∧ ∃ a, (coreOf t core).pend = (coreOf s core).pend ++ [a] ∧ a.kind = .posted eng ∧ a.pa = pa ∧ a.size = 4 ∧ a.hole = 0 ∧
      a.data = (viewOf core k.tile).code s ((viewOf core k.tile).lin k.progress) := by
  have hk : kHeld core k = k := by
    cases k
    subst hold
    rfl
  have hu : unitTyped s core eng k = .ok (t, k') := by
    unfold kUnit at h
    rw [hk] at h
    simp only [ho] at h
    exact h
  have hn := kTotal_dense core (.inr ho) hs
  subst h0
  generalize hv : viewOf core k.tile = v at *
  have hit : typedItem k v k.progress = eltItem v (v.lin k.progress) (va, 0) := by
    rw [typedItem_elt (by omega), hat]
  have hspan : ((typedItem k v k.progress).span v false).1 < ((typedItem k v k.progress).span v false).2 := by
    rw [hit]
    simp only [eltItem, KItem.span, TileView.ew, hw, ceilDiv]
    simp only [Bool.false_eq_true, if_false]
    omega
  obtain ⟨l, hl', hsub⟩ := nextItems_head v false (k.progress, typedItem k v k.progress) [] hspan
  have hleft : kLeft k = [k.progress] := by
    rw [kLeft_cons ha (by omega), show kTotal k - k.progress - 1 = 0 by omega]
    rfl
  have hst : storeItems s core eng v 0 k [(k.progress, typedItem k v k.progress)] = .ok (t, k') := by
    unfold unitTyped at hu
    rw [List.sublist_nil.1 hsub] at hl'
    simp only [hv, ho, hr, hleft, List.map_cons, List.map_nil] at hu
    rw [show ((2 : Nat) == 1) = false from rfl] at hu
    simp only [Bool.false_eq_true, if_false, hl'] at hu
    exact hu
  have hm : (typedItem k v k.progress).mem = 8 * va := by rw [hit]; rfl
  have hc : itemCode s v (typedItem k v k.progress) = v.code s (v.lin k.progress) := by rw [hit]; rfl
  rw [← hc]
  refine storeItems_one hst ?_ hold ?_ (by omega) (by rw [hm, Nat.mul_div_cancel_left _ (by decide)]; exact hx) hpa ?_
  · rw [hit]
    exact hb
  · rw [hit]
    exact hw
  · rw [hc]
    exact (v.code_lt s _).trans_eq (by rw [TileView.ew, hw])

end Sys2Proof.Machine
end

-- ==== units of TLOAD ====

section

/-! SUPPORT. What a TLOAD's reads leave alone, and the elements that one unit of it writes. -/

namespace Sys2Proof.Machine

/-! ### What a TLOAD's reads leave alone -/

/-- Memory, the dies, and a core's context and scratchpad stay. -/
structure ReadKeeps (core : Nat) (s t : State) : Prop where
  mem : t.mem = s.mem
  dies : t.dies = s.dies
  ctx : (coreOf t core).ctx = (coreOf s core).ctx
  spad : (coreOf t core).spad = (coreOf s core).spad

theorem ReadKeeps.refl (core : Nat) (s : State) : ReadKeeps core s s := ⟨rfl, rfl, rfl, rfl⟩

theorem ReadKeeps.trans {core : Nat} {s t u : State} (h : ReadKeeps core s t) (h' : ReadKeeps core t u) : ReadKeeps core s u :=
  ⟨h'.mem.trans h.mem, h'.dies.trans h.dies, h'.ctx.trans h.ctx, h'.spad.trans h.spad⟩

theorem Noted.readKeeps {s t : State} (h : Noted s t) (core : Nat) : ReadKeeps core s t := by
  obtain ⟨_, _, _, _, rfl⟩ := h
  exact ⟨rfl, rfl, rfl, rfl⟩

theorem readKeeps_setKbuf (s : State) (core : Nat) (b : List (Nat × Byte)) : ReadKeeps core s (setKbuf s core b) :=
  ⟨rfl, rfl, setKbuf_ctx .., setKbuf_spad ..⟩

theorem readKeeps_fetchUnit (s : State) (core eng : Nat) (u : Nat × Nat) : ReadKeeps core s (fetchUnit s core eng u).2 := by
  unfold fetchUnit
  split
  · exact .refl ..
  · extract_lets c own bs left base rest
    dsimp only
    split
    · exact readKeeps_setKbuf ..
    · split
      · exact .refl ..
      · exact readKeeps_setKbuf ..

theorem readKeeps_kFetch {s : State} {core eng : Nat} {c : KCmd} {va n tier : Nat} {r : List Byte × State}
    (h : kFetch s core eng c va n tier = .ok r) : ReadKeeps core s r.2 := by
  unfold kFetch at h
  split at h
  · cases h
  next ps _ =>
  extract_lets us at h
  split at h
  · cases h
  cases h
  have hf (us : List (Nat × Nat)) (bs : List Byte) (t : State) : ReadKeeps core t
      (us.foldl (fun acc u => let r := fetchUnit acc.2 core eng u; (acc.1 ++ r.1, r.2)) (bs, t)).2 := by
    induction us generalizing bs t with
    | nil => exact .refl ..
    | cons u us ih => exact (readKeeps_fetchUnit t core eng u).trans (ih _ _)
  exact ((noted_notePieces s ps).trans (noted_kWalked _ core va n)).readKeeps core |>.trans (hf us [] _)

theorem stagedLines_keeps {s t : State} {core : Nat} (h : ReadKeeps core s t) (c : KCmd) : stagedLines t core c = stagedLines s core c := by
  unfold stagedLines dieOf
  rw [h.ctx, h.dies]

theorem kReadStaged_none {s : State} {core eng : Nat} {c : KCmd} (h : stagedLines s core c = []) (va n : Nat) :
    kReadStaged s core eng c va n = kFetch s core eng c va n 0 := by
  unfold kReadStaged
  simp only [h, List.isEmpty_nil, if_true]

/-- Within a page that translates, a fetch stops only for an error in the data or to wait (R267, R268). -/
theorem kFetch_error {s : State} {core eng : Nat} {c : KCmd} {va n pa : Nat} {f : List TlbEnt} {e : KStop} (hn : 0 < n)
    (hp : va % 8192 + n ≤ 8192) (hx : kXlate s core c va true false = .ok (pa, f)) (h : kFetch s core eng c va n 0 = .error e) (w : Word) :
    e ≠ .park w := by
  unfold kFetch at h
  rw [kPages_single hn hp] at h
  split at h
  · next e' he =>
    cases h
    unfold kPieces at he
    simp only [hx] at he
    split at he
    · next ht => cases ht
    split at he
    · cases he; exact KStop.noConfusion
    split at he
    · cases he; exact KStop.noConfusion
    · cases he
  · extract_lets us at h
    split at h
    · cases h; exact KStop.noConfusion
    · cases h

/-! ### The runs of a load -/

theorem map_mapIdx_keys {α β γ : Type} (f : Nat → γ) (l : List (α × β)) :
    ((l.mapIdx fun k e => (e.1, e.2, f k)).map fun e => (e.1, e.2.1)) = l :=
  List.ext_getElem (by simp) fun i h1 h2 => by simp

/-- A load keeps what its reads keep, and its codes are those of the first items of its runs (R267, R268). -/
theorem loadRuns_keeps {core : Nat} {read : State → Nat → Nat → Except KStop (List Byte × State)} {P : State → Prop}
    (hread : ∀ st va n r, P st → read st va n = .ok r → ReadKeeps core st r.2 ∧ P r.2) (runs : List (List (Nat × KItem))) (s : State) (hs : P s)
    (r : List (Nat × KItem × Nat) × State) (h : loadRuns read s runs = .ok r) :
    ReadKeeps core s r.2 ∧ (r.1.map fun e => (e.1, e.2.1)) <+: runs.flatten := by
  induction runs generalizing s r with
  | nil =>
    cases h
    exact ⟨.refl .., List.nil_prefix⟩
  | cons run rest ih =>
    unfold loadRuns at h
    extract_lets m w at h
    split at h
    · cases h
    next bs s1 hbs =>
    obtain ⟨hk, hP⟩ := hread _ _ _ _ hs hbs
    extract_lets codes at h
    have hc : (codes.map fun e => (e.1, e.2.1)) = run := map_mapIdx_keys (fun k => elt w (bytesNat bs / 2 ^ (m % 8)) k) run
    split at h
    · next r' hr' =>
      cases h
      obtain ⟨h1, h2⟩ := ih s1 hP r' hr'
      refine ⟨hk.trans h1, ?_⟩
      rw [List.map_append, hc, List.flatten_cons]
      exact (List.prefix_append_right_inj run).2 h2
    · cases h
    · cases h
      exact ⟨hk, by rw [hc, List.flatten_cons]; exact List.prefix_append ..⟩

/-- The first run of a load that ends well was read, and its codes stand first. -/
theorem loadRuns_first {read : State → Nat → Nat → Except KStop (List Byte × State)} {s : State} {x : Nat × KItem} {tl : List (Nat × KItem)}
    {rest : List (List (Nat × KItem))} {r : List (Nat × KItem × Nat) × State} (h : loadRuns read s ((x :: tl) :: rest) = .ok r) :
    ∃ bs s1 more, read s (x.2.mem / 8) ((x.2.mem % 8 + (x :: tl).length * x.2.bits + 7) / 8) = .ok (bs, s1) ∧
      r.1 = (x.1, x.2, elt x.2.bits (bytesNat bs / 2 ^ (x.2.mem % 8)) 0) :: more := by
  unfold loadRuns at h
  extract_lets m w at h
  split at h
  · cases h
  next bs s1 hbs =>
  extract_lets codes at h
  obtain ⟨more, hc⟩ : ∃ more, codes = (x.1, x.2, elt x.2.bits (bytesNat bs / 2 ^ (x.2.mem % 8)) 0) :: more := ⟨_, List.mapIdx_cons⟩
  split at h
  · next r' _ =>
    cases h
    exact ⟨bs, s1, more ++ r'.1, hbs, by rw [hc]; rfl⟩
  · cases h
  · cases h
    exact ⟨bs, s1, more, hbs, hc⟩

/-- A load fails as its first read does, or to wait. -/
theorem loadRuns_error {read : State → Nat → Nat → Except KStop (List Byte × State)} {s : State} {x : Nat × KItem} {tl : List (Nat × KItem)}
    {rest : List (List (Nat × KItem))} {e : KStop} (h : loadRuns read s ((x :: tl) :: rest) = .error e) :
    read s (x.2.mem / 8) ((x.2.mem % 8 + (x :: tl).length * x.2.bits + 7) / 8) = .error e ∨ e = .wait := by
  unfold loadRuns at h
  extract_lets m w at h
  split at h
  · next e' he =>
    cases h
    exact .inl he
  · extract_lets codes at h
    split at h
    · cases h
    · cases h
      exact .inr rfl
    · cases h

/-- A load whose first read fails, other than at a page that does not translate, fails. -/
theorem loadItems_ok {v : TileView} {eng : Nat} {read : State → Nat → Nat → Except KStop (List Byte × State)} {s t : State} {c k' : KCmd}
    {its : List (Nat × KItem)} (h : loadItems v eng read s c its = .ok (t, k')) (hp : ∀ w, loadRuns read s (itemRuns its) ≠ .error (.park w)) :
    ∃ r, loadRuns read s (itemRuns its) = .ok r ∧ t = putItems v eng r.2 r.1 ∧ k' = kMoved c (r.1.map Prod.fst) := by
  unfold loadItems at h
  split at h
  · next r hr => cases h; exact ⟨r, hr, rfl, rfl⟩
  · next w _ hr _ => exact absurd hr (hp w)
  · cases h

theorem kMoved_progress (c : KCmd) (qs : List Nat) : c.progress ≤ (kMoved c qs).progress := by
  unfold kMoved
  induction qs generalizing c with
  | nil => exact Nat.le_refl _
  | cons q qs ih =>
    rw [List.foldl_cons]
    refine Nat.le_trans ?_ (ih _)
    split
    · next h => exact Nat.le_of_lt (h ▸ Nat.lt_succ_self q)
    · exact Nat.le_refl _

theorem kMoved_first (c : KCmd) (qs : List Nat) : c.progress < (kMoved c (c.progress :: qs)).progress := by
  have := kMoved_progress { c with progress := c.progress + 1 } qs
  unfold kMoved at this ⊢
  rw [List.foldl_cons, if_pos rfl]
  exact this

/-! ### The elements of a load in its tile -/

theorem kbufFollow_frame (s : State) (core eng off n : Nat) : kbufFollow s core eng off n = s ∨ ∃ b, kbufFollow s core eng off n = setKbuf s core b := by
  unfold kbufFollow
  split
  · exact .inl rfl
  · exact kbufPatch_frame ..

/-- What an engine keeps is no part of a core's storage. -/
theorem storeByte_setKbuf (s : State) (core : Nat) (b : List (Nat × Byte)) : storeByte (coreOf (setKbuf s core b) core) = storeByte (coreOf s core) := by
  unfold setKbuf
  rw [coreOf_setCoreOf_same]
  rfl

theorem kbufFollows_keep (core eng : Nat) (g : Nat × KItem × Nat → Nat × Nat) (its : List (Nat × KItem × Nat)) (s : State) :
    (its.foldl (fun st e => kbufFollow st core eng (g e).1 (g e).2) s).mem = s.mem ∧
      storeByte (coreOf (its.foldl (fun st e => kbufFollow st core eng (g e).1 (g e).2) s) core) = storeByte (coreOf s core) ∧
      (coreOf (its.foldl (fun st e => kbufFollow st core eng (g e).1 (g e).2) s) core).spad = (coreOf s core).spad := by
  induction its generalizing s with
  | nil => exact ⟨rfl, rfl, rfl⟩
  | cons e its ih =>
    obtain ⟨h1, h2, h3⟩ := ih (kbufFollow s core eng (g e).1 (g e).2)
    rw [List.foldl_cons, h1, h2, h3]
    rcases kbufFollow_frame s core eng (g e).1 (g e).2 with h | ⟨b, h⟩ <;> rw [h]
    · exact ⟨rfl, rfl, rfl⟩
    · exact ⟨rfl, storeByte_setKbuf .., setKbuf_spad ..⟩

/-- Items that are all elements: their codes are put, and nothing else of memory or of the storage changes. -/
theorem putItems_elts {v : TileView} (eng : Nat) (s : State) {its : List (Nat × KItem × Nat)} (h : ∀ e ∈ its, e.2.1.elt = some (v.lin e.1)) :
    (putItems v eng s its).mem = (v.put s (its.map fun e => (v.lin e.1, e.2.2))).mem ∧
      storeByte (coreOf (putItems v eng s its) v.core) = storeByte (coreOf (v.put s (its.map fun e => (v.lin e.1, e.2.2))) v.core) ∧
      (coreOf (putItems v eng s its) v.core).spad = (coreOf (v.put s (its.map fun e => (v.lin e.1, e.2.2))) v.core).spad := by
  have h1 : (its.filter fun e => e.2.1.elt.isNone) = [] := List.filter_eq_nil_iff.2 fun e he => by simp [h e he]
  have h2 : (its.filterMap fun e => e.2.1.elt.map fun i => (i, e.2.2)) = its.map fun e => (v.lin e.1, e.2.2) := by
    rw [← List.filterMap_eq_map]
    exact List.filterMap_congr fun e he => by simp [h e he]
  unfold putItems
  rw [h1, h2, List.foldl_nil]
  exact kbufFollows_keep v.core eng (fun e => (v.off + e.2.1.lo, e.2.1.hi - e.2.1.lo)) its _

/-- The scratchpad outside a tile's first n bytes stays when elements within them are written. -/
theorem TileView.spad_put {v : TileView} (s : State) {cs : List (List Nat × Nat)} {n : Nat} (h : ∀ f ∈ v.fields cs, f.1 + f.2.1 ≤ 8 * n) (y : Nat)
    (hy : y < v.off ∨ v.off + n ≤ y) : memGet (coreOf (v.put s cs) v.core).spad y = memGet (coreOf s v.core).spad y := by
  by_cases hn : v.fields cs = []
  · rw [TileView.put_none hn]
  obtain ⟨hit, e⟩ := TileView.put_some (s := s) hn
  have hhi := endByte_le h
  have hlen (x : Nat) := natBytes_length (endByte (v.fields cs) - firstByte (v.fields cs)) x
  rw [e]
  generalize patches _ _ _ = x at *
  have hc (bs : List Byte) (off : Nat) : coreOf (coreStoreAt s v.core off bs hit) v.core = coreOf (coreBytes s v.core off bs) v.core := rfl
  rw [hc]
  unfold coreBytes
  extract_lets c
  rw [coreOf_setCoreOf_same]
  split
  · show memGet (memBlock c.spad _ _) y = _
    rw [memGet_memBlock, hlen, if_neg (by omega)]
  · obtain ⟨rs, e⟩ := accBytes_frame c (v.off + firstByte (v.fields cs) - 0x200000) ((natBytes (endByte (v.fields cs) - firstByte (v.fields cs)) x).length + 1)
      (natBytes (endByte (v.fields cs) - firstByte (v.fields cs)) x)
    rw [e]

/-- The first word of bytes read. -/
theorem elt_physRead (s : State) (pa : Nat) {n : Nat} (h : 4 ≤ n) : elt 32 (bytesNat (physRead s pa n) / 2 ^ 0) 0 = physNat s pa 4 := by
  rw [elt, Nat.mul_zero, Nat.pow_zero, Nat.div_one, Nat.div_one]
  refine eq_of_testBit_lt (Nat.mod_lt _ (Nat.two_pow_pos 32)) ((bytesNat_lt _).trans_eq (by simp [physRead_eq])) fun i hi => ?_
  rw [Nat.testBit_mod_two_pow, decide_eq_true hi, Bool.true_and, testBit_bytesNat, physNat, testBit_bytesNat]
  congr 1
  rw [physRead_eq, physRead_eq, List.getD_eq_getElem _ _ (by simp; omega), List.getD_eq_getElem _ _ (by simp; omega)]
  simp

/-- A list of items that a unit loads: places of the tile in order, each with its item. -/
def ItemsOf (c : KCmd) (v : TileView) (its : List (Nat × KItem)) : Prop :=
  (∀ e ∈ its, e.1 < v.e.foldl (· * ·) 1 ∧ e.2 = typedItem c v e.1) ∧ its.Pairwise fun a b => a.1 < b.1

theorem ItemsOf.sublist {c : KCmd} {v : TileView} {l its : List (Nat × KItem)} (h : ItemsOf c v its) (hl : l.Sublist its) : ItemsOf c v l :=
  ⟨fun e he => h.1 e (hl.subset he), h.2.sublist hl⟩

/-- The items of the next unit of a dense command that has moved nothing ahead: its next place first. -/
theorem nextItems_dense {c : KCmd} {v : TileView} (ha : c.ahead = []) (hn : kTotal c = v.e.foldl (· * ·) 1) (hp : c.progress < kTotal c)
    (hw : fmtWidth v.fmt = 32) (hl : v.layout = 0) (he : v.e = constExts v.w) :
    ∃ l, nextItems v true 0 ((kLeft c).map fun q => (q, typedItem c v q)) = (c.progress, typedItem c v c.progress) :: l ∧
      ItemsOf c v ((c.progress, typedItem c v c.progress) :: l) := by
  have hspan : ((typedItem c v c.progress).span v true).1 < ((typedItem c v c.progress).span v true).2 := by
    have hbit := TileView.bit_lin hl he (hn ▸ hp)
    rw [typedItem_elt (hn ▸ hp)]
    simp only [eltItem, KItem.span, eltSpan, hl, hbit, TileView.ew, hw, if_true, ceilDiv]
    simp only [show ¬ (0 : Nat) = 2 by decide, if_false]
    omega
  rw [kLeft_cons ha hp, List.map_cons]
  obtain ⟨l, h1, h2⟩ := nextItems_head v true (c.progress, typedItem c v c.progress) _ hspan
  refine ⟨l, h1, fun e hm => ?_, ?_⟩
  · rcases List.mem_cons.1 hm with rfl | hm
    · exact ⟨hn ▸ hp, rfl⟩
    · obtain ⟨q, hq, rfl⟩ := List.mem_map.1 (h2.subset hm)
      obtain ⟨i, hi, rfl⟩ := List.mem_map.1 hq
      have := List.mem_range.1 hi
      exact ⟨by dsimp only; omega, rfl⟩
  · have hs := List.Sublist.cons_cons (c.progress, typedItem c v c.progress) h2
    refine List.Pairwise.sublist hs (List.pairwise_cons.2 ⟨fun e hm => ?_, List.pairwise_map.2 (List.pairwise_map.2 ?_)⟩)
    · obtain ⟨q, hq, rfl⟩ := List.mem_map.1 hm
      obtain ⟨i, -, rfl⟩ := List.mem_map.1 hq
      dsimp only
      omega
    · exact List.pairwise_lt_range.imp fun h => by dsimp only; omega

/-- Words loaded into a dense tile in the scratchpad: the first one's element reads as its code, and nothing outside the tile changes (R136, R270). -/
theorem putItems_dense {c : KCmd} {v : TileView} (eng : Nat) (s : State) {e : Nat × KItem × Nat} {its : List (Nat × KItem × Nat)}
    (hits : ItemsOf c v ((e :: its).map fun e => (e.1, e.2.1))) (hw : fmtWidth v.fmt = 32) (hl : v.layout = 0) (he : v.e = constExts v.w)
    (hfit : v.off + 4 * v.e.foldl (· * ·) 1 ≤ 0x200000) :
    (putItems v eng s (e :: its)).mem = s.mem ∧ v.code (putItems v eng s (e :: its)) (v.lin e.1) = e.2.2 % 2 ^ 32 ∧
      ∀ y, y < v.off ∨ v.off + 4 * v.e.foldl (· * ·) 1 ≤ y →
        memGet (coreOf (putItems v eng s (e :: its)) v.core).spad y = memGet (coreOf s v.core).spad y := by
  obtain ⟨hmem, hord⟩ := hits
  have hq : ∀ d ∈ e :: its, d.1 < v.e.foldl (· * ·) 1 ∧ d.2.1 = typedItem c v d.1 := fun d hd => hmem _ (List.mem_map_of_mem hd)
  have hbit : ∀ d ∈ e :: its, v.bit (v.lin d.1) 0 = d.1 * 32 := fun d hd => by
    have := TileView.bit_lin hl he (hq d hd).1
    rwa [TileView.ew, hw] at this
  have helt : ∀ d ∈ e :: its, d.2.1.elt = some (v.lin d.1) := fun d hd => by
    rw [(hq d hd).2, typedItem_elt (hq d hd).1]
    rfl
  obtain ⟨h1, h2, h3⟩ := putItems_elts eng s helt
  have hd2 : v.layout ≠ 2 := by omega
  have hew : v.ew = 32 := hw
  have hfields : ∀ f ∈ v.fields ((e :: its).map fun e => (v.lin e.1, e.2.2)), f.1 + f.2.1 ≤ 8 * (4 * v.e.foldl (· * ·) 1) := fun f hf => by
    rw [TileView.fields_of_dense hd2, List.map_map] at hf
    obtain ⟨d, hd, rfl⟩ := List.mem_map.1 hf
    have := (hq d hd).1
    simp only [Function.comp, hbit d hd, hew]
    omega
  refine ⟨h1.trans (TileView.put_frame ..).1, ?_, fun y hy => ?_⟩
  · rw [TileView.code_congr v h2, ← hew]
    refine TileView.code_put_mem hd2 s (.inr fun f hf => ?_) (List.pairwise_map.2 ?_) (c := (v.lin e.1, e.2.2)) (List.mem_map_of_mem List.mem_cons_self)
    · have := hfields f hf
      omega
    · refine List.Pairwise.imp_of_mem (fun {a b} ha hb hab => ?_) (List.pairwise_map.1 hord)
      unfold TileView.Beside
      dsimp only
      rw [hbit a ha, hbit b hb, hew]
      dsimp only at hab
      omega
  · rw [h3]
    exact TileView.spad_put s hfields y hy

/-- The read of a load's first run: it lies within the page of its first word (R267, R333). -/
theorem firstRun_inPage {x : Nat × KItem} {tl xs : List (Nat × KItem)} {rs : List (List (Nat × KItem))} (hr : itemRuns (x :: xs) = (x :: tl) :: rs)
    (hb : ∀ e ∈ x :: xs, e.2.bits = 32) (hm : x.2.mem % 32 = 0) :
    ∃ n, 4 ≤ n ∧ (x.2.mem % 8 + (x :: tl).length * x.2.bits + 7) / 8 = n ∧ x.2.mem / 8 % 8192 + n ≤ 8192 := by
  have hx := hb x List.mem_cons_self
  refine ⟨4 * (x :: tl).length, by simp, by rw [hx]; omega, ?_⟩
  have hp := itemRuns_inPage (w := 32) (by decide) _ hb (x :: tl) (by simp [hr])
  cases tl with
  | nil => simp only [List.length_cons, List.length_nil]; omega
  | cons y ys =>
    have := hp x y ys rfl
    simp only [List.length_cons] at this ⊢
    omega

/-- One TLOAD unit of a dense tile of words in the scratchpad whose first element lies in memory (R270, R333). -/
theorem unitTyped_tload {s t : State} {core eng : Nat} {c k' : KCmd} {v : TileView} (h : unitTyped s core eng c = .ok (t, k'))
    (ho : fld c.word 26 6 = 1) (hv : viewOf core c.tile = v) (hl : v.layout = 0) (hs : twScale v.w = 0) (hw : fmtWidth v.fmt = 32)
    (ha : c.ahead = []) (hp : c.progress < kTotal c) {va pa : Nat} {f : List TlbEnt}
    (hat : winElt (winRec c.wrec) (winIndex c (fld c.word 3 1 == 1) (v.lin c.progress)) = (va, 0)) (h4 : va % 4 = 0)
    (hfit : v.off + 4 * kTotal c ≤ 0x200000) (hst : stagedLines s core c = []) (hx : kXlate s core c va true false = .ok (pa, f))
    (hpa : isStore pa = true) :
    c.progress < k'.progress ∧ t.mem = s.mem ∧ v.code t (v.lin c.progress) = physNat s pa 4 ∧
      ∀ y, y < v.off ∨ v.off + 4 * kTotal c ≤ y → memGet (coreOf t core).spad y = memGet (coreOf s core).spad y := by
  have hn : kTotal c = v.e.foldl (· * ·) 1 := hv ▸ kTotal_dense core (.inl ho) (hv ▸ hs)
  have he : v.e = constExts v.w := hv ▸ rfl
  have hcore : v.core = core := hv ▸ rfl
  obtain ⟨l, hits, hI⟩ := nextItems_dense ha hn hp hw hl he
  have hitem : typedItem c v c.progress = eltItem v (v.lin c.progress) (va, 0) := by rw [typedItem_elt (hn ▸ hp), hat]
  have hm : (typedItem c v c.progress).mem = 8 * va := by rw [hitem]; rfl
  have hb : ∀ e ∈ (c.progress, typedItem c v c.progress) :: l, e.2.bits = 32 := fun e he => by
    obtain ⟨h1, h2⟩ := hI.1 e he
    rw [h2, typedItem_elt h1]
    exact hw
  have hload : loadItems v eng (fun st va n => kReadStaged st core eng c va n) s c ((c.progress, typedItem c v c.progress) :: l) = .ok (t, k') := by
    unfold unitTyped at h
    simp only [hv, ho] at h
    rw [show ((1 : Nat) == 1) = true from rfl] at h
    simp only [if_true, hits] at h
    exact h
  obtain ⟨tl, rs, hruns⟩ := itemRuns_cons (c.progress, typedItem c v c.progress) l
  obtain ⟨n, hn4, hlen, hpage⟩ := firstRun_inPage hruns hb (by dsimp only; omega)
  have hva : (typedItem c v c.progress).mem / 8 = va := by omega
  have hm8 : (typedItem c v c.progress).mem % 8 = 0 := by omega
  dsimp only at hpage
  rw [hva] at hpage
  have hnw : isWindow pa = false := by
    unfold isStore isHbm isLoft isPeer hbmEnd loftBase loftEnd at hpa
    unfold isWindow windowBase controlBase
    simp only [Bool.or_eq_true, Bool.and_eq_true, decide_eq_true_eq] at hpa
    simp only [Bool.and_eq_false_iff, decide_eq_false_iff_not]
    omega
  obtain ⟨r, hr, ht, hk⟩ := loadItems_ok hload fun w hw => by
    rw [hruns] at hw
    rcases loadRuns_error hw with hw | hw
    · rw [hlen, kReadStaged_none hst, hva] at hw
      exact kFetch_error (by omega) hpage hx hw w rfl
    · cases hw
  have hread : ∀ st va n r, stagedLines st core c = [] → kReadStaged st core eng c va n = .ok r →
      ReadKeeps core st r.2 ∧ stagedLines r.2 core c = [] := fun st va n r h1 h2 => by
    rw [kReadStaged_none h1] at h2
    have := readKeeps_kFetch h2
    exact ⟨this, (stagedLines_keeps this c).trans h1⟩
  obtain ⟨hkeep, hpre⟩ := loadRuns_keeps hread _ s hst r hr
  rw [itemRuns_flatten] at hpre
  rw [hruns] at hr
  obtain ⟨bs, s1, more, hbs, hcodes⟩ := loadRuns_first hr
  rw [hlen, kReadStaged_none hst, hva] at hbs
  obtain ⟨hbytes, -⟩ := kFetch_plain (by omega) hpage hx hnw hbs
  dsimp only at hcodes hbytes
  rw [hm8, hb _ List.mem_cons_self, hbytes, elt_physRead s pa hn4] at hcodes
  rw [hcodes] at hpre hk ht
  rw [hn] at hfit ⊢
  obtain ⟨h1, h2, h3⟩ := putItems_dense eng r.2 (hI.sublist hpre.sublist) hw hl he hfit
  rw [hcore] at h3
  subst ht hk
  refine ⟨kMoved_first c _, h1.trans hkeep.mem, h2.trans (Nat.mod_eq_of_lt ?_), fun y hy => (h3 y hy).trans (by rw [hkeep.spad])⟩
  exact (bytesNat_lt _).trans_eq (by simp [physRead_eq])

theorem kUnit_tload {s t : State} {core eng lim : Nat} {k k' : KCmd} (h : kUnit s core eng lim k = .ok (t, k')) (ho : fld k.word 26 6 = 1)
    (hl : (viewOf core k.tile).layout = 0) (hs : twScale (viewOf core k.tile).w = 0)
    (hw : fmtWidth (viewOf core k.tile).fmt = 32) (ha : k.ahead = []) (hp : k.progress < kTotal k) {va b pa : Nat} {f : List TlbEnt}
    (hat : winElt (winRec k.wrec) (winIndex k (fld k.word 3 1 == 1) ((viewOf core k.tile).lin k.progress)) = (va, b)) (h4 : va % 4 = 0) (h0 : b = 0)
    (hfit : (viewOf core k.tile).off + 4 * kTotal k ≤ 0x200000) (hst : stagedLines s core k = [])
    (hx : kXlate s core k va true false = .ok (pa, f)) (hpa : isStore pa = true) :
    k.progress < k'.progress ∧ t.mem = s.mem ∧
      (viewOf core k.tile).code t ((viewOf core k.tile).lin k.progress) = physNat s pa 4 ∧
      ∀ y, y < (viewOf core k.tile).off ∨ (viewOf core k.tile).off + 4 * kTotal k ≤ y → memGet (coreOf t core).spad y = memGet (coreOf s core).spad y := by
  subst h0
  have hu : unitTyped s core eng (kHeld core k) = .ok (t, k') := by
    have ho' : fld (kHeld core k).word 26 6 = 1 := ho
    unfold kUnit at h
    simp only [ho'] at h
    exact h
  exact unitTyped_tload (c := kHeld core k) hu ho rfl hl hs hw ha hp hat h4 hfit hst hx hpa

end Sys2Proof.Machine
end

-- ==== pit commands dispatched and completed ====

section

/-! SUPPORT. A dispatched pit command in the queues of its parts, and the word after its last part. -/

namespace Sys2Proof.Machine

/-! ### Dispatch of a pit command (R287) -/

theorem pitDispatch_idle {s : State} {core eng : Nat} (h : kRunning s core eng = none) : pitDispatch s core eng = s := by
  unfold pitDispatch
  rw [h]

theorem pitDispatch_other {s : State} {core eng : Nat} {k : KCmd} (h : kRunning s core eng = some k) (hk : kIsPit k = false) :
    pitDispatch s core eng = s := by
  unfold pitDispatch
  simp only [h, hk, Bool.not_false, if_true]

/-- Parts queued at their engines, one after the other. -/
def queueParts (l : List (Nat × PitCmd)) (s : State) : State :=
  l.foldl (fun st e => setPit st e.1 { pitOf st e.1 with queue := (pitOf st e.1).queue ++ [e.2] }) s

theorem queueParts_frame (l : List (Nat × PitCmd)) (s : State) : (queueParts l s).mem = s.mem ∧ (queueParts l s).house = s.house ∧
    (queueParts l s).cores = s.cores := by
  induction l generalizing s with
  | nil => exact ⟨rfl, rfl, rfl⟩
  | cons e l ih => exact ih _

theorem queueParts_queue (l : List (Nat × PitCmd)) (s : State) (n : Nat) :
    (pitOf (queueParts l s) n).queue = (pitOf s n).queue ++ (l.filter fun e => e.1 == n).map Prod.snd := by
  induction l generalizing s with
  | nil => simp [queueParts]
  | cons e l ih =>
    rw [queueParts, List.foldl_cons, ← queueParts, ih, pitOf_setPit]
    by_cases h : n = e.1
    · subst h
      rw [if_pos rfl, List.filter_cons_of_pos (by simp), List.map_cons]
      exact List.append_assoc _ [e.2] _
    · rw [if_neg h, List.filter_cons_of_neg (by simpa using Ne.symm h)]

theorem noted_pitWalked (s : State) (core : Nat) (k : KCmd) (stop : Option Nat) : Noted s (pitWalked s core k stop) :=
  .foldl (fun _ _ => noted_walkMet ..) s _

theorem Noted.nextGroup {s t : State} (h : Noted s t) : t.house.nextGroup = s.house.nextGroup := by
  obtain ⟨_, _, _, _, rfl⟩ := h
  rfl

theorem Noted.pitOf {s t : State} (h : Noted s t) (n : Nat) : pitOf t n = pitOf s n := by
  obtain ⟨_, _, _, _, rfl⟩ := h
  rfl

theorem kQueue_setKq (s : State) (core eng : Nat) (q : List KCmd) : kQueue (coreOf (setKq s core eng q) core).ctx eng = q := by
  unfold setKq
  extract_lets c
  rw [coreOf_setCoreOf_same]
  unfold kQueue
  by_cases h : eng = 0
  · simp only [if_pos h]
  · simp only [if_neg h]

/-- A part as it is sent, with what its command is as a whole. -/
def pitSent (base : PitCmd) (sig : Option Nat) (group : Nat) (c : PitCmd) : PitCmd :=
  { c with sig := sig, group := group, status := base.status, statusAt := base.statusAt }

/-- The state in which the running pit command of an engine has been sent. -/
theorem pitDispatch_sent {s : State} {core eng : Nat} {k : KCmd} {p : PitCmd × List (Nat × PitCmd)} {sig : Option Nat}
    (h : kRunning s core eng = some k) (hk : kIsPit k = true) (hb : engineBad s core (1 + eng) = false) (hp : pitParts s core eng k = .ok p)
    (hs : pitSig s core eng k = .ok sig) (hn : p.2 ≠ []) (hroom : ∀ e ∈ p.2, (pitOf s e.1).queue.length < 64) :
    ∃ u, u.mem = s.mem ∧ u.house.nextGroup = s.house.nextGroup + 1 ∧ kQueue (coreOf u core).ctx eng = (kQueue (coreOf s core).ctx eng).drop 1 ∧
      (∀ n, pitOf u n = pitOf s n) ∧ pitDispatch s core eng = queueParts (p.2.map fun e => (e.1, pitSent p.1 sig s.house.nextGroup e.2)) u := by
  have hfull : (p.2.any fun e => decide (64 ≤ (pitOf s e.1).queue.length)) = false := by
    rw [List.any_eq_false]
    intro e he
    have := hroom e he
    simp only [decide_eq_true_eq]
    omega
  have hne : p.2.isEmpty = false := by simpa using hn
  have hN := noted_pitWalked s core k none
  let s1 := setKq (pitWalked s core k none) core eng ((kQueue (coreOf s core).ctx eng).drop 1)
  refine ⟨{ s1 with house := { s1.house with nextGroup := s1.house.nextGroup + 1 } }, hN.mem, congrArg (· + 1) hN.nextGroup, kQueue_setKq .., hN.pitOf, ?_⟩
  have hbs : kSound s core eng = .ok () := by
    unfold kSound
    rw [hb]
    rfl
  have hmap (f : Nat × PitCmd → Nat × PitCmd) : (p.2.map f).isEmpty = false := by simpa using hn
  unfold pitDispatch
  simp only [h, hk, hbs, hp, hs, bind, Except.bind, pure, Except.pure, hfull, hne, Bool.false_or, Bool.false_and, Bool.not_true, Bool.false_eq_true,
    if_false, hmap]
  rfl

/-- What a sent pit command leaves: each part at the end of its engine's queue, and the copy engine's queue without it (R287). -/
theorem pitDispatch_queues {s : State} {core eng : Nat} {k : KCmd} {p : PitCmd × List (Nat × PitCmd)} {sig : Option Nat}
    (h : kRunning s core eng = some k) (hk : kIsPit k = true) (hb : engineBad s core (1 + eng) = false) (hp : pitParts s core eng k = .ok p)
    (hs : pitSig s core eng k = .ok sig) (hn : p.2 ≠ []) (hroom : ∀ e ∈ p.2, (pitOf s e.1).queue.length < 64) :
    (pitDispatch s core eng).mem = s.mem ∧ kQueue (coreOf (pitDispatch s core eng) core).ctx eng = (kQueue (coreOf s core).ctx eng).drop 1 ∧
      (pitDispatch s core eng).house.nextGroup = s.house.nextGroup + 1 ∧ ∀ n, (pitOf (pitDispatch s core eng) n).queue =
        (pitOf s n).queue ++ (p.2.filter fun e => e.1 == n).map fun e => pitSent p.1 sig s.house.nextGroup e.2 := by
  obtain ⟨u, hm, hg, hq, hpits, e⟩ := pitDispatch_sent h hk hb hp hs hn hroom
  obtain ⟨h1, h2, h3⟩ := queueParts_frame (p.2.map fun e => (e.1, pitSent p.1 sig s.house.nextGroup e.2)) u
  have hc (n : Nat) : coreOf (queueParts (p.2.map fun e => (e.1, pitSent p.1 sig s.house.nextGroup e.2)) u) n = coreOf u n := by
    unfold coreOf
    rw [h3]
  rw [e]
  refine ⟨h1.trans hm, by rw [hc]; exact hq, by rw [h2]; exact hg, fun n => ?_⟩
  rw [queueParts_queue, hpits, List.filter_map, List.map_map]
  rfl

/-! ### A pit engine's queue (R286, R287, R298) -/

theorem mput_mput {α : Type} (k : Nat) (v w : α) (m : List (Nat × α)) : mput k w (mput k v m) = mput k w m := by
  induction m with
  | nil => simp [mput]
  | cons e r ih =>
    by_cases h1 : k < e.1
    · simp [mput, h1]
    · by_cases h2 : e.1 = k
      · simp [mput, h2]
      · simp [mput, h1, h2, ih]

theorem setPit_setPit (s : State) (p : Nat) (x y : Pit) : setPit (setPit s p x) p y = setPit s p y := by
  unfold setPit
  simp only [mput_mput]

theorem pitOf_setPit_same (s : State) (p : Nat) (x : Pit) : pitOf (setPit s p x) p = x := by rw [pitOf_setPit, if_pos rfl]

theorem pitArrived_none {s : State} {pit : Nat} (h : (pitOf s pit).sent = []) : pitArrived s pit = setPit s pit (pitOf s pit) := by
  have he : { pitOf s pit with sent := [] } = pitOf s pit := by
    cases hp : pitOf s pit
    rw [hp] at h
    cases h
    rfl
  unfold pitArrived
  simp only [h, List.filter_nil, List.foldl_nil, he]

theorem pitGoing_setPit_self (s : State) (pit : Nat) : pitGoing (setPit s pit (pitOf s pit)) pit = pitGoing s pit := by
  unfold pitGoing
  rw [pitOf_setPit_same]

theorem pitGoing_empty {s : State} {pit : Nat} (h : (pitOf s pit).queue = []) : pitGoing s pit = false := by
  unfold pitGoing
  rw [h]

theorem pitComplete_idle {s : State} {pit : Nat} (hs : (pitOf s pit).sent = []) (hg : pitGoing s pit = false) :
    pitComplete s pit = setPit s pit (pitOf s pit) := by
  unfold pitComplete
  rw [pitArrived_none hs]
  simp only [pitGoing_setPit_self, hg, Bool.not_false, if_true]

theorem pitStart_empty {s : State} {pit : Nat} (h : (pitOf s pit).queue = []) : pitStart s pit = s := by
  unfold pitStart
  rw [h]

theorem pitStart_cons {s : State} {pit : Nat} {p : PitCmd} {ps : List PitCmd} (h : (pitOf s pit).queue = p :: ps) :
    pitStart s pit = setPit s pit { pitOf s pit with queue := { p with ran := true } :: ps } := by
  unfold pitStart
  simp only [h]

/-- A part that is alone in its engine, whole, held by nothing, leaves the engine (R286). -/
theorem pitComplete_leaves {s : State} {pit : Nat} {p : PitCmd} (hs : (pitOf s pit).sent = []) (hq : (pitOf s pit).queue = [p])
    (hg : pitGoing s pit = true) (hr : pitTotal p ≤ p.rows) (hh : pitHeld s p = false) :
    pitComplete s pit = pitLeave (setPit s pit { pitOf s pit with queue := [] }) p := by
  have hran : p.ran = true := by
    unfold pitGoing at hg
    rw [hq] at hg
    simp only [Bool.and_eq_true] at hg
    exact hg.1
  let s1 := setPit s pit (pitOf s pit)
  let s2 := setPit s1 pit { pitOf s1 pit with queue := [p] }
  have hq1 : (pitOf s1 pit).queue = [p] := by simp only [s1]; rw [pitOf_setPit_same, hq]
  have hadv : pitAdvance s1 pit 0 = s2 := by
    unfold pitAdvance
    simp only [hq1, hran, pitRows, if_true]
    rfl
  have hq2 : (pitOf s2 pit).queue = [p] := by simp only [s2]; rw [pitOf_setPit_same]
  have hh2 : pitHeld s2 p = false := hh
  have hs2 : setPit s2 pit { pitOf s2 pit with queue := [] } = setPit s pit { pitOf s pit with queue := [] } := by
    simp only [s2, s1, setPit_setPit, pitOf_setPit_same]
  have hg1 : pitGoing s1 pit = true := (pitGoing_setPit_self s pit).trans hg
  unfold pitComplete
  rw [pitArrived_none hs]
  simp only [show setPit s pit (pitOf s pit) = s1 from rfl, hg1, hq1, Nat.sub_eq_zero_of_le hr, hadv, hq2, hh2, Bool.not_true, Bool.false_eq_true,
    if_false, if_neg (Nat.not_lt.2 hr), hs2]

/-- A write into a store puts its bytes there and leaves the pit engines alone (R15). -/
theorem physWrite_store {s : State} {pa : Nat} (h : isStore pa = true) (bs : List Byte) :
    (physWrite s pa bs).mem = memBlock s.mem pa bs ∧ (physWrite s pa bs).pits = s.pits := by
  unfold physWrite
  rw [if_pos h]
  exact ⟨rfl, rfl⟩

/-- The last part of a command leaves: its completion word is written at the address that its dispatch found (R286, R288). -/
theorem pitLeave_done {s : State} {p : PitCmd} {pa : Nat} (h : ∀ q ∈ s.pits, ((q.2.queue ++ q.2.sent).any fun d => d.group == p.group) = false)
    (hp : p.sig = some pa) (hpa : isStore pa = true) : (pitLeave s p).pits = s.pits ∧ ∀ y, memGet (pitLeave s p).mem y =
      if pa ≤ y ∧ y < pa + 8 then (natBytes 8 (if p.status = 0 then 1 else p.status)).getD (y - pa) 0 else memGet s.mem y := by
  have hany : (s.pits.any fun q => (q.2.queue ++ q.2.sent).any fun d => d.group == p.group) = false := by
    rw [List.any_eq_false]
    exact fun q hq => by rw [h q hq]; exact Bool.false_ne_true
  have hf : (pitFlags s p.core p.serial p.flags).mem = s.mem ∧ (pitFlags s p.core p.serial p.flags).pits = s.pits := by
    unfold pitFlags
    extract_lets c put
    split <;> exact ⟨rfl, rfl⟩
  have hl : (pitLeave s p).pits = s.pits ∧ (pitLeave s p).mem = memBlock s.mem pa (natBytes 8 (if p.status = 0 then 1 else p.status)) := by
    unfold pitLeave
    extract_lets same
    rw [if_neg (by rw [show (s.pits.any fun q => (q.2.queue ++ q.2.sent).any same) = false from hany]; exact Bool.false_ne_true)]
    unfold pitDone
    simp only [hp]
    obtain ⟨h1, h2⟩ := physWrite_store (s := pitFlags s p.core p.serial p.flags) hpa (natBytes 8 (if p.status = 0 then 1 else p.status))
    rw [hf.1] at h1
    rw [hf.2] at h2
    split
    · exact ⟨h2, h1⟩
    · exact ⟨h2, h1⟩
  refine ⟨hl.1, fun y => ?_⟩
  rw [hl.2, memGet_memBlock, natBytes_length]
  rfl

theorem pitComplete_word {s : State} {pit : Nat} {p : PitCmd} {pa : Nat} (hs : (pitOf s pit).sent = []) (hq : (pitOf s pit).queue = [p])
    (hg : pitGoing s pit = true) (hr : pitTotal p ≤ p.rows) (hh : pitHeld s p = false) (hp : p.sig = some pa) (hpa : isStore pa = true)
    (ha : ∀ q ∈ (setPit s pit { pitOf s pit with queue := [] }).pits, ((q.2.queue ++ q.2.sent).any fun d => d.group == p.group) = false) :
    (pitOf (pitComplete s pit) pit).queue = [] ∧ ∀ y, memGet (pitComplete s pit).mem y =
      if pa ≤ y ∧ y < pa + 8 then (natBytes 8 (if p.status = 0 then 1 else p.status)).getD (y - pa) 0 else memGet s.mem y := by
  obtain ⟨h1, h2⟩ := pitLeave_done ha hp hpa
  rw [pitComplete_leaves hs hq hg hr hh]
  exact ⟨(congrArg Pit.queue (congrArg (mget Pit.reset pit) h1)).trans (congrArg Pit.queue (pitOf_setPit_same s pit _)), h2⟩

end Sys2Proof.Machine
end

-- ==== engine events: O50 ====

section

/-! SUPPORT. The events' answers for cores and engines that exist, and the obligation from the lemmas above. -/

namespace Sys2Proof.Machine

/-! ### Events that act for a core or engine that exists -/

theorem kStart_held {s : State} {core eng : Nat} (h : kMayStart s core eng = false) : kStart s core eng = s := by
  unfold kStart
  rw [h]
  rfl

theorem kStart_starts {s : State} {core eng : Nat} {k : KCmd} {ks : List KCmd} (h : kMayStart s core eng = true)
    (hq : kQueue (coreOf s core).ctx eng = k :: ks) :
    kStart s core eng = setKq (kbufClear (sramFill s core (1 + eng)) core eng) core eng ({ k with started := true } :: ks) := by
  unfold kStart
  rw [if_pos h]
  simp only [hq]

theorem kComplete_idle {s : State} {core eng : Nat} (h : kRunning s core eng = none) : kComplete s core eng = s := by
  unfold kComplete
  rw [h]

theorem kComplete_runs {s : State} {core eng : Nat} {k : KCmd} (h : kRunning s core eng = some k) (hk : kIsPit k = false) :
    kComplete s core eng = if (kRunTo s core eng (kTotal k)).2 = true then kFinish (kRunTo s core eng (kTotal k)).1 core eng
      else (kRunTo s core eng (kTotal k)).1 := by
  unfold kComplete
  simp only [h, hk, Bool.false_eq_true, if_false]

section
variable {core : Nat} (hc : core < 512) (s : State)
include hc

theorem exec_resultLand : exec (.resultLand core) s = .next (emptyStep s core) := if_pos hc
theorem exec_nopreTimeout :
    exec (.nopreTimeout core) s = .next (setCoreOf s core { coreOf s core with ctx := nopreExpire (coreOf s core).ctx }) := if_pos hc
theorem exec_trapEntry : exec (.trapEntry core) s = .next ((boundaryTrap s core).getD s) := if_pos hc
theorem exec_waitaRetest : exec (.waitaRetest core) s = .next { s with agenda := .core core :: s.agenda } := if_pos hc
theorem exec_countPassEnd (g : Nat) : exec (.countPassEnd core g) s = .next (countPassEnd s core g) := if_pos hc
theorem exec_mCommandStart : exec (.mCommandStart core) s = .next (mStart s core) := if_pos hc
theorem exec_mCommandComplete : exec (.mCommandComplete core) s = .next (mComplete s core) := if_pos hc
theorem exec_migration : exec (.migration core) s = .next (mMigrate s core) := if_pos hc
theorem exec_recall : exec (.recall core) s = .next (mRecall s core) := if_pos hc
theorem exec_duetWindowSwitch : exec (.duetWindowSwitch core) s = .next (duetTick s core) := if_pos hc

variable {eng : Nat} (he : eng < 2)
include he

theorem exec_kCommandStart : exec (.kCommandStart core eng) s = .next (kStart s core eng) :=
  (if_pos hc).trans (by rw [Nat.mod_eq_of_lt he])
theorem exec_kCommandComplete : exec (.kCommandComplete core eng) s = .next (kComplete s core eng) :=
  (if_pos hc).trans (by rw [Nat.mod_eq_of_lt he])
theorem exec_pitDispatch : exec (.pitDispatch core eng) s = .next (pitDispatch s core eng) :=
  (if_pos hc).trans (by rw [Nat.mod_eq_of_lt he])

theorem exec_routePairArrival_idle (h : kRunning s core eng = none) : exec (.routePairArrival core eng) s = .next s := by
  refine (if_pos hc).trans ?_
  rw [Nat.mod_eq_of_lt he, h]

theorem exec_routePairArrival_runs {k : KCmd} (h : kRunning s core eng = some k) (hk : fld k.word 26 6 = 0x0E) :
    exec (.routePairArrival core eng) s = .next (kRunTo s core eng (min (k.progress + 1) (kTotal k))).1 := by
  refine (if_pos hc).trans ?_
  rw [Nat.mod_eq_of_lt he]
  simp only [h, hk, if_true]

end

section
variable {pit : Nat} (hp : pit < 192) (s : State)
include hp

theorem exec_pitCommandRun : exec (.pitCommandRun pit) s = .next (pitStart s pit) := if_pos hp
theorem exec_pitCommandComplete : exec (.pitCommandComplete pit) s = .next (pitComplete s pit) := if_pos hp
theorem exec_pitResume : exec (.pitResume pit) s = .next (setPit s pit { pitOf s pit with suspended := false }) := if_pos hp

theorem exec_pitSuspend (h : pitGoing s pit = true) : exec (.pitSuspend pit) s =
    .next (setPit (pitAdvance s pit (pitFree s pit)) pit { pitOf (pitAdvance s pit (pitFree s pit)) pit with suspended := true }) := by
  refine (if_pos hp).trans ?_
  rw [if_pos h]

theorem exec_pitWindowEnd (h : pitGoing s pit = true) : exec (.pitWindowEnd pit) s =
    .next (setPit (pitAdvance s pit (pitFree s pit)) pit
      { pitOf (pitAdvance s pit (pitFree s pit)) pit with windows := (pitOf (pitAdvance s pit (pitFree s pit)) pit).windows + 1 }) := by
  refine (if_pos hp).trans ?_
  rw [if_pos h]

end

theorem exec_pitStatusArrival {s : State} {idx : Nat} {t : PitStatus} (h : s.house.statuses[idx]? = some t) : exec (.pitStatusArrival idx) s =
    .next (deliverTrap { s with house := { s.house with statuses := s.house.statuses.eraseIdx idx } } t.core t.serial ⟨t.code, t.info, false, t.tag⟩) := by
  show Host.Outcome.next (statusArrive s idx) = _
  unfold statusArrive
  simp only [h]

theorem exec_admitReport {s : State} {job : Nat} {a : Audit} (h : s.house.audits.find? (fun e => e.1 == job) = some (job, a)) :
    exec (.admitReport job) s = .next (if auditBlocked s job a then s else auditEnd s job a) := by
  show execAdmitReport job s = _
  unfold execAdmitReport
  rw [h]

/-- Settles O50: each event by what its function does, its lemmas in the order of the clauses. -/
theorem engineEventsComplete : Obligations.EngineEventsComplete := by
  unfold Obligations.EngineEventsComplete
  intro s core eng pit ens g job idx c x put
  refine ⟨fun hc => ⟨?_, ?_, ?_, ?_, ?_, ?_, ?_, ?_, ?_, ?_, ?_, ?_, ?_, ?_, ?_, ?_, ?_, ?_, ?_, ?_, ?_, ?_, ?_, ?_, ?_, ?_, ?_, ?_, ?_, ?_, ?_, ?_, ?_⟩,
    fun hp => ⟨?_, ?_, ?_, ?_, ?_, ?_, ?_⟩, fun t h => exec_pitStatusArrival h, fun a h => exec_admitReport h⟩
  · exact (exec_resultLand hc s).trans (congrArg _ (emptyStep_eq s core))
  · exact fun n hn => (exec_nopreTimeout hc s).trans
      (congrArg (fun y => Host.Outcome.next (setCoreOf s core { coreOf s core with ctx := y })) (nopreExpire_some hn))
  · exact fun hn => (exec_nopreTimeout hc s).trans
      (congrArg (fun y => Host.Outcome.next (setCoreOf s core { coreOf s core with ctx := y })) (nopreExpire_none hn))
  · exact fun w h1 h2 h3 => (exec_trapEntry hc s).trans (by rw [boundaryTrap_resume h1 h2 h3]; rfl)
  · exact fun t ts h1 h2 h3 h4 h5 h6 => (exec_trapEntry hc s).trans (by rw [boundaryTrap_pit h1 h2 h3 h4 h5 h6]; rfl)
  · exact fun h => (exec_trapEntry hc s).trans (by rw [boundaryTrap_none h]; rfl)
  · exact exec_waitaRetest hc s
  · exact fun hr => ensembleNotice ens hc hr
  · exact fun h => (exec_countPassEnd hc s g).trans (congrArg _ (countPassEnd_idle h))
  · exact fun h => ⟨_, exec_countPassEnd hc s g, countPassEnd_counting h⟩
  · exact fun h => (exec_mCommandStart hc s).trans (congrArg _ (mStart_none h))
  · exact fun i m h hm => (exec_mCommandStart hc s).trans (congrArg _ (mStart_some h hm))
  · exact exec_mCommandComplete hc s
  · exact exec_migration hc s
  · exact exec_recall hc s
  · exact exec_duetWindowSwitch hc s
  · exact fun hf => ⟨mRecall_idle hf, fun hs hr => mComplete_idle hf hs hr⟩
  · exact fun h => mComplete_serves h
  · exact fun m hq hr ha ho hl hf => mServe_msave hq hr ha ho hl hf
  · exact fun m b hq ho hb hv => mServe_mresume hq ho hb hv
  · exact fun m t m' hold h => ⟨fun h1 he => mNextRow_mlatch hold h h1 he, fun h3 hl ho hw => mNextRow_mma hold h h3 hl ho hw⟩
  · intro i m hf hs hr hm ht
    have := mFinish_done hm ht
    rw [← mComplete_own hf hs hr] at this
    exact this
  · exact fun home k hf ha => mRecall_gone hf ha
  · exact mMigrate_moves s core
  · exact fun h => duetTick_alone h
  · exact fun p hp => ⟨fun h => duetTick_same hp h, fun hs hr hab => duetTick_change hp rfl rfl rfl hs hr hab⟩
  · exact fun he h => (exec_kCommandStart hc s he).trans (congrArg _ (kStart_held h))
  · exact fun k ks he h hq => (exec_kCommandStart hc s he).trans (congrArg _ (kStart_starts h hq))
  · exact fun k k' lim t h => ⟨fun ho hp pa qa f f' hs hx hx' hw => kUnit_copy h ho hp hs hx hx' hw,
      fun hl hs hw ha hp h4 h0 => ⟨fun pa f ho hfit hst hx hpa => kUnit_tload h ho hl hs hw ha hp rfl h4 h0 hfit hst hx hpa,
        fun pa f ho hr hold hn hpa hx hb => kUnit_tstore h ho hr hl hs hw ha hold hn rfl h4 h0 hpa hx hb⟩⟩
  · exact fun k he h => ⟨fun hk => (exec_kCommandComplete hc s he).trans (congrArg _ (kComplete_runs h hk)),
      fun hk => exec_routePairArrival_runs hc s he h hk⟩
  · exact fun he h => ⟨(exec_kCommandComplete hc s he).trans (congrArg _ (kComplete_idle h)), exec_routePairArrival_idle hc s he h,
      (exec_pitDispatch hc s he).trans (congrArg _ (pitDispatch_idle h))⟩
  · exact fun he => exec_pitDispatch hc s he
  · exact fun k p sig h => ⟨fun hk => pitDispatch_other h hk, fun hk hb hp hs hn hroom => pitDispatch_queues h hk hb hp hs hn hroom⟩
  · exact fun hq => ⟨(exec_pitCommandRun hp s).trans (congrArg _ (pitStart_empty hq)),
      fun hs => (exec_pitCommandComplete hp s).trans (congrArg _ (pitComplete_idle hs (pitGoing_empty hq)))⟩
  · exact fun p ps hq => (exec_pitCommandRun hp s).trans (congrArg _ (pitStart_cons hq))
  · exact exec_pitCommandComplete hp s
  · exact fun hs hg => pitComplete_idle hs hg
  · exact fun p pa hs hq hg hr hh hsig hpa ha => pitComplete_word hs hq hg hr hh hsig hpa ha
  · exact fun hg => ⟨exec_pitSuspend hp s hg, exec_pitWindowEnd hp s hg⟩
  · exact exec_pitResume hp s

end Sys2Proof.Machine
end

-- ==== privilege in cue code: O15 ====

section

/-! SUPPORT. The privilege check of the stage manager's instructions in cue code: an operation whose checks so far have passed stops at it with
PRIV, before any stall or operand of its own (R58, R70). -/

namespace Sys2Proof.Machine

/-- The access check of an SM register stops in cue code (R108). -/
theorem sysAccess_cue {s : State} {n : Nat} (h : inStageManager s = false) (hd : sysRegDefined n = true) (hp : sysPrivileged n = true) :
    sysAccess s n = .error (faultOf 2 s.issue.slot) := by
  rw [sysAccess, needLegal_ok hd, ok_bind, if_pos hp, needStageManager_cue h]

/-- What follows a check that stops is not reached: the slot leaves its stop alone. -/
theorem perform_error_bind {α : Type} {s : State} {x : Except Stop α} {st : Stop} (h : x = .error st) (f : α → Except Stop (List Eff)) :
    perform s (x >>= f) = .next (halted s st) := by
  rw [h, error_bind, perform_next, halted]

/-- Nor is what follows such a check behind a test of legality that passes. -/
theorem perform_legal_error_bind {α : Type} {s : State} {b : Bool} {x : Except Stop α} {st : Stop} (hb : b = true) (h : x = .error st)
    (f : α → Except Stop (List Eff)) :
    perform s (needLegal s b >>= fun _ => x >>= f) = .next (halted s st) := by
  rw [needLegal_ok hb, ok_bind, perform_error_bind h]

/-- ADMIT looks at its privilege before it looks for a verdict or reads its descriptor (R70, R81). -/
theorem execAdmitSeg_cue {s : State} (h : inStageManager s = false) (a b : Nat) :
    execAdmitSeg a b s = .next (halted s (faultOf 2 s.issue.slot)) := by
  rw [execAdmitSeg, needStageManager_cue h]
  rfl

/-- Settles O15: each operation reaches its privilege check with only tests of legality before it, which these register numbers pass. -/
theorem cueCodePrivilegeFaults : Obligations.CueCodePrivilegeFaults := by
  unfold Obligations.CueCodePrivilegeFaults
  intro s a b n hc
  have hsm := needStageManager_cue hc
  refine ⟨perform_error_bind hsm _, perform_error_bind hsm _, execAdmitSeg_cue hc a b, fun hd hp => ?_, fun hn => ?_, fun hl hu => ?_, ?_⟩
  · have hacc := sysAccess_cue hc hd hp
    exact ⟨perform_error_bind hacc _, perform_error_bind hacc _⟩
  · exact perform_legal_error_bind (by simpa using hn) hsm _
  · exact perform_legal_error_bind (by simp [hl, hu]) hsm _
  · exact perform_legal_error_bind rfl hsm _

end Sys2Proof.Machine
end

-- ==== the course of ADMIT: O26 ====

section

/-! SUPPORT. ADMIT in stage-manager code: what reading its descriptor asks for (R82), and what the slot answers before its audition has started,
while it runs, and at its verdict (R83). -/

namespace Sys2Proof.Machine

/-- A descriptor that reads, with a REPORT that may be written, asks for the audition of its fields (R82). -/
theorem admitDesc_ok {s : State} {a b : Nat} {bs : List Byte} {ps : List (Nat × Nat)} (ha : regReady s a = true) (hb : regFree s b = true)
    (hl : loadV s (regVal s a).toNat 32 = .ok bs)
    (hx : xlateSpan s s.focus (ctx s).mode (rootPa (ctx s).droot) ((regVal s a).toNat + 0x18) 8 false true = .ok ps) :
    admitDesc s a b = .ok (readNotes s (regVal s a).toNat 32 ++ [.act (.auditStart (auditOf s (regVal s a).toNat b bs))]) := by
  simp only [admitDesc, rdS_ready 0 ha, touchReg_free hb, hl, hx, ok_bind, pure_ok]

section
variable {s : State} (hsm : inStageManager s = true)
include hsm

/-- With a status register other than s0 nothing is left to wait for: the slot does what the descriptor asks (R83). -/
theorem execAdmitSeg_status (a : Nat) {b : Nat} (hb : b ≠ 0) : execAdmitSeg a b s = perform s (admitDesc s a b) := by
  simp only [execAdmitSeg, needStageManager_ok hsm, if_neg hb]

/-- With s0 the bundle whose audition is still to begin notes it and stalls (R83). -/
theorem execAdmitSeg_begins {a : Nat} {es : List Eff} (hp : admitPending s = none) (hd : admitDesc s a 0 = .ok es) :
    execAdmitSeg a 0 s = .next (halted (noted s es) (.stall .wait)) := by
  simp only [execAdmitSeg, needStageManager_ok hsm, if_true, hp, hd]
  rfl

/-- With s0 and no verdict yet the bundle goes on stalling (R83). -/
theorem execAdmitSeg_waits (a : Nat) {x : Access} (hp : admitPending s = some x) (hk : x.kind ≠ .reply) :
    execAdmitSeg a 0 s = .next (halted s (.stall .wait)) := by
  simp only [execAdmitSeg, needStageManager_ok hsm, if_true, hp, if_neg hk]
  rfl

/-- With s0 the verdict is taken: the slot is done on success, and a failure is its fault, with the check code (R83). -/
theorem execAdmitSeg_verdict (a : Nat) {x : Access} (hp : admitPending s = some x) (hk : x.kind = .reply) :
    execAdmitSeg a 0 s = .next (if x.data = 0 then noted s [] else halted s (faultOf 16 x.data)) := by
  simp only [execAdmitSeg, needStageManager_ok hsm, if_true, hp, if_pos hk]
  split <;> rfl

end

/-- Settles O26: the five courses of ADMIT, by its status register and what is on its way to s0. -/
theorem admitCompletes : Obligations.AdmitCompletes := by
  unfold Obligations.AdmitCompletes
  intro s a b hsm
  refine ⟨fun es hb hd => ?_, fun es hp hd => execAdmitSeg_begins hsm hp hd, fun bs ps ha hb hl hx => admitDesc_ok ha hb hl hx,
    fun x hp hk => execAdmitSeg_verdict hsm a hp hk, fun x hp hk => execAdmitSeg_waits hsm a hp hk⟩
  calc exec (.admitSeg a b) s = perform s (admitDesc s a b) := execAdmitSeg_status hsm a hb
    _ = .next (noted s es) := by rw [hd, perform_next, noted]

end Sys2Proof.Machine
end

-- ==== quotients and remainders: O3 ====

section

/-! SUPPORT. How a slot's course ends, and what quotients and remainders are. -/

namespace Sys2Proof.Machine

/-- A slot whose course ends well notes its effects. -/
theorem perform_ok {s : State} {r : Except Stop (List Eff)} {es : List Eff} (h : r = .ok es) : perform s r = .next (noted s es) := by
  rw [h, perform_next, noted]

/-- A slot whose course stops leaves its stop. -/
theorem perform_error {s : State} {r : Except Stop (List Eff)} {st : Stop} (h : r = .error st) : perform s r = .next (halted s st) := by
  rw [h, perform_next, halted]

theorem divFlag_zero : divFlag 0 = flagDivz := rfl

theorem divFlag_ne_zero {y : Word} (h : y ≠ 0#64) : divFlag y = 0 := by simp [divFlag, flagIf, h]

/-- The one pair whose quotient is not a word: the least number by -1. -/
theorem overflow_pair {x y : Word} (hy : y.toInt = -1) (hx : x.toInt = -2 ^ 63) : y = BitVec.allOnes 64 ∧ x = BitVec.intMin 64 :=
  ⟨BitVec.eq_of_toInt_eq hy, BitVec.eq_of_toInt_eq hx⟩

/-- Any other signed quotient is a word. -/
theorem divS_toInt {x y : Word} (hy : y ≠ 0#64) (h : ¬(y.toInt = -1 ∧ x.toInt = -2 ^ 63)) : (divS x y).toInt = x.toInt.tdiv y.toInt := by
  have hne : x ≠ BitVec.intMin 64 ∨ y ≠ -1#64 := by
    by_contra hc
    simp only [not_or, not_not] at hc
    obtain ⟨rfl, rfl⟩ := hc
    exact h ⟨by decide, by decide⟩
  rw [divS, if_neg hy, ← BitVec.toInt_sdiv_of_ne_or_ne x y hne, BitVec.ofInt_toInt]

theorem remS_toInt {x y : Word} (hy : y ≠ 0#64) : (remS x y).toInt = x.toInt.tmod y.toInt := by
  rw [remS, if_neg hy, ← BitVec.toInt_srem, BitVec.ofInt_toInt]

theorem divU_toNat {x y : Word} (hy : y ≠ 0#64) : (divU x y).toNat = x.toNat / y.toNat := by
  rw [divU, if_neg hy, ← BitVec.toNat_udiv, BitVec.ofNat_toNat, BitVec.setWidth_eq]

theorem remU_toNat {x y : Word} (hy : y ≠ 0#64) : (remU x y).toNat = x.toNat % y.toNat := by
  rw [remU, if_neg hy, ← BitVec.toNat_umod, BitVec.ofNat_toNat, BitVec.setWidth_eq]

/-- A truncated remainder is zero or has the sign of its dividend. -/
theorem tmod_eq_zero_or_neg_iff (a b : Int) : a.tmod b = 0 ∨ (a.tmod b < 0 ↔ a < 0) := by
  rcases lt_or_ge a 0 with h | h
  · have hn := Int.tmod_nonneg (a := -a) b (by omega)
    rw [Int.neg_tmod] at hn
    omega
  · have hn := Int.tmod_nonneg b h
    omega

/-- Settles O3: a zero divisor, the overflowing pair, and the laws of truncated and natural division. -/
theorem divisionResults : Obligations.DivisionResults := by
  unfold Obligations.DivisionResults
  intro s d a b ha hb hd x y lands
  have long (f : Word → Word → Word) : aluLong s 12 d a b f divFlag = .ok [landS 12 d (f x y) (divFlag y)] := aluLong_ready ha hb hd
  refine ⟨fun hy => ?_, fun hy hx => ?_, fun hy hn => ?_, fun hy => ?_⟩
  · rw [hy, divFlag_zero] at long
    exact ⟨perform_ok (long divS), perform_ok (long divU), perform_ok (long remS), perform_ok (long remU)⟩
  · obtain ⟨hy, hx⟩ := overflow_pair hy hx
    rw [hy, hx] at long
    show lands _ x 0 ∧ _
    rw [hx]
    exact ⟨perform_ok (long divS), perform_ok (long remS)⟩
  all_goals
    have hf := divFlag_ne_zero hy
    rw [hf] at long
  · refine ⟨divS x y, remS x y, perform_ok (long divS), perform_ok (long remS), ?_⟩
    rw [divS_toInt hy hn, remS_toInt hy]
    have hz : y.toInt ≠ 0 := fun h => hy (BitVec.eq_of_toInt_eq h)
    refine ⟨(Int.tdiv_mul_add_tmod ..).symm, ?_, tmod_eq_zero_or_neg_iff ..⟩
    rw [Int.natAbs_tmod]
    exact Nat.mod_lt _ (Int.natAbs_pos.2 hz)
  · refine ⟨divU x y, remU x y, perform_ok (long divU), perform_ok (long remU), ?_⟩
    rw [divU_toNat hy, remU_toNat hy]
    have hz : y.toNat ≠ 0 := fun h => hy (BitVec.eq_of_toNat_eq h)
    exact ⟨(Nat.div_add_mod' ..).symm, Nat.mod_lt _ (Nat.pos_of_ne_zero hz)⟩

end Sys2Proof.Machine
end

-- ==== register arithmetic, products, immediates, compares: O1, O2, O4, O5 ====

section

/-! SUPPORT. The words of R92, R94 and R95 as the numbers that they stand for. -/

namespace Sys2Proof.Machine

/-! ### Words as numbers -/

theorem add_eq_ofNat (x y : Word) : x + y = BitVec.ofNat 64 (x.toNat + y.toNat) := BitVec.eq_of_toNat_eq (by simp)
theorem mul_eq_ofNat (x y : Word) : x * y = BitVec.ofNat 64 (x.toNat * y.toNat) := BitVec.eq_of_toNat_eq (by simp)
theorem and_eq_ofNat (x y : Word) : x &&& y = BitVec.ofNat 64 (x.toNat &&& y.toNat) := by simp [BitVec.ofNat_and]
theorem or_eq_ofNat (x y : Word) : x ||| y = BitVec.ofNat 64 (x.toNat ||| y.toNat) := by simp [BitVec.ofNat_or]
theorem xor_eq_ofNat (x y : Word) : x ^^^ y = BitVec.ofNat 64 (x.toNat ^^^ y.toNat) := by simp [BitVec.ofNat_xor]

theorem sub_eq_ofInt (x y : Word) : x - y = BitVec.ofInt 64 ((x.toNat : Int) - y.toNat) := by
  apply BitVec.eq_of_toNat_eq
  rw [BitVec.toNat_sub, BitVec.toNat_ofInt]
  omega

theorem shiftLeft_eq_ofNat (x : Word) (n : Nat) : x <<< n = BitVec.ofNat 64 (x.toNat * 2 ^ n) :=
  BitVec.eq_of_toNat_eq (by simp [Nat.shiftLeft_eq])

theorem ushiftRight_eq_ofNat (x : Word) (n : Nat) : x >>> n = BitVec.ofNat 64 (x.toNat / 2 ^ n) := by
  rw [← Nat.shiftRight_eq_div_pow, ← BitVec.toNat_ushiftRight, BitVec.ofNat_toNat, BitVec.setWidth_eq]

theorem sshiftRight_eq_ofInt (x : Word) (n : Nat) : x.sshiftRight n = BitVec.ofInt 64 (x.toInt / 2 ^ n) := by
  rw [BitVec.sshiftRight, Int.shiftRight_eq_div_pow]
  norm_cast

theorem minS_eq_ofInt (x y : Word) : (if x.toInt ≤ y.toInt then x else y) = BitVec.ofInt 64 (min x.toInt y.toInt) := by
  rw [min_def]; split <;> rw [BitVec.ofInt_toInt]

theorem maxS_eq_ofInt (x y : Word) : (if x.toInt ≤ y.toInt then y else x) = BitVec.ofInt 64 (max x.toInt y.toInt) := by
  rw [max_def]; split <;> rw [BitVec.ofInt_toInt]

theorem minU_eq_ofNat (x y : Word) : (if x.toNat ≤ y.toNat then x else y) = BitVec.ofNat 64 (min x.toNat y.toNat) := by
  rw [min_def]; split <;> simp

theorem maxU_eq_ofNat (x y : Word) : (if x.toNat ≤ y.toNat then y else x) = BitVec.ofNat 64 (max x.toNat y.toNat) := by
  rw [max_def]; split <;> simp

/-! ### Leading zeros and ones (R92) -/

theorem clz_toNat {x : Word} (hx : x ≠ 0#64) : (clz x).toNat = 63 - Nat.log2 x.toNat := by
  rw [clz, if_neg hx, BitVec.toNat_ofNat, Nat.mod_eq_of_lt (by omega)]

theorem log2_toNat_lt {x : Word} (hx : x ≠ 0#64) : Nat.log2 x.toNat < 64 :=
  (Nat.log2_lt fun h => hx (BitVec.eq_of_toNat_eq h)).2 x.isLt

/-- Above its leading zeros a word has nothing, and below them a one. -/
theorem clz_spec (x : Word) : (clz x).toNat ≤ 64 ∧ (∀ i, 64 - (clz x).toNat ≤ i → x.getLsbD i = false) ∧
    ((clz x).toNat < 64 → x.getLsbD (63 - (clz x).toNat) = true) := by
  by_cases hx : x = 0#64
  · subst hx
    exact ⟨by decide, fun i _ => BitVec.getLsbD_zero, fun h => absurd h (by decide)⟩
  · have hz : x.toNat ≠ 0 := fun h => hx (BitVec.eq_of_toNat_eq h)
    have hlog := log2_toNat_lt hx
    rw [clz_toNat hx]
    refine ⟨by omega, fun i hi => ?_, fun _ => ?_⟩
    · exact Nat.testBit_lt_two_pow (((Nat.log2_lt hz).1 (Nat.lt_succ_self _)).trans_le (Nat.pow_le_pow_right (by omega) (by omega)))
    · rw [show 63 - (63 - Nat.log2 x.toNat) = Nat.log2 x.toNat by omega]
      exact Nat.testBit_log2 hz

theorem popc_toNat (x : Word) : (popc x).toNat = (List.range 64).countP fun i => x.getLsbD i := by
  have hle := List.countP_le_length (l := List.range 64) (p := fun i => x.getLsbD i)
  rw [List.length_range] at hle
  rw [popc, ← List.countP_eq_length_filter, BitVec.toNat_ofNat, Nat.mod_eq_of_lt (by omega)]

/-- Settles O1: each operation's word is its number, by the shared course of major 0x01. -/
theorem registerArithmeticResults : Obligations.RegisterArithmeticResults := by
  unfold Obligations.RegisterArithmeticResults
  constructor
  · intro s d a b ha hb hd x y n
    have lands {f : Word → Word → Word} {v : Word} (h : f x y = v) : perform s (aluRR s d a b f) = .next (noted s (landB d v)) :=
      perform_ok (h ▸ aluRR_ready ha hb hd)
    exact ⟨lands (add_eq_ofNat x y), lands (sub_eq_ofInt x y), lands (and_eq_ofNat x y), lands (or_eq_ofNat x y), lands (xor_eq_ofNat x y),
      lands (shiftLeft_eq_ofNat x n), lands (ushiftRight_eq_ofNat x n), lands (sshiftRight_eq_ofInt x n), lands (minS_eq_ofInt x y),
      lands (maxS_eq_ofInt x y), lands (minU_eq_ofNat x y), lands (maxU_eq_ofNat x y)⟩
  · intro s d a b p ha hb hd hp x
    refine ⟨⟨clz x, perform_ok (aluR_ready ha hd), clz_spec x⟩, ⟨popc x, perform_ok (aluR_ready ha hd), popc_toNat x⟩, perform_ok ?_⟩
    simp only [rdP_ready 2 hp, ok_bind, aluRR_ready ha hb hd]
    rfl

/-- Settles O2: the low half is the word product, the high halves those of the exact product. -/
theorem productResults : Obligations.ProductResults := by
  unfold Obligations.ProductResults
  intro s d a b ha hb hd x y
  have lands {f : Word → Word → Word} {v : Word} (h : f x y = v) : perform s (aluLong s 2 d a b f fun _ => 0) = .next (noted s [landS 2 d v 0]) :=
    perform_ok (h ▸ aluLong_ready ha hb hd)
  exact ⟨lands (mul_eq_ofNat x y), lands rfl, lands rfl⟩

/-! ### Immediates (R94, R95) -/

/-- A field of n bits as the number of its two's complement. -/
theorem sextNat_of_lt {n i : Nat} (h : i < 2 ^ n) : sextNat n i = if i < 2 ^ (n - 1) then (i : Int) else (i : Int) - (2 ^ n : Nat) := by
  rw [sextNat, Nat.mod_eq_of_lt h]

theorem add_sextW (x : Word) (n i : Nat) : x + sextW n i = BitVec.ofInt 64 (x.toInt + sextNat n i) := by
  rw [sextW, BitVec.ofInt_add, BitVec.ofInt_toInt]

/-- MOVHI puts its field below the shifted register, where the shift has left zeros. -/
theorem movhi_eq_ofNat (x : Word) {i : Nat} (h : i < 65536) : (x <<< 16) ||| BitVec.ofNat 64 i = BitVec.ofNat 64 (x.toNat * 65536 + i) := by
  rw [shiftLeft_eq_ofNat, ← BitVec.ofNat_or, Nat.mul_comm x.toNat, Nat.mul_comm x.toNat, ← Nat.two_pow_add_eq_or_of_lt (i := 16) h]

/-- Settles O4: the shared course of the one-source operations, with each field as the number it stands for. -/
theorem immediateResults : Obligations.ImmediateResults := by
  unfold Obligations.ImmediateResults
  intro s d a i n j ha hd hi hn hj x si sj
  have lands {f : Word → Word} {v : Word} (h : f x = v) : perform s (aluR s d a f) = .next (noted s (landB d v)) :=
    perform_ok (h ▸ aluR_ready ha hd)
  have hsi : sextNat 16 i = si := sextNat_of_lt hi
  have hsj : sextNat 21 j = sj := sextNat_of_lt hj
  refine ⟨lands ((add_sextW x 16 i).trans (by rw [hsi])), lands (by simp [BitVec.ofNat_and]), lands (by simp [BitVec.ofNat_or]),
    lands (by simp [BitVec.ofNat_xor]), lands (shiftLeft_eq_ofNat x n), lands (ushiftRight_eq_ofNat x n), lands (sshiftRight_eq_ofInt x n),
    lands (movhi_eq_ofNat x hi), ?_⟩
  rw [← hsj]
  exact perform_ok (outBcast_free _ hd)

/-- The conditions of R95, one by one. -/
theorem condHolds_iff {c : Nat} (hc : c ≤ 5) (x y : Word) : condHolds c x y = true ↔
    (c = 0 ∧ x = y) ∨ (c = 1 ∧ x ≠ y) ∨ (c = 2 ∧ x.toInt < y.toInt) ∨ (c = 3 ∧ y.toInt ≤ x.toInt) ∨ (c = 4 ∧ x.toNat < y.toNat) ∨
      (c = 5 ∧ y.toNat ≤ x.toNat) := by
  interval_cases c <;> simp [condHolds]

/-- Settles O5: both compares end in `condHolds`, of which `condHolds_iff` says when it is true. -/
theorem compareResults : Obligations.CompareResults := by
  unfold Obligations.CompareResults
  intro s d a b c i ha hb hc hi holds
  have hsi : sextNat 13 i = if i < 4096 then (i : Int) else (i : Int) - 8192 := sextNat_of_lt hi
  refine ⟨⟨condHolds c (regVal s a) (regVal s b), perform_ok ?_, condHolds_iff hc ..⟩,
    ⟨condHolds c (regVal s a) (sextW 13 i), perform_ok ?_, ?_⟩⟩
  · simp only [rdS_ready _ ha, rdS_ready _ hb, ok_bind]
    rfl
  · simp only [rdS_ready _ ha, ok_bind]
    rfl
  · rw [← hsi]
    exact condHolds_iff hc ..

end Sys2Proof.Machine
end

-- ==== predicates, votes, lane masks: O6, O7, O32 ====

section

/-! SUPPORT. The predicate operations and their words (R96), votes (R107), and the lane masks that operations write (R90, R181). -/

namespace Sys2Proof.Machine

/-! ### Predicates (R96) -/

theorem predRR_ready {s : State} {a b : Nat} (d : Nat) (f : Bool → Bool → Bool) (ha : predReady s a = true) (hb : predReady s b = true) :
    predRR s d a b f = .ok [landP d (f (predVal s a) (predVal s b))] := by
  simp only [predRR, rdP_ready _ ha, rdP_ready _ hb, ok_bind]
  rfl

/-- A word of major 0x04 with its reserved bits clear, field by field. -/
theorem fld_predicateWord {d a b f w : Nat} (hd : d < 32) (ha : a < 32) (hb : b < 32) (hf : f < 4)
    (hw : 0x04 * 2 ^ 26 + d * 2 ^ 21 + a * 2 ^ 16 + b * 2 ^ 11 + f * 2 ^ 5 = w) :
    w < 2 ^ 32 ∧ fld w 26 6 = 4 ∧ fld w 21 5 = d ∧ fld w 16 5 = a ∧ fld w 11 5 = b ∧ fld w 0 11 = 32 * f ∧
      fld w 0 16 = 2048 * b + 32 * f := by
  subst hw
  simp only [fld]
  omega

/-- The instruction of a function of major 0x04. -/
def predicateInstr (f d a b : Nat) : Instr :=
  if f = 0 then .pand d a b else if f = 1 then .por d a b else if f = 2 then .pxor d a b else .pnot d a

/-- Such a word is decoded by its function; PNOT has no second source, so its field must be zero. -/
theorem decodeS_predicateWord {d a b f : Nat} (hd : d < 32) (ha : a < 32) (hb : b < 32) (hf : f < 4) :
    decodeSlot .s (0x04 * 2 ^ 26 + d * 2 ^ 21 + a * 2 ^ 16 + b * 2 ^ 11 + f * 2 ^ 5) =
      if f = 3 ∧ b ≠ 0 then .error (.reservedBits (0x04 * 2 ^ 26 + d * 2 ^ 21 + a * 2 ^ 16 + b * 2 ^ 11 + f * 2 ^ 5))
      else checked (predicateInstr f d a b) := by
  generalize hw : 0x04 * 2 ^ 26 + d * 2 ^ 21 + a * 2 ^ 16 + b * 2 ^ 11 + f * 2 ^ 5 = w
  obtain ⟨hlt, hop, h21, h16, h11, h0, hlow⟩ := fld_predicateWord hd ha hb hf hw
  rw [decodeSlot, if_pos hlt, decodeS]
  simp only [hop, h21, h16, h11, h0, hlow]
  interval_cases f <;> simp [predicateInstr]

theorem predicateInstr_wf_iff {f d a b : Nat} (hf : f < 4) :
    (predicateInstr f d a b).wf = true ↔ d ≤ 15 ∧ a ≤ 15 ∧ (f ≠ 3 → b ≤ 15) := by
  interval_cases f <;> simp only [predicateInstr] <;> simp [Instr.wf] <;> omega

/-- Settles O6: the four functions of major 0x04 on readable predicates, and the checks that their decoded instructions pass or fail. -/
theorem predicateOperations : Obligations.PredicateOperations := by
  unfold Obligations.PredicateOperations
  refine ⟨fun s d a b ha hb => ?_, fun x => ⟨rfl, fun n v hn => ⟨rfl, fun h0 => ?_⟩⟩, fun d a b f hd ha hb hf h3 => ?_,
    fun d a b f hd ha hb hf hbad i => ?_⟩
  · refine ⟨perform_ok (predRR_ready d _ ha hb), perform_ok (predRR_ready d _ ha hb), perform_ok (predRR_ready d _ ha hb), perform_ok ?_⟩
    simp only [rdP_ready _ ha, ok_bind]
    rfl
  · rw [predOf_setPred x n v hn, if_pos ⟨rfl, h0⟩]
  · rw [decodeS_predicateWord (by omega) (by omega) (by omega) hf, if_neg fun h => h.2 (h3 h.1)]
    exact checked_wf ((predicateInstr_wf_iff hf).2 ⟨hd, ha, fun _ => hb⟩)
  · rw [decodeS_predicateWord hd ha hb hf]
    split
    · exact nofun
    · rw [checked, if_neg (mt (predicateInstr_wf_iff hf).1 (by omega))]
      exact nofun

/-! ### Votes (R107) -/

theorem maskBit_of_lt {m : BitVec 512 × Nat} {i : Nat} (h : i < m.2) : maskBit m i = m.1.getLsbD i := by simp [maskBit, h]

/-- Settles O7: below its lane count a mask's bit is the bit that stands there. -/
theorem voteResults : Obligations.VoteResults := by
  unfold Obligations.VoteResults
  intro s p k hk m
  refine ⟨⟨(List.range m.2).any (maskBit m), perform_ok ?_, ?_⟩, ⟨(List.range m.2).all (maskBit m), perform_ok ?_, ?_⟩⟩
  · simp only [rdK_ready _ hk, ok_bind]
    rfl
  · simp only [List.any_eq_true, List.mem_range]
    exact exists_congr fun i => and_congr_right fun h => by rw [maskBit_of_lt h]
  · simp only [rdK_ready _ hk, ok_bind]
    rfl
  · simp only [List.all_eq_true, List.mem_range]
    exact forall_congr' fun i => forall_congr' fun h => by rw [maskBit_of_lt h]

/-! ### Lane masks (R90, R181) -/

theorem vecMask_ready {s : State} {a b g : Nat} (d w : Nat) (f : Bool → Bool → Bool) (hg : predReady s g = true) (hv : predVal s g = true)
    (ha : maskReady s a = true) (hb : maskReady s b = true) :
    vecMask s d a b g w f =
      .ok (maskOut d w ((List.range (maskVal s a).2).map fun i => f ((maskVal s a).1.getLsbD i) ((maskVal s b).1.getLsbD i)) (maskVal s a).2) := by
  simp [vecMask, rdP_ready 3 hg, hv, rdK_ready _ ha, rdK_ready _ hb]

/-- VCMP whose sources are read and whose tags fit: a mask bit for each lane. -/
theorem execVcmp_reads {s : State} {d a b g c w : Nat} {vs : List VSrc} {es : List Eff} (h : VecReads s g d 1 [(0, a), (1, b)] vs es)
    (ht : tagsFit (fun _ => tagFI) [(0, a), (1, b)] vs = true) (hs : tagsSame (opFmt (ctx s) vs) vs = true) :
    execVcmp d a b g c w s = .next (noted s (es ++ holdEffs (opFmt (ctx s) vs) [(0, a), (1, b)] vs ++
      maskOut d w (((laneVals (opFmt (ctx s) vs) ((vs.map (·.rowIn (opFmt (ctx s) vs))).getD 0 0)).zip
        (laneVals (opFmt (ctx s) vs) ((vs.map (·.rowIn (opFmt (ctx s) vs))).getD 1 0))).map fun p => vecCond c p.1 p.2)
        (lanesOf (opFmt (ctx s) vs)))) := by
  obtain ⟨hl, hg, hv, hq, hr⟩ := h
  simp only [List.map_cons, List.map_nil, if_true] at hl hq
  refine perform_ok ?_
  simp [hl, rdP_ready 3 hg, hv, hq, hr, tagsAllowed_ok s _ _ _ ht, tagsAlike_ok s _ _ _ hs]

/-- Two rows' lanes side by side with their numbers. -/
theorem zip_laneCodes_zipIdx (fmt : Nat) (x y : Row) (f : (Nat × Nat) × Nat → Nat) :
    ((laneCodes fmt x).zip (laneCodes fmt y)).zipIdx.map f =
      (List.range (lanesOf fmt)).map fun i => f ((elt (fmtWidth fmt) x.toNat i, elt (fmtWidth fmt) y.toNat i), i) := by
  apply List.ext_getElem <;> simp [laneCodes]

/-- The lanes that VSEL takes from its two rows. -/
def selCodes (m : BitVec 512 × Nat) (fmt : Nat) (rows : List Row) : List Nat :=
  (List.range (lanesOf fmt)).map fun i =>
    if maskBit m i then elt (fmtWidth fmt) (rows.getD 0 0).toNat i else elt (fmtWidth fmt) (rows.getD 1 0).toNat i

/-- p0 is never pending: no result writes it (R87). -/
theorem predReady_zero (s : State) : predReady s 0 = true := by
  have hp : landsPred 0 = fun _ => false := by
    funext u
    cases u <;> simp [landsPred]
  simp only [predReady, pendingOn, hp, Bool.not_eq_true', Bool.and_eq_false_iff]
  refine .inr (List.any_eq_false.2 fun fl _ => ?_)
  split <;> simp

/-- VSEL whose sources and mask are read and whose tags fit: each lane by its mask bit. -/
theorem execVsel_reads {s : State} {d a b g k w : Nat} {vs : List VSrc} {es : List Eff} {p : VecPlace}
    (h : VecReads s g d w [(0, a), (1, b)] vs es) (hk : maskReady s k = true) (ht : tagsFit (fun _ => tagNotCS) [(0, a), (1, b)] vs = true)
    (hs : tagsSame (opFmt (ctx s) vs) vs = true) (hp : VecGoes s d w (some (opFmt (ctx s) vs)) p) :
    execVsel d a b g k w s = .next (noted s (es ++ holdEffs (opFmt (ctx s) vs) [(0, a), (1, b)] vs ++
      vecEffs 2 (rowRes (laneRow (opFmt (ctx s) vs) (selCodes (maskVal s k) (opFmt (ctx s) vs)
        (vs.map (·.rowIn (opFmt (ctx s) vs))))) (opFmt (ctx s) vs) 0) p)) := by
  have hl : bcastLegal s [a, b] = .ok () := h.legal
  refine perform_ok ?_
  simp only [hl, rdP_ready 3 h.guardReady, h.guardTrue, rdK_ready _ hk, ok_bind, Bool.not_true, Bool.false_eq_true, if_false,
    zip_laneCodes_zipIdx]
  exact vecOp_reads_always h (predReady_zero s) ht (fun _ => hs) rfl hp

/-- Settles O32: each operation by its course, and the lanes of VSEL in their order. -/
theorem laneMaskResults : Obligations.LaneMaskResults := by
  unfold Obligations.LaneMaskResults
  intro s d a b c g k w vs es p pos maskOut
  refine ⟨fun hg hv ha hb => ?_, ?_, ?_⟩
  · exact ⟨perform_ok (vecMask_ready d w _ hg hv ha hb), perform_ok (vecMask_ready d w _ hg hv ha hb),
      perform_ok (vecMask_ready d w _ hg hv ha ha)⟩
  · intro h fmt row ht hs
    exact execVcmp_reads h ht hs
  · intro h hk fmt row codes ht hs hp
    exact execVsel_reads h hk ht hs hp

end Sys2Proof.Machine
end

-- ==== scratchpad accesses: O8 ====

section

/-! SUPPORT. The course of LDS and STS (R97): the offset, the stalls, the checks, the bytes. -/

namespace Sys2Proof.Machine

theorem needAligned_error {s : State} {va n : Nat} (h : va % n ≠ 0) : needAligned s va n = .error (faultOf 3 s.issue.slot) := by
  simp [needAligned, h, stopSlot, stopFault, faultOf]

theorem needData_high {s : State} {va : Nat} (n : Nat) (h : 2 ^ 53 ≤ va) : needData s va n = .error (faultOf 5 (xlInfo va 1).toNat) := by
  rw [needData, if_pos h]
  rfl

theorem needData_misaligned {s : State} {va n : Nat} (hb : va < 2 ^ 53) (h : va % n ≠ 0) : needData s va n = .error (faultOf 3 s.issue.slot) := by
  rw [needData, if_neg (Nat.not_le.mpr hb), needAligned_error h]

/-- The offset that LDS and STS compute from a readable register (R97). -/
theorem spadEa_ready {s : State} {a z i : Nat} (ha : regReady s a = true) (hi : i < 16384) :
    spadEa s a z i = .ok (regVal s a + BitVec.ofInt 64 ((if i < 8192 then (i : Int) else i - 16384) * 2 ^ z)).toNat := by
  have hs : sextNat 14 i = if i < 8192 then (i : Int) else i - 16384 := sextNat_of_lt hi
  simp [spadEa, rdS_ready _ ha, hs]

/-- Where the offset is no place of the scratchpad, no range is busy: the stall is the register's alone (R51, R97). -/
theorem spadStall_outside {s : State} {ea n d : Nat} (w : Bool) (h : 0x200000 ≤ ea ∨ ea % n ≠ 0) (hd : regFree s d = true) :
    spadStall s ea n d w = .ok () := by
  have hc : ¬(ea < Config.spadBytes ∧ ea % n = 0) := by rintro ⟨h1, h2⟩; exact h.elim (Nat.not_le.mpr h1) (absurd h2)
  simp only [spadStall, if_neg hc, touchReg_free hd]

theorem spadStall_inside {s : State} {ea n d : Nat} {w : Bool} (h1 : ea < 0x200000) (h2 : ea % n = 0)
    (ht : passes (touchRange s ea n w) = true) (hd : regFree s d = true) : spadStall s ea n d w = .ok () := by
  simp only [spadStall, if_pos (show ea < Config.spadBytes ∧ ea % n = 0 from ⟨h1, h2⟩), ok_of_passes ht, ok_bind, touchReg_free hd]

theorem spadCheck_high {s : State} {ea : Nat} (n : Nat) (h : 0x200000 ≤ ea) : spadCheck s ea n = .error (faultOf 5 ea) := by
  simp only [spadCheck, if_pos (show Config.spadBytes ≤ ea from h)]
  rfl

theorem spadCheck_low {s : State} {ea : Nat} (n : Nat) (h : ea < 0x200000) : spadCheck s ea n = needAligned s ea n := by
  simp only [spadCheck, if_neg (show ¬Config.spadBytes ≤ ea from Nat.not_le.mpr h)]

/-- A word that holds up to eight bytes of memory: those bytes, then zeros. -/
theorem memNat_byte (m : Memory) (ea n : Nat) {k : Nat} (hn : n ≤ 8) :
    ((BitVec.ofNat 64 (memNat m ea n)) >>> (8 * k)).setWidth 8 = if k < n then memGet m (ea + k) else 0 := by
  have hlt : memNat m ea n < 2 ^ 64 :=
    (bytesNat_lt _).trans_le (Nat.pow_le_pow_right (by omega) (by rw [memRead_length]; omega))
  calc ((BitVec.ofNat 64 (memNat m ea n)) >>> (8 * k)).setWidth 8
      = BitVec.ofNat 8 (memNat m ea n / 2 ^ (8 * k)) := by
        apply BitVec.eq_of_toNat_eq
        rw [BitVec.toNat_setWidth, BitVec.toNat_ushiftRight, BitVec.toNat_ofNat, BitVec.toNat_ofNat, Nat.mod_eq_of_lt hlt,
          Nat.shiftRight_eq_div_pow]
    _ = (memRead m ea n).getD k 0 := bytesNat_div_mod ..
    _ = _ := by
        split
        · exact memRead_getD m ea ‹_›
        · exact List.getD_eq_default _ _ (by rw [memRead_length]; omega)

section
variable {s : State} {d a z i ea : Nat} (hea : spadEa s a z i = .ok ea)
include hea

theorem execLds_stops {st : Stop} (h : 0x200000 ≤ ea ∨ ea % 2 ^ z ≠ 0) (hc : spadCheck s ea (2 ^ z) = .error st) (hd : regFree s d = true) :
    execLds d a z i s = .next (halted s st) := by
  refine perform_error ?_
  simp only [hea, ok_bind, spadStall_outside _ h hd, hc, error_bind]

theorem execSts_stops {st : Stop} (h : 0x200000 ≤ ea ∨ ea % 2 ^ z ≠ 0) (hc : spadCheck s ea (2 ^ z) = .error st) (hd : regReady s d = true) :
    execSts d a z i s = .next (halted s st) := by
  refine perform_error ?_
  simp only [hea, ok_bind, spadStall_outside _ h (regFree_of_ready hd), rdS_ready _ hd, hc, error_bind]

theorem execLds_reads (h1 : ea < 0x200000) (h2 : ea % 2 ^ z = 0) (hd : regFree s d = true)
    (ht : passes (touchRange s ea (2 ^ z) false) = true) (hp : pendingOn (ctx s) (spadPending ea (2 ^ z)) = false)
    (hb : isBad s (windowPa s.focus ea) (2 ^ z) = false) :
    execLds d a z i s = .next (noted s [landS 3 d (BitVec.ofNat 64 (memNat (cur s).spad ea (2 ^ z))) 0]) := by
  refine perform_ok ?_
  simp only [hea, ok_bind, spadStall_inside h1 h2 ht hd, spadCheck_low _ h1, needAligned_ok h2, noEarly_free _ hp, soundRead_sound hb,
    outS_free _ _ _ hd]

theorem execSts_writes (h1 : ea < 0x200000) (h2 : ea % 2 ^ z = 0) (hd : regReady s d = true)
    (ht : passes (touchRange s ea (2 ^ z) true) = true) :
    execSts d a z i s = .next (noted s [.land 1 (some (.spad ea (2 ^ z) ((regVal s d).toNat % 2 ^ (8 * 2 ^ z)))) none 0]) := by
  refine perform_ok ?_
  simp only [hea, ok_bind, spadStall_inside h1 h2 ht (regFree_of_ready hd), rdS_ready _ hd, spadCheck_low _ h1, needAligned_ok h2, pure_ok]

end

/-- Settles O8: the two courses at an offset outside, at a misaligned one, and at one that is a place of the scratchpad. -/
theorem scratchpadAccesses : Obligations.ScratchpadAccesses := by
  unfold Obligations.ScratchpadAccesses
  intro s d a z i ea hz hi ha hea
  have he : spadEa s a z i = .ok ea := hea ▸ spadEa_ready ha hi
  refine ⟨fun h => ?_, fun h1 h2 => ?_, fun h1 h2 hd ht hp hb => ?_, fun h1 h2 hd ht => execSts_writes he h1 h2 hd ht⟩
  · exact ⟨execLds_stops he (.inl h) (spadCheck_high _ h), execSts_stops he (.inl h) (spadCheck_high _ h)⟩
  · have hc := (spadCheck_low (2 ^ z) h1).trans (needAligned_error (s := s) h2)
    exact ⟨execLds_stops he (.inr h2) hc, execSts_stops he (.inr h2) hc⟩
  · have h8 : 2 ^ z ≤ 8 := (Nat.pow_le_pow_right Nat.two_pos (Nat.le_of_lt_succ hz) : 2 ^ z ≤ 2 ^ 3)
    exact ⟨_, execLds_reads he h1 h2 hd ht hp hb, fun k _ => memNat_byte _ _ _ h8⟩

end Sys2Proof.Machine
end

-- ==== global accesses: O9 ====

section

/-! SUPPORT. A global access enters the pipe or stops at its address (R98, R99). -/

namespace Sys2Proof.Machine

/-- The access that an instruction sends into the pipe of its core (R54, R98). -/
def sentAccess (s : State) (kind : AccessKind) (ea pa n d data swap scope : Nat) (acq rel : Bool) : Access :=
  { seq := 0, kind := kind, va := ea, pa := pa, size := n, dst := d, data := data, swap := swap, scope := scope, acq := acq, rel := rel,
    serial := (ctx s).serial, home := none, upto := 0, seen := [] }

section
variable {s : State} {kind : AccessKind} {ea n d data swap scope : Nat} {acq rel rd wr : Bool}

theorem launch_translates {pa : Nat} {fills : List TlbEnt} (hd : regFree s d = true) (hb : ea < 2 ^ 53) (hn : ea % n = 0)
    (hx : xlate s s.focus (ctx s).mode (rootPa (ctx s).droot) ea rd wr = .ok (pa, fills)) :
    launch s kind ea n d data swap scope acq rel rd wr =
      .ok (fills.map Eff.fillD ++ [.access (sentAccess s kind ea pa n d data swap scope acq rel)]) := by
  simp only [launch, touchReg_free hd, globalPa, needData_ok hb hn, hx, ok_bind, pure_ok, sentAccess]

theorem launch_stops {st : Stop} (hd : regFree s d = true) (h : needData s ea n = .error st) :
    launch s kind ea n d data swap scope acq rel rd wr = .error st := by
  simp only [launch, touchReg_free hd, globalPa, h, ok_bind, error_bind]

/-- An address that does not translate stops with DATAXL, whatever its walk has met before (R98, R357). -/
theorem launch_untranslated {r : Nat} (hd : regFree s d = true) (hb : ea < 2 ^ 53) (hn : ea % n = 0)
    (hx : xlate s s.focus (ctx s).mode (rootPa (ctx s).droot) ea rd wr = .error r) :
    ∃ st, launch s kind ea n d data swap scope acq rel rd wr = .error st ∧ st.trap.map Prod.fst = some ⟨5, xlInfo ea r, none⟩ := by
  simp only [launch, touchReg_free hd, globalPa, needData_ok hb hn, hx, ok_bind, stopXl, stopMet, error_bind]
  refine ⟨_, rfl, ?_⟩
  split <;> rfl

end

theorem execLdg_ready {s : State} {a b : Nat} (d sc o z : Nat) (ha : regReady s a = true) (hb : regReady s b = true) :
    execLdg d a b sc o z s = perform s (launch s .load (regVal s a + regVal s b).toNat (2 ^ z) d 0 0 sc (o == 1) false true false) := by
  simp only [execLdg, rdS_ready _ ha, rdS_ready _ hb, ok_bind]

theorem execStg_ready {s : State} {a b : Nat} (d sc o z : Nat) (ha : regReady s a = true) (hb : regReady s b = true) :
    execStg d a b sc o z s = perform s (launch s .store (regVal s a + regVal s b).toNat (2 ^ z) d ((regVal s b).toNat % 2 ^ (8 * 2 ^ z)) 0 sc
      false (o == 1) false true) := by
  simp only [execStg, rdS_ready _ ha, rdS_ready _ hb, ok_bind]

/-- The AMO family is one operation, of four or eight bytes; CAS alone reads its destination (R99). -/
theorem amoOp_ready {s : State} {fn d a b w : Nat} (sc o : Nat) (ha : regReady s a = true) (hb : regReady s b = true)
    (hd : fn = 2 → regReady s d = true) (hw : w < 2) :
    amoOp s fn d a b sc o w = launch s (.amo fn) (regVal s a).toNat (4 + 4 * w) d ((regVal s b).toNat % 2 ^ (8 * (4 + 4 * w)))
      ((if fn = 2 then regVal s d else 0).toNat % 2 ^ (8 * (4 + 4 * w))) sc (o % 2 == 1) (o / 2 == 1) true true := by
  have hn : (if w = 1 then 8 else 4) = 4 + 4 * w := by split <;> omega
  simp only [amoOp, hn, rdS_ready _ ha, rdS_ready _ hb, ok_bind]
  by_cases h2 : fn = 2
  · simp only [if_pos h2, rdS_ready _ (hd h2), ok_bind]
  · simp only [if_neg h2, pure_ok, ok_bind]

/-- Every instruction of the family is that operation, with its function. -/
theorem exec_amo {s : State} {d a b sc o w : Nat} {i : Instr} (hi : i ∈ [.amoAdd d a b sc o w, .amoSwap d a b sc o w, .amoMin d a b sc o w,
      .amoMax d a b sc o w, .amoAnd d a b sc o w, .amoOr d a b sc o w, .amoCas d a b sc o w]) :
    ∃ fn, exec i s = perform s (amoOp s fn d a b sc o w) := by
  simp only [List.mem_cons, List.not_mem_nil, or_false] at hi
  rcases hi with rfl | rfl | rfl | rfl | rfl | rfl | rfl <;> exact ⟨_, rfl⟩

/-- The order field's bits: 1 acquires, 2 releases, 3 does both (R99). -/
theorem order_bits {o : Nat} (h : o < 4) : (o % 2 == 1) = (o == 1 || o == 3) ∧ (o / 2 == 1) = (o == 2 || o == 3) := by
  interval_cases o <;> decide

/-- Settles O9: each instruction is one launch, and a launch translates or stops. -/
theorem globalAccesses : Obligations.GlobalAccesses := by
  unfold Obligations.GlobalAccesses
  intro s d a b sc o z ha hb x y root acc stopsAt
  have hl := execLdg_ready d sc o z ha hb
  have hs := execStg_ready d sc o z ha hb
  have untranslated {i : Instr} {kind ea n data swap acq rel rd wr r} (hi : exec i s = perform s (launch s kind ea n d data swap sc acq rel rd wr))
      (h : ∃ st, launch s kind ea n d data swap sc acq rel rd wr = .error st ∧ st.trap.map Prod.fst = some ⟨5, xlInfo ea r, none⟩) :
      stopsAt i ea r := by
    obtain ⟨st, h, ht⟩ := h
    exact ⟨st, hi.trans (perform_error h), ht⟩
  refine ⟨fun pa fills hd _ hlt hal => ⟨fun hx => ?_, fun hx => ?_⟩, ?_, fun i w hd hrd hw hi => ?_, ?_⟩
  · exact hl.trans (perform_ok (launch_translates hd hlt hal hx))
  · exact hs.trans (perform_ok (launch_translates hd hlt hal hx))
  · intro hd _ ea both
    refine ⟨fun h => ?_, fun hlt h => ?_, fun r hlt hal => ⟨fun hx => ?_, fun hx => ?_⟩⟩
    · have hn := needData_high (s := s) (2 ^ z) h
      exact ⟨hl.trans (perform_error (launch_stops hd hn)), hs.trans (perform_error (launch_stops hd hn))⟩
    · have hn := needData_misaligned (s := s) hlt h
      exact ⟨hl.trans (perform_error (launch_stops hd hn)), hs.trans (perform_error (launch_stops hd hn))⟩
    · exact untranslated hl (launch_untranslated hd hlt hal hx)
    · exact untranslated hs (launch_untranslated hd hlt hal hx)
  · obtain ⟨fn, hi⟩ := exec_amo (s := s) hi
    rw [amoOp_ready sc o ha hb (fun _ => hrd) hw] at hi
    refine ⟨fun h => ?_, fun hlt h => ?_, fun r hlt hal hx => ?_⟩
    · exact hi.trans (perform_error (launch_stops hd (needData_high _ h)))
    · exact hi.trans (perform_error (launch_stops hd (needData_misaligned hlt h)))
    · exact untranslated hi (launch_untranslated hd hlt hal hx)
  · intro pa fills w hd hw ho hlt hal hx n amo
    obtain ⟨hacq, hrel⟩ := order_bits ho
    have sends {i : Instr} {fn swap : Nat} (hi : exec i s = perform s (amoOp s fn d a b sc o w)) (hc : fn = 2 → regReady s d = true)
        (hv : (if fn = 2 then regVal s d else 0).toNat % 2 ^ (8 * n) = swap) : amo i fn swap := by
      rw [amoOp_ready sc o ha hb hc hw, hv, hacq, hrel] at hi
      exact hi.trans (perform_ok (launch_translates hd hlt hal hx))
    have plain {i : Instr} {fn : Nat} (hi : exec i s = perform s (amoOp s fn d a b sc o w)) (hf : fn ≠ 2) : amo i fn 0 :=
      sends hi (fun h => absurd h hf) (by rw [if_neg hf]; exact Nat.zero_mod _)
    exact ⟨plain rfl (by decide), plain rfl (by decide), plain rfl (by decide), plain rfl (by decide), plain rfl (by decide),
      plain rfl (by decide), fun hr => sends rfl (fun _ => hr) rfl⟩

end Sys2Proof.Machine
end

-- ==== scalar floating point: O10 ====

section

/-! SUPPORT. A rounded result on its way (R100). -/

namespace Sys2Proof.Machine

theorem fpOut_free {s : State} {d : Nat} (p r : Nat) (v : FV × Word) (hd : regFree s d = true) :
    fpOut s d p r v = .ok [landS 4 d (BitVec.ofNat 64 (encodeFloat (fpFmt p) r v.1).1) ((v.2 ||| (encodeFloat (fpFmt p) r v.1).2) &&& fpFlags)] :=
  outS_free _ _ _ hd

/-- Settles O10: operands in the format of the operation, then one rounding. -/
theorem scalarFloatResults : Obligations.ScalarFloatResults := by
  unfold Obligations.ScalarFloatResults
  intro s d a b p r ha hb hd fmt arg x y out
  have hout (v : FV × Word) : fpOut s d p r v = .ok (out v) := fpOut_free p r v hd
  refine ⟨perform_ok ?_, perform_ok ?_, perform_ok ?_, perform_ok ?_⟩
  · simp only [rdS_ready _ ha, rdS_ready _ hb, ok_bind]
    exact hout _
  · simp only [rdS_ready _ ha, rdS_ready _ hb, ok_bind]
    exact hout _
  · simp only [rdS_ready _ ha, ok_bind]
    exact hout _
  · simp only [rdS_ready _ ha, ok_bind]
    exact outS_free _ _ _ hd

end Sys2Proof.Machine
end

-- ==== branches and loops: O11, O12 ====

section

/-! SUPPORT. The conditions, targets and back-edges of the C slot (R102-R106). -/

namespace Sys2Proof.Machine

/-! ### Branches (R102-R104) -/

theorem branchTaken_ready {s : State} {p : Nat} (n : Nat) (hp : predReady s p = true) :
    branchTaken s p n = .ok (if n = 1 then !predVal s p else predVal s p) := by
  simp only [branchTaken, rdP_ready 0 hp, ok_bind, pure_ok, Except.ok.injEq]
  by_cases h : n = 1
  · simp [h]
  · simp [h, beq_eq_false_iff_ne.2 h]

theorem takeBranch_aligned {s : State} {t : Word} (h : t.toNat % 32 = 0) : takeBranch s t = .ok [.ctl (.branch t)] := by
  simp only [takeBranch, needAligned_ok h, ok_bind, pure_ok]

theorem takeBranch_misaligned {s : State} {t : Word} (h : t.toNat % 32 ≠ 0) : takeBranch s t = .error (faultOf 3 s.issue.slot) := by
  simp only [takeBranch, needAligned_error h, error_bind]

/-- A condition that fails leaves nothing of its branch (R103). -/
theorem branch_untaken {s : State} {p n : Nat} (x : Except Stop (List Eff)) (h : branchTaken s p n = .ok false) :
    perform s (do if ← branchTaken s p n then x else pure []) = .next (noted s []) := perform_ok (by rw [h]; rfl)

/-- A condition that holds leaves what its branch does. -/
theorem branch_taken {s : State} {p n : Nat} (x : Except Stop (List Eff)) (h : branchTaken s p n = .ok true) :
    perform s (do if ← branchTaken s p n then x else pure []) = perform s x := by rw [h]; rfl

/-- A branch whose target would be taken well, on either value of its condition. -/
theorem branch_either {s : State} {p n : Nat} {taken : Bool} {x : Except Stop (List Eff)} {es : List Eff} (h : branchTaken s p n = .ok taken)
    (hx : x = .ok es) : perform s (do if ← branchTaken s p n then x else pure []) = .next (noted s (if taken then es else [])) := by
  cases taken
  · exact branch_untaken x h
  · exact (branch_taken x h).trans (perform_ok hx)

/-! ### Back-edges (R105, R106) -/

theorem backEdge_aligned {s : State} {taken : Bool} {t : Nat} (h : taken = true → (bregOf (ctx s) t).toNat % 32 = 0) :
    backEdge s taken t = .ok (if taken then [.ctl (.jump (bregOf (ctx s) t))] else []) := by
  cases taken
  · rfl
  · simp only [backEdge, if_true, needAligned_ok (h rfl), ok_bind, pure_ok]

theorem backEdge_misaligned {s : State} {t : Nat} (h : (bregOf (ctx s) t).toNat % 32 ≠ 0) :
    backEdge s true t = .error (faultOf 3 s.issue.slot) := by
  simp only [backEdge, if_true, needAligned_error h, error_bind]

section
variable {s : State} {a t st : Nat} (ha : regReady s a = true)
include ha

theorem execLoop_ready : execLoop t a st s =
    perform s (do
      let es ← backEdge s (decide (0 < (regVal s a - BitVec.ofNat 64 st).toInt ∧ a ≠ 0)) t
      pure (es ++ [landS 1 a (regVal s a - BitVec.ofNat 64 st) 0])) := by
  have hb : (decide (0 < (regVal s a - BitVec.ofNat 64 st).toInt) && a != 0) = decide (0 < (regVal s a - BitVec.ofNat 64 st).toInt ∧ a ≠ 0) := by
    rw [Bool.eq_iff_iff]
    simp only [Bool.and_eq_true, decide_eq_true_eq, bne_iff_ne]
  simp only [execLoop, rdS_ready 0 ha, ok_bind, hb]
  rfl

theorem execLoop_aligned (h : 0 < (regVal s a - BitVec.ofNat 64 st).toInt ∧ a ≠ 0 → (bregOf (ctx s) t).toNat % 32 = 0) :
    execLoop t a st s = .next (noted s
      ((if 0 < (regVal s a - BitVec.ofNat 64 st).toInt ∧ a ≠ 0 then [.ctl (.jump (bregOf (ctx s) t))] else []) ++
        [landS 1 a (regVal s a - BitVec.ofNat 64 st) 0])) := by
  rw [execLoop_ready ha]
  refine perform_ok ?_
  rw [backEdge_aligned fun hd => h (of_decide_eq_true hd)]
  simp only [ok_bind, pure_ok, decide_eq_true_eq]

theorem execLoop_misaligned (hc : 0 < (regVal s a - BitVec.ofNat 64 st).toInt) (h0 : a ≠ 0) (h : (bregOf (ctx s) t).toNat % 32 ≠ 0) :
    execLoop t a st s = .next (halted s (faultOf 3 s.issue.slot)) := by
  rw [execLoop_ready ha, decide_eq_true ⟨hc, h0⟩]
  exact perform_error_bind (backEdge_misaligned h) _

end

theorem bundleOff_of_lt {n i : Nat} (h : i < 2 ^ n) :
    bundleOff n i = BitVec.ofInt 64 (32 * (if i < 2 ^ (n - 1) then (i : Int) else (i : Int) - (2 ^ n : Nat))) := by
  rw [bundleOff, sextNat_of_lt h]

/-- Settles O11: each condition and each target decides which effects its branch leaves. -/
theorem branchResults : Obligations.BranchResults := by
  unfold Obligations.BranchResults
  constructor
  · intro s t a p n i j st hi hj ha hp x taken branchTo c
    have hb : branchTaken s p n = .ok taken := branchTaken_ready n hp
    refine ⟨perform_ok rfl, ?_, ?_, fun hal => ⟨?_, ?_, ?_, ?_⟩, fun hal => ?_, fun hu => ⟨?_, ?_, ?_⟩, fun hn => ?_⟩
    · exact perform_ok (by rw [bundleOff_of_lt hi]; rfl)
    · exact perform_ok (by rw [rdS_ready 0 ha, bundleOff_of_lt hj]; rfl)
    · exact perform_ok (takeBranch_aligned hal)
    · exact branch_either hb (takeBranch_aligned hal)
    · exact branch_either hb (by rw [takeBranch_aligned hal]; rfl)
    · exact execLoop_aligned ha fun _ => hal
    · exact branch_either hb (takeBranch_aligned hal)
    · exact branch_untaken _ (hb.trans (by rw [hu]))
    · exact branch_untaken _ (hb.trans (by rw [hu]))
    · exact branch_untaken _ (hb.trans (by rw [hu]))
    · have hno : ¬(0 < c.toInt ∧ a ≠ 0) := by omega
      exact (execLoop_aligned ha fun h => absurd h hno).trans (by rw [if_neg hno]; rfl)
  · intro s t a p n st ha hp bad
    have hb (h : predVal s p = (n != 1)) : branchTaken s p n = .ok true := by
      rw [branchTaken_ready n hp, h]
      by_cases hn : n = 1 <;> simp [hn]
    refine ⟨fun hal => ⟨perform_error (takeBranch_misaligned hal), fun h => ⟨?_, ?_⟩, fun hc h0 => ?_⟩, fun hal h => ?_⟩
    · exact (branch_taken _ (hb h)).trans (perform_error (takeBranch_misaligned hal))
    · exact (branch_taken _ (hb h)).trans (perform_error (by rw [takeBranch_misaligned hal]; rfl))
    · exact execLoop_misaligned ha hc h0 hal
    · exact (branch_taken _ (hb h)).trans (perform_error (takeBranch_misaligned hal))

/-! ### Stages (R106) -/

theorem stagePreds_ready {s : State} {n : Nat} (h : ∀ k, k < n → predReady s (8 + k) = true) :
    stagePreds s n = .ok ((List.range n).map fun k => predVal s (8 + k)) := by
  induction n with
  | zero => rfl
  | succ n ih =>
    rw [stagePreds, ih fun k hk => h k (by omega), rdP_ready 1 (h n (by omega)), List.range_succ, List.map_append]
    rfl

theorem stageEffs_range (f : Nat → Bool) (j n : Nat) :
    stageEffs j ((List.range n).map f) = (List.range n).map fun k => landP (8 + (j + k)) (f k) := by
  induction n generalizing j f with
  | zero => rfl
  | succ n ih =>
    rw [List.range_succ_eq_map, List.map_cons, List.map_map, List.map_cons, List.map_map, stageEffs, ih]
    refine congrArg₂ _ rfl (List.map_congr_left fun k _ => ?_)
    rw [Nat.add_right_comm j 1 k]
    rfl

/-- The stage that LOOPS writes into p(8+k): its counter's sign, then the stages moved up by one. -/
def newStage (s : State) (a k : Nat) : Bool := if k = 0 then decide (0 < (regVal s a).toInt) else predVal s (8 + k - 1)

theorem newStages_eq (s : State) (a n : Nat) :
    decide (0 < (regVal s a).toInt) :: (List.range n).map (fun k => predVal s (8 + k)) = (List.range (n + 1)).map (newStage s a) := by
  rw [List.range_succ_eq_map, List.map_cons, List.map_map]
  rfl

section
variable {s : State} {a st : Nat} (t : Nat) (h1 : 1 ≤ st) (ha : regReady s a = true) (hp : ∀ k, k + 1 < st → predReady s (8 + k) = true)
include h1 ha hp

/-- LOOPS on a readable counter and readable stages: its back-edge, then what it leaves. -/
theorem execLoops_ready : execLoops t a st s = perform s (do
    let es ← backEdge s ((List.range st).any (newStage s a)) t
    pure (es ++ (if decide (0 < (regVal s a).toInt) then [landS 1 a (regVal s a - 1#64) 0] else []) ++
      (List.range st).map (fun k => landP (8 + k) (newStage s a k)) ++ [.land 1 (some (.rot (((ctx s).rot + 15) % 16))) none 0])) := by
  obtain ⟨n, rfl⟩ := Nat.exists_eq_add_of_le' h1
  simp only [execLoops, rdS_ready 0 ha, ok_bind, Nat.add_sub_cancel, stagePreds_ready (n := n) fun k hk => hp k (by omega), newStages_eq,
    List.any_map, Function.id_comp, stageEffs_range, Nat.zero_add]
  rfl

theorem execLoops_aligned (h : (List.range st).any (newStage s a) = true → (bregOf (ctx s) t).toNat % 32 = 0) :
    execLoops t a st s = .next (noted s
      ((if (List.range st).any (newStage s a) then [.ctl (.jump (bregOf (ctx s) t))] else []) ++
        (if decide (0 < (regVal s a).toInt) then [landS 1 a (regVal s a - 1#64) 0] else []) ++
        (List.range st).map (fun k => landP (8 + k) (newStage s a k)) ++ [.land 1 (some (.rot (((ctx s).rot + 15) % 16))) none 0])) := by
  rw [execLoops_ready t h1 ha hp, backEdge_aligned h]
  rfl

theorem execLoops_misaligned (hact : (List.range st).any (newStage s a) = true) (h : (bregOf (ctx s) t).toNat % 32 ≠ 0) :
    execLoops t a st s = .next (halted s (faultOf 3 s.issue.slot)) := by
  rw [execLoops_ready t h1 ha hp, hact]
  exact perform_error_bind (backEdge_misaligned h) _

end

/-- Settles O12: the stages shifted up, and the back-edge that they decide. -/
theorem softwarePipelinedLoop : Obligations.SoftwarePipelinedLoop := by
  unfold Obligations.SoftwarePipelinedLoop
  intro s t a st h1 _ ha hp c go stage active
  exact ⟨execLoops_aligned t h1 ha hp, execLoops_misaligned t h1 ha hp⟩

end Sys2Proof.Machine
end

-- ==== system registers: O13, O14 ====

section

/-! SUPPORT. System registers: the checks of their moves (R70, R108), and what each reads once a write to it has landed (R109-R112, R356). -/

namespace Sys2Proof.Machine

/-! ### Moves (R108) -/

/-- The access check of a defined register in a mode that may name it (R70, R108). -/
theorem sysAccess_ok {s : State} {n : Nat} (hd : sysRegDefined n = true) (hp : sysPrivileged n = true → inStageManager s = true) :
    sysAccess s n = .ok () := by
  simp only [sysAccess, needLegal_ok hd, ok_bind]
  split
  · exact needStageManager_ok (hp ‹_›)
  · rfl

theorem sysOut_ready {s : State} {a : Nat} (n : Nat) (ha : regReady s a = true) :
    sysOut s a n = .ok [.land 1 (some (.sys n (regVal s a))) none 0] := by
  simp only [sysOut, rdS_ready 0 ha, ok_bind, pure_ok]

theorem freeRegs_free {s : State} {a : Nat} (ha : regFree s a = true) : freeRegs s [a] = .ok () := by
  simp only [regFree, Bool.and_eq_true, Bool.not_eq_true'] at ha
  simp [freeRegs, ha.1]

/-- Settles O13: each move passes the checks before it, and lands. -/
theorem systemRegisterMoves : Obligations.SystemRegisterMoves := by
  unfold Obligations.SystemRegisterMoves
  intro s a n hd hp write
  have hacc := sysAccess_ok hd hp
  refine ⟨fun ha => perform_ok ?_, fun ha => ⟨perform_ok ?_, perform_ok ?_, perform_ok ?_, fun h1 h2 => perform_ok ?_, fun hn hs => perform_ok ?_,
    fun hn hq => ?_⟩⟩
  · rw [hacc, ok_bind, outS_free _ _ _ ha]
  · rw [hacc, ok_bind, sysOut_ready n ha]
  · rw [needLegal_ok (beq_self_eq_true 5), ok_bind, sysOut_ready 5 ha]
  · rw [needLegal_ok (beq_self_eq_true 4), ok_bind, sysOut_ready 4 ha]
  · have hsm := hp (by simp [sysPrivileged, h1, h2])
    rw [needLegal_ok (by simp [h1, h2]), ok_bind, needStageManager_ok hsm, ok_bind, sysOut_ready n ha]
  · have hsm := hp (by rcases hn with rfl | rfl <;> rfl)
    rw [needLegal_ok (by simpa using hn), ok_bind, needStageManager_ok hsm, ok_bind, freeRegs_free (regFree_of_ready ha), ok_bind, hs,
      waitFor, if_pos rfl, ok_bind, sysOut_ready n ha]
  · subst hn
    refine perform_ok ?_
    rw [needLegal_ok (beq_self_eq_true _), ok_bind, needStageManager_ok (hp rfl), ok_bind, freeRegs_free (regFree_of_ready ha), ok_bind, hq,
      waitFor, List.isEmpty_nil, if_pos rfl, ok_bind, sysOut_ready _ ha]

/-! ### Reads after writes (R109-R112) -/

section
variable {n : Nat} (s : State) (core : Nat) (v : Word)

theorem sysWrite_readOnly (h : n ∈ [0, 1, 2, 6, 0x48, 0x49, 0x4A, 0x4B]) : sysWrite s core n v = s := by
  simp only [List.mem_cons, List.not_mem_nil, or_false] at h
  rcases h with rfl | rfl | rfl | rfl | rfl | rfl | rfl | rfl <;> rfl

theorem sysRead_breg (h1 : 8 ≤ n) (h2 : n ≤ 15) : sysRead s core n = bregOf (coreOf s core).ctx (n - 8) := by
  unfold sysRead
  repeat rw [if_neg (by omega)]
  rw [if_pos ⟨h1, h2⟩]

theorem sysWrite_breg (h1 : 8 ≤ n) (h2 : n ≤ 15) : coreOf (sysWrite s core n v) core =
    { coreOf s core with ctx := { (coreOf s core).ctx with bregs := mput (n - 8) v (coreOf s core).ctx.bregs } } := by
  unfold sysWrite
  repeat rw [if_neg (by omega)]
  rw [if_pos ⟨h1, h2⟩, coreOf_setCoreOf_same]

theorem sysRead_evsel (h1 : 0x40 ≤ n) (h2 : n ≤ 0x43) : sysRead s core n = mget 0 (n - 0x40) (coreOf s core).evsel := by
  unfold sysRead
  repeat rw [if_neg (by omega)]
  rw [if_pos ⟨h1, h2⟩]

/-- The counter of an event selector (R112). -/
theorem sysRead_evcnt (h1 : 0x40 ≤ n) (h2 : n ≤ 0x43) : sysRead s core (n + 8) = mget 0 (n - 0x40) (coreOf s core).evcnt := by
  unfold sysRead
  repeat rw [if_neg (by omega)]
  rw [if_pos ⟨by omega, by omega⟩, show n + 8 - 0x48 = n - 0x40 by omega]

theorem sysWrite_evsel (h1 : 0x40 ≤ n) (h2 : n ≤ 0x43) : coreOf (sysWrite s core n v) core =
    { coreOf s core with
      evsel := mput (n - 0x40) (v &&& 0x1FF#64) (coreOf s core).evsel
      evcnt := if v.getLsbD 9 then mput (n - 0x40) 0 (coreOf s core).evcnt else (coreOf s core).evcnt } := by
  unfold sysWrite
  repeat rw [if_neg (by omega)]
  rw [if_pos ⟨h1, h2⟩, coreOf_setCoreOf_same]

end

theorem rootBits_eq (v : Word) : rootBits v = v &&& 0x000001FFFFFFE000#64 := by
  have hmask : ∀ i < 64, (0x000001FFFFFFE000#64).getLsbD i = (decide (13 ≤ i) && decide (i - 13 < 28)) := by decide
  apply BitVec.eq_of_getLsbD_eq
  intro i hi
  rw [rootBits, fld, BitVec.getLsbD_and, hmask i hi, BitVec.getLsbD_ofNat, Nat.testBit_mul_two_pow, Nat.testBit_mod_two_pow,
    Nat.testBit_div_two_pow, decide_eq_true hi, Bool.true_and]
  by_cases h : 13 ≤ i
  · rw [Nat.sub_add_cancel h, decide_eq_true h, Bool.true_and, Bool.true_and, Bool.and_comm]
    rfl
  · simp [h]

/-- ROTBASE keeps the number of its low bits. -/
theorem rot_eq (v : Word) : BitVec.ofNat 64 (v.toNat % 16) = v % 16#64 := by
  apply BitVec.eq_of_toNat_eq
  rw [BitVec.toNat_ofNat, BitVec.toNat_umod, Nat.mod_eq_of_lt (by omega)]
  rfl

/-- A flag register reads as its one bit. -/
theorem bit_zero_eq (v : Word) : (if v.getLsbD 0 then 1#64 else 0#64) = v &&& 1#64 := by
  rw [BitVec.and_one_eq_setWidth_ofBool_getLsbD]
  cases v.getLsbD 0 <;> rfl

/-- IN_FORCE stands above the written bits of DUETCTL. -/
theorem duetctl_low (v : Word) (b : Bool) : ((v &&& 0xF#64) ||| (if b then 16#64 else 0#64)) &&& 0xF#64 = v &&& 0xF#64 := by
  rw [BitVec.and_or_distrib_right, BitVec.and_assoc]
  cases b <;> simp

/-- Settles O14: each register by its write and its read. -/
theorem writtenSystemRegistersReadBack : Obligations.WrittenSystemRegistersReadBack := by
  unfold Obligations.WrittenSystemRegistersReadBack
  intro s core n v old new
  refine ⟨?readOnly, ?rot, ?sticky, ?nopre, ?breg, ?cause, ?plain, ?rehearse, ?root, ?migctl, ?duetctl, ?capf, ?evsel⟩
  case readOnly =>
    intro h
    show sysRead (sysWrite s core n v) core n = old
    rw [sysWrite_readOnly s core v h]
  case breg =>
    intro h1 h2
    show sysRead (sysWrite s core n v) core n = v
    rw [sysRead_breg _ _ h1 h2, sysWrite_breg s core v h1 h2]
    exact mget_mput_same ..
  case plain =>
    intro h
    simp only [List.mem_cons, List.not_mem_nil, or_false] at h
    rcases h with rfl | rfl | rfl | rfl | rfl <;> simp [new, sysRead, sysWrite]
  case root => rintro (rfl | rfl) <;> simp [new, sysRead, sysWrite, coreOf_dropTlb, rootBits_eq]
  case evsel =>
    intro h1 h2
    have hc := sysWrite_evsel s core v h1 h2
    constructor
    · show sysRead (sysWrite s core n v) core n = _
      rw [sysRead_evsel _ _ h1 h2, hc]
      exact mget_mput_same ..
    · rw [sysRead_evcnt _ _ h1 h2, sysRead_evcnt _ _ h1 h2, hc]
      split
      · exact mget_mput_same ..
      · rfl
  all_goals rintro rfl
  case rot => simpa [new, sysRead, sysWrite] using rot_eq v
  case sticky => simp [new, old, sysRead, sysWrite, stickyClear]
  case nopre => simp [new, sysRead, sysWrite]
  case cause => simp [new, old, sysRead, sysWrite]
  case rehearse => simpa [new, sysRead, sysWrite] using bit_zero_eq v
  case migctl => simp [new, sysRead, sysWrite]
  case duetctl => simpa [new, sysRead, sysWrite] using duetctl_low v _
  case capf => simp [new, sysRead, sysWrite]

end Sys2Proof.Machine
end

-- ==== matrix multiplication: O38 ====

section

/-! SUPPORT. How a slot that unifies its operands ends, and the course of MMA at issue (R197, R201-R203). -/

namespace Sys2Proof.Machine

theorem need_ok {s : State} {opnd field exp act : Nat} {ok : Bool} (h : ok = true) : need s opnd field exp act ok = .ok () := if_pos h

/-- A slot whose operands unify and whose course ends well notes its bindings before its effects (R145). -/
theorem performBound_ok {s : State} {r : Except Stop (Local × Except Stop (List Eff))} {loc : Local} {es : List Eff} (h : r = .ok (loc, .ok es)) :
    performBound s r = .next (noted s (bindEffs loc ++ es)) := by
  rw [h, performBound, perform_next, settle_settle_ok, noted, settle_frame]
  simp

theorem exec_mma (d a l c h x u n q : Nat) (s : State) : exec (.mma d a l c h x u n q) s = execMma d a l c h x u n q s := rfl

/-- Settles O38: the checks that both forms share pass first; then the form decides whether C is typed, unified, fitted and held. -/
theorem matrixMultiplyIssues : Obligations.MatrixMultiplyIssues := by
  unfold Obligations.MatrixMultiplyIssues
  dsimp only
  intro s d a l c h x u n q k1 k2 k3 ae de le hfree hbefore hd ha hl hband hacc hkind hpair hk1 hk2 hk3 hbanks
  simp only [exec_mma, execMma, hfree, hbefore, hd, ha, hl, need_ok (beq_iff_eq.mpr hband), need_ok (beq_iff_eq.mpr hacc),
    need_ok (beq_iff_eq.mpr hkind), need_ok hpair, hk1, hk2, hk3, ok_bind, pure_ok]
  refine ⟨?twoOperands, ?threeOperands⟩
  case twoOperands =>
    intro hu hdk hae hde hle hafit hdfit
    refine performBound_ok ?_
    simp only [if_neg hu, hdk, hae, hde, hle, hafit, hdfit, hbanks, ok_bind]
  case threeOperands =>
    intro hu k4 k5 ce hc hlayout hfmt hk4 hk5 hplace hce hcfit hcbanks hdk hae hde hle hafit hdfit
    have hapart : ¬(bdOverlap (tileOf (ctx s) c).bd (tileOf (ctx s) d).bd ≠ 0 ∧ (tileOf (ctx s) c).bd ≠ (tileOf (ctx s) d).bd) :=
      fun h => hplace.elim h.1 h.2
    refine performBound_ok ?_
    simp only [if_pos hu, hc, need_ok (beq_iff_eq.mpr hlayout), need_ok (beq_iff_eq.mpr hfmt), hk4, hk5, if_neg hapart, hdk, hae, hde, hle,
      hafit, hdfit, hce, hcfit, hcbanks, hbanks, ok_bind]

end Sys2Proof.Machine
end

-- ==== dimension variables: O45 ====

section

/-! SUPPORT. The courses of DV.SET and DV.BOUND on a readable value: the range that they test, and the SHAPE fault outside it (R160, R163). -/

namespace Sys2Proof.Machine

/-- The stop of a value out of range for variable n, which names operand 0 (R148, R149, log 26). -/
def boundFault (s : State) (n exp act : Nat) : Stop :=
  .fault ⟨6, BitVec.ofNat 64 s.issue.slot, some (shapeWord s.issue.slot 0 8 exp act (some n))⟩

theorem stopShape_bound {α : Type} (s : State) (n exp act : Nat) :
    (stopShape s 0 8 exp act (some n) : Except Stop α) = .error (boundFault s n exp act) := rfl

section
variable {s : State} {b : Nat} (n : Nat) (hb : regReady s b = true)
include hb

theorem execDvSet_binds (h1 : 1 ≤ (regVal s b).toNat) (h2 : (regVal s b).toNat ≤ (dimOf (ctx s) n).limit) :
    execDvSet n b s = .next (noted s [.land 1 (some (.dim n (some (regVal s b).toNat))) none 0]) := by
  refine perform_ok ?_
  rw [rdS_ready 2 hb, ok_bind, if_neg (by omega), pure_ok]

theorem execDvSet_stops (h : (regVal s b).toNat = 0 ∨ (dimOf (ctx s) n).limit < (regVal s b).toNat) :
    execDvSet n b s = .next (halted s (boundFault s n (dimOf (ctx s) n).limit (regVal s b).toNat)) := by
  refine perform_error ?_
  rw [rdS_ready 2 hb, ok_bind, if_pos h, stopShape_bound]

theorem execDvBound_limits (h1 : 1 ≤ (regVal s b).toNat) (h2 : (regVal s b).toNat ≤ 32767)
    (h : ∀ y, (dimOf (ctx s) n).val.or (tentOf s n) = some y → y ≤ (regVal s b).toNat) :
    execDvBound n b s = .next (noted s [.land 1 (some (.dimLimit n (regVal s b).toNat)) none 0]) := by
  refine perform_ok ?_
  rw [rdS_ready 2 hb, ok_bind, if_neg (by omega)]
  cases hy : (dimOf (ctx s) n).val.or (tentOf s n) with
  | none => rfl
  | some y => exact if_neg (Nat.not_lt.mpr (h y hy))

theorem execDvBound_outOfRange (h : (regVal s b).toNat = 0 ∨ 32767 < (regVal s b).toNat) :
    execDvBound n b s = .next (halted s (boundFault s n 32767 (regVal s b).toNat)) := by
  refine perform_error ?_
  rw [rdS_ready 2 hb, ok_bind, if_pos h, stopShape_bound]

/-- A bound below the value, be it the variable's own or the one that a lower slot binds, is refused (R142, R163). -/
theorem execDvBound_belowValue {y : Nat} (h1 : 1 ≤ (regVal s b).toNat) (h2 : (regVal s b).toNat ≤ 32767)
    (hy : (dimOf (ctx s) n).val.or (tentOf s n) = some y) (h : (regVal s b).toNat < y) :
    execDvBound n b s = .next (halted s (boundFault s n (regVal s b).toNat y)) := by
  refine perform_error ?_
  rw [rdS_ready 2 hb, ok_bind, if_neg (by omega), hy]
  exact if_pos h

end

/-- Settles O45: DV.SET and DV.BOUND by the range of their value, DV.GET and DV.CLEAR by their one course, and what the clearing lands. -/
theorem dimensionVariables : Obligations.DimensionVariables := by
  unfold Obligations.DimensionVariables
  intro s d n b dm v shape
  refine ⟨fun hd => perform_ok (outS_free 1 _ 0 hd), perform_ok rfl, fun core => ?cleared, fun hb => ?valued⟩
  case cleared => simpa using (landed_applyUpd s core (.dim n none)).dims n
  case valued =>
    exact ⟨execDvSet_binds n hb, execDvSet_stops n hb, execDvBound_limits n hb, execDvBound_outOfRange n hb,
      fun y => execDvBound_belowValue n hb⟩

end Sys2Proof.Machine
end

-- ==== tile registers: O44 ====

section

/-! SUPPORT. The course of each tile register instruction once its checks pass (R150-R159). -/

namespace Sys2Proof.Machine

theorem afterRead_ok {α : Type} (es : List Eff) (a : α) : afterRead es (.ok a) = .ok a := rfl

theorem needAligned_of_needData {s : State} {va n : Nat} (h : needData s va n = .ok ()) : needAligned s va n = .ok () := by
  unfold needData at h
  split at h
  · cases h
  · exact h

/-- A record that reads has nothing left to wait for, and is aligned (R150, R159). -/
theorem recRead_ok {s : State} {va : Nat} {p : List Byte × List Eff} (h : recRead s va = .ok p) :
    recWait s va = .ok () ∧ needAligned s va 128 = .ok () := by
  simp only [recRead, bind_ok_iff] at h
  obtain ⟨_, hwait, _, hneed, _⟩ := h
  exact ⟨hwait, needAligned_of_needData hneed⟩

theorem sameType_ok (s : State) {w rank fmt layout scale : Nat} (h1 : twRank w = rank) (h2 : twFmt w = fmt) (h3 : twLayout w = layout)
    (h4 : twScale w = scale) : sameType s w rank fmt layout scale = .ok () := by
  simp only [sameType, need_ok (beq_iff_eq.mpr h1), need_ok (beq_iff_eq.mpr h2), need_ok (beq_iff_eq.mpr h3), need_ok (beq_iff_eq.mpr h4), ok_bind]

/-- Storage is judged once every extent in use has a value (R139, R145); then the banks must be held (R168). -/
theorem retyped_ok {s : State} {nw : BitVec 128} {bd : Word} (hfit : ∀ e, extsKnown s [] nw.toNat = some e → checkFit s 0 nw e bd = .ok ())
    (hbanks : banksHeld s bd = .ok ()) : retyped s nw bd = .ok () := by
  unfold retyped
  cases he : extsKnown s [] nw.toNat with
  | none => exact hbanks
  | some e => simp only [hfit e he, ok_bind, hbanks]

/-! ### The register named by t5 (R151, R152, R158, R159) -/

section
variable {s : State} {t a : Nat} {r : Tile} (hr : tileOf (ctx s) t = r) (ha : regReady s a = true)
include hr ha

theorem execTdef_types {tw : BitVec 128} (hfree : tileFree s t = .ok ()) (htouch : touchBd s r.bd false = .ok ())
    (hread : readType s (regVal s a).toNat = .ok tw) (htype : checkType s [] 2 tw = .ok ())
    (hfit : ∀ e, extsKnown s [] tw.toNat = some e → bdSpace r.bd ≠ 0 → checkFit s 0 tw e r.bd = .ok ()) (hbanks : banksHeld s r.bd = .ok ()) :
    execTdef t a s = .next (noted s (readNotes s (regVal s a).toNat 16 ++ [tileEff t (some tw) none])) := by
  subst hr
  refine perform_ok ?_
  simp only [hfree, htouch, rdS_ready 1 ha, hread, htype, hbanks, ok_bind, typeNotes]
  cases he : extsKnown s [] tw.toNat with
  | none => simp only [pure_ok, afterRead_ok]
  | some e =>
    by_cases hspace : bdSpace (tileOf (ctx s) t).bd ≠ 0
    · simp only [if_pos hspace, hfit e he hspace, ok_bind, pure_ok, afterRead_ok]
    · simp only [if_neg hspace, pure_ok, afterRead_ok]

theorem execTbind_binds (hfree : tileFree s t = .ok ()) (htouch : touchBd s r.bd false = .ok ()) (hbind : checkBinding (regVal s a) = .ok ())
    (hfit : ∀ e, r.tw ≠ 0#128 → extsKnown s [] r.tw.toNat = some e → checkFit s 0 r.tw e (regVal s a) = .ok ()) :
    execTbind t a s = .next (noted s [tileEff t none (some (regVal s a))]) := by
  subst hr
  refine perform_ok ?_
  simp only [hfree, htouch, rdS_ready 1 ha, hbind, ok_bind]
  by_cases htyped : (tileOf (ctx s) t).tw ≠ 0#128
  · cases he : extsKnown s [] (tileOf (ctx s) t).tw.toNat with
    | none => simp only [if_pos htyped, pure_ok]
    | some e => simp only [if_pos htyped, hfit e htyped he, ok_bind, pure_ok]
  · simp only [if_neg htyped, pure_ok]

theorem execTtype_stores {es : List Eff} (haligned : (regVal s a).toNat % 32 = 0) (hbanks : banksHeld s r.bd = .ok ())
    (hstore : storeV s (regVal s a).toNat (natBytes 32 (r.tw.toNat + r.bd.toNat * 2 ^ 128)) = .ok es) :
    execTtype t a s = .next (noted s es) := by
  subst hr
  have hlt := storeV_lt (by rw [natBytes_length]; decide) hstore
  refine perform_ok ?_
  simp only [rdS_ready 1 ha, needData_ok hlt haligned, hbanks, ok_bind, hstore]

theorem execTcheck_binds {rb : List Byte} {fill : List Eff} {k : WinRec} {loc : Local} (htype : checkType s [] 0 r.tw = .ok ())
    (hread : recRead s (regVal s a).toNat = .ok (rb, fill)) (hrec : recCheck s (regVal s a).toNat 2 rb = .ok k)
    (hsame : sameType s r.tw.toNat k.rank k.fmt k.layout k.scale = .ok ()) (hloc : unifyRec s r.tw.toNat k 4 [] = .ok loc)
    (hfit : ∀ e, extsKnown s loc r.tw.toNat = some e → checkFit s 0 r.tw e r.bd = .ok ()) (hbanks : banksHeld s r.bd = .ok ()) :
    execTcheck t a s = .next (noted s (fill ++ bindEffs loc)) := by
  subst hr
  obtain ⟨hwait, haligned⟩ := recRead_ok hread
  refine perform_ok ?_
  simp only [rdS_ready 1 ha, hwait, haligned, htype, hread, hrec, hsame, hloc, hbanks, ite_self, ok_bind, pure_ok]
  cases he : extsKnown s loc (tileOf (ctx s) t).tw.toNat with
  | none => simp only [afterRead_ok]
  | some e => simp only [hfit e he, ok_bind, afterRead_ok]

end

/-! ### A register written from the tile named by a5 (R154-R156) -/

section
variable {s : State} {t a : Nat} {q : Tile} {nw : BitVec 128} (hq : tileOf (ctx s) a = q) (hfree : tileFree s t = .ok ())
  (htouch : touchBd s q.bd false = .ok ()) (htype : checkType s [] 1 q.tw = .ok ()) (hretyped : retyped s nw q.bd = .ok ())
include hq hfree htouch htype hretyped

theorem execTtranspose_types {w : Nat} (hw : w = q.tw.toNat) (hrank : twRank w = 1) (hlayout : twLayout w ≤ 1)
    (hband : scBand (twScale w) = false)
    (hnw : nw = twMake 1 (twFmt w) (1 - twLayout w) (twScale w) [twExt w 1, twExt w 0, twExt w 2, twExt w 3]) :
    execTtranspose t a s = .next (noted s [tileEff t (some nw) (some q.bd)]) := by
  subst hq hw hnw
  have hnoBand : (!scBand (twScale (tileOf (ctx s) a).tw.toNat)) = true := by rw [hband]; rfl
  refine perform_ok ?_
  simp only [hfree, htouch, htype, hrank, need_ok (beq_self_eq_true 1), need_ok (decide_eq_true hlayout), need_ok hnoBand, hretyped, ok_bind,
    pure_ok]

theorem execTcast_types {w f : Nat} (hw : w = q.tw.toNat) (hf : fmtKnown f = true) (hwidth : fmtWidth f = fmtWidth (twFmt w))
    (hnw : nw = twMake (twRank w) f (twLayout w) (twScale w) [twExt w 0, twExt w 1, twExt w 2, twExt w 3])
    (hnew : checkType s [] 0 nw = .ok ()) : execTcast t a f s = .next (noted s [tileEff t (some nw) (some q.bd)]) := by
  subst hq hw hnw
  refine perform_ok ?_
  simp only [needLegal_ok hf, hfree, htouch, htype, need_ok (beq_iff_eq.mpr hwidth), hnew, hretyped, ok_bind, pure_ok]

end

/-- Runs of whole blocks, or no blocks at all, pass the scale checks of a reshape (R154). -/
theorem scaleChecks_of_wholeRuns {b x y : Nat} (h : b = 0 ∨ (x % b = 0 ∧ y % b = 0)) : (b == 0 || x % b == 0) = true ∧ (b == 0 || y % b == 0) = true := by
  rcases h with rfl | ⟨hx, hy⟩
  · exact ⟨rfl, rfl⟩
  · simp [hx, hy]

/-- Extents that agree leave none that differs (R154). -/
theorem find_differing_eq_none {se ne : List Nat} (h : ∀ k, k < 4 → se.getD k 1 = ne.getD k 1) :
    ((List.range 4).find? fun k => se.getD k 1 != ne.getD k 1) = none :=
  List.find?_eq_none.mpr fun k hk => by simpa using h k (List.mem_range.mp hk)

/-- Settles O44: each instruction passes its checks in their order and writes; TRESHAPE's course turns on whether the tile has band scales. -/
theorem tileRegisterInstructions : Obligations.TileRegisterInstructions := by
  unfold Obligations.TileRegisterInstructions
  dsimp only
  intro s t a b f tw
  refine ⟨fun ha hfree htouch => ⟨execTdef_types rfl ha hfree htouch, execTbind_binds rfl ha hfree htouch⟩,
    fun ha haligned hbanks es => execTtype_stores rfl ha haligned hbanks, ?check, fun hfree htouch htype => ⟨?transpose, ?cast, ?reshape⟩⟩
  case check =>
    intro ha htype rb fill k loc hread hrec hrank hfmt hlayout hscale
    exact execTcheck_binds rfl ha htype hread hrec (sameType_ok s hrank hfmt hlayout hscale)
  case transpose =>
    intro hrank hlayout hband hfit hbanks
    exact execTtranspose_types rfl hfree htouch htype (retyped_ok hfit hbanks) rfl hrank hlayout hband rfl
  case cast =>
    intro hf hwidth hnew hfit hbanks
    exact execTcast_types rfl hfree htouch htype (retyped_ok hfit hbanks) rfl hf hwidth rfl hnew
  case reshape =>
    intro hb se loc ne hse hread hnew hlayout hlayouts hfmts hscales hloc hne hcount hruns hbands hfit hbanks
    obtain ⟨hrunS, hrunN⟩ := scaleChecks_of_wholeRuns hruns
    refine perform_ok ?_
    simp only [hfree, htouch, rdS_ready 2 hb, hread, typeNotes, htype, hse, hnew, need_ok (decide_eq_true hlayout), need_ok (beq_iff_eq.mpr hlayouts),
      need_ok (beq_iff_eq.mpr hfmts), need_ok (beq_iff_eq.mpr hscales), hloc, hne, if_neg (not_not_intro hcount), need_ok hrunS, need_ok hrunN,
      hfit, hbanks, ok_bind]
    by_cases hband : scBand (twScale (tileOf (ctx s) a).tw.toNat) = true
    · simp only [if_pos hband, find_differing_eq_none (hbands hband), pure_ok, afterRead_ok]
    · simp only [if_neg hband, pure_ok, afterRead_ok]

end Sys2Proof.Machine
end

-- ==== vector arithmetic: O29, O30, O31 ====

section

/-! SUPPORT. The lane-by-lane operations whose sources are read and whose tags fit: where their results go, and with which effects (R177-R180,
R187). -/

namespace Sys2Proof.Machine

/-- A check that is made in one case only, and passes there, leaves what follows it. -/
theorem ite_check_ok {α : Type} {c : Prop} [Decidable c] {x : Except Stop Unit} {y : Except Stop α} (h : c → x = .ok ()) :
    (if c then x >>= fun _ => y else y) = y := by
  split
  · rw [h ‹_›, ok_bind]
  · rfl

/-- The row of the source in position i, in the operation's format (R172). -/
def srcRow (s : State) (vs : List VSrc) (i : Nat) : Row := (vs.map (·.rowIn (opFmt (ctx s) vs))).getD i 0

/-- What a vector operation leaves: its sources' effects, its hold latches, and its result at its place (R38, R193). -/
def vecNotes (s : State) (pos : List (Nat × Nat)) (vs : List VSrc) (es : List Eff) (lat : Nat) (r : VRes) (p : VecPlace) : List Eff :=
  es ++ holdEffs (opFmt (ctx s) vs) pos vs ++ vecEffs lat r p

section
variable {s : State} {g d w lat : Nat} {vs : List VSrc} {es : List Eff} {p : VecPlace}

/-- A vector operation under a true guard notes its result. -/
theorem perform_vecOp {pos : List (Nat × Nat)} {ok : Nat → Nat → Bool} {alike : Bool} {f : Nat → List Row → List VSrc → Except Stop VRes}
    {r : VRes} (h : VecReads s g d w pos vs es) (ht : tagsFit ok pos vs = true) (ha : alike = true → tagsSame (opFmt (ctx s) vs) vs = true)
    (hf : f (opFmt (ctx s) vs) (vs.map (·.rowIn (opFmt (ctx s) vs))) vs = .ok r) (hp : VecGoes s d w r.tag p) :
    perform s (vecOp s g d w lat pos ok alike f) = .next (noted s (vecNotes s pos vs es lat r p)) :=
  perform_ok (vecOp_reads h ht ha hf hp)

/-- One source, lane by lane in the operation's format. -/
theorem perform_vec1 {a : Nat} {ok : Nat → Bool} {f : FV → FV × Word} (h : VecReads s g d w [(0, a)] vs es)
    (ht : tagsFit (fun _ => ok) [(0, a)] vs = true) (hp : VecGoes s d w (some (opFmt (ctx s) vs)) p) :
    perform s (vec1 s g d w lat a ok none f) = .next (noted s (vecNotes s [(0, a)] vs es lat
      (lanesRes (opFmt (ctx s) vs) (encLanes (opFmt (ctx s) vs) ((laneVals (opFmt (ctx s) vs) (srcRow s vs 0)).map f))) p)) :=
  perform_vecOp h ht Bool.false_ne_true.elim rfl hp

/-- The lanes, in a format, of a two-source operation. -/
def pairLanes (s : State) (vs : List VSrc) (t : Nat) (f : FV → FV → FV × Word) : VRes :=
  lanesRes t (encLanes t (((laneVals t (srcRow s vs 0)).zip (laneVals t (srcRow s vs 1))).map fun q => f q.1 q.2))

section
variable {a b : Nat} {ok : Nat → Bool} {f : FV → FV → FV × Word} (h : VecReads s g d w [(0, a), (1, b)] vs es)
  (ht : tagsFit (fun _ => ok) [(0, a), (1, b)] vs = true)
include h ht

/-- Two sources of one format, lane by lane in it. -/
theorem perform_vec2 (hs : tagsSame (opFmt (ctx s) vs) vs = true) (hp : VecGoes s d w (some (opFmt (ctx s) vs)) p) :
    perform s (vec2 s g d w lat a b ok none f) =
      .next (noted s (vecNotes s [(0, a), (1, b)] vs es lat (pairLanes s vs (opFmt (ctx s) vs) f) p)) :=
  perform_vecOp h ht (fun _ => hs) rfl hp

/-- Two sources, lane by lane in the format that the operation fixes. -/
theorem perform_vec2_fixed {t : Nat} (hp : VecGoes s d w (some t) p) :
    perform s (vec2 s g d w lat a b ok (some t) f) = .next (noted s (vecNotes s [(0, a), (1, b)] vs es lat (pairLanes s vs t f) p)) :=
  perform_vecOp h ht Bool.false_ne_true.elim rfl hp

end

/-- A bitwise operation, over the whole rows. -/
theorem perform_vecBits {a b : Nat} {f : Row → Row → Row} (h : VecReads s g d w [(0, a), (1, b)] vs es)
    (ht : tagsFit (fun _ => tagAny) [(0, a), (1, b)] vs = true) (hs : tagsSame (opFmt (ctx s) vs) vs = true)
    (hp : VecGoes s d w (some (opFmt (ctx s) vs)) p) :
    perform s (vecBits s d a b g w f) = .next (noted s (vecNotes s [(0, a), (1, b)] vs es 2
      (rowRes (f (srcRow s vs 0) (srcRow s vs 1)) (opFmt (ctx s) vs) 0) p)) :=
  perform_vecOp h ht (fun _ => hs) rfl hp

/-- Three sources of one format, lane by lane. -/
theorem perform_vec3 {a b : Nat} {f : FV → FV → FV → FV × Word} (h : VecReads s g d w [(0, a), (1, b), (2, d)] vs es)
    (ht : tagsFit (fun _ => tagF) [(0, a), (1, b), (2, d)] vs = true) (hs : tagsSame (opFmt (ctx s) vs) vs = true)
    (hp : VecGoes s d w (some (opFmt (ctx s) vs)) p) :
    perform s (vec3 s g d w lat a b f) = .next (noted s (vecNotes s [(0, a), (1, b), (2, d)] vs es lat
      (lanesRes (opFmt (ctx s) vs) (encLanes (opFmt (ctx s) vs) (((laneVals (opFmt (ctx s) vs) (srcRow s vs 0)).zip
        ((laneVals (opFmt (ctx s) vs) (srcRow s vs 1)).zip (laneVals (opFmt (ctx s) vs) (srcRow s vs 2)))).map
          fun q => f q.1 q.2.1 q.2.2))) p)) :=
  perform_vecOp h ht (fun _ => hs) rfl hp

/-- A shift by at most 31 acts on the 32-bit lanes of the row as it was delivered (R179). -/
theorem perform_vecShift {a i : Nat} {f : BitVec 32 → BitVec 32} (h : VecReads s g d w [(0, a)] vs es)
    (ht : tagsFit (fun _ => tagI) [(0, a)] vs = true) (hi : i ≤ 31) (hp : VecGoes s d w (some 8) p) :
    perform s (vecShift s d a i g w f) = .next (noted s (vecNotes s [(0, a)] vs es 2
      (rowRes (laneRow 8 ((laneCodes 8 (srcRow s vs 0)).map fun c => (f (BitVec.ofNat 32 c)).toNat)) 8 0) p)) := by
  rw [vecShift, needLegal_ok (decide_eq_true hi), ok_bind]
  exact perform_vecOp h ht Bool.false_ne_true.elim rfl hp

/-- The lanes and flags of a transcendental by its fn3 code. -/
def transLanes (fmt op : Nat) (r : Row) : VRes :=
  lanesRes fmt (((laneCodes fmt r).map (transc fmt op)).map (·.1), ((laneCodes fmt r).map (transc fmt op)).foldl (fun acc c => acc ||| c.2) 0#64)

/-- A transcendental that finds its slot's unit free takes it (R180). -/
theorem perform_vecTrans {op a : Nat} (h : VecReads s g d w [(0, a)] vs es) (ht : tagsFit (fun _ => tagT) [(0, a)] vs = true)
    (hu : unitFree s = true) (hp : VecGoes s d w (some (opFmt (ctx s) vs)) p) :
    perform s (vecTrans s op d a g w) = .next (noted s (.act (.unitAccept s.issue.slot) ::
      vecNotes s [(0, a)] vs es 8 (transLanes (opFmt (ctx s) vs) op (srcRow s vs 0)) p)) := by
  have hlegal : bcastLegal s [a] = .ok () := h.legal
  have hquiet : vecStalls s [a] (if w = 1 then none else some d) = .ok () := h.quiet
  refine perform_ok ?_
  simp only [vecTrans, hlegal, rdP_ready 3 h.guardReady, h.guardTrue, hquiet, hu, ok_bind, Bool.not_true, Bool.false_eq_true, if_false, pure_ok]
  exact (bind_ok_iff ..).mpr ⟨_, vecOp_reads_always h (predReady_zero s) ht Bool.false_ne_true.elim rfl hp, rfl⟩

end

/-- Settles O29: each operation is lane by lane in the operation's format or in INT32, or over whole rows. -/
theorem vectorTwoSourceResults : Obligations.VectorTwoSourceResults := by
  unfold Obligations.VectorTwoSourceResults
  intro s d a b g w vs es p pos h fmt row lanes gives
  refine ⟨fun ht hs => ?floats, fun ht => ?integers, fun ht hs => ?bits⟩
  case floats => exact ⟨perform_vec2 h ht hs, perform_vec2 h ht hs, perform_vec2 h ht hs, perform_vec2 h ht hs, perform_vec2 h ht hs⟩
  case integers =>
    exact ⟨perform_vec2_fixed h ht, perform_vec2_fixed h ht, perform_vec2_fixed h ht, perform_vec2_fixed h ht, perform_vec2_fixed h ht⟩
  case bits => exact ⟨perform_vecBits h ht hs, perform_vecBits h ht hs, perform_vecBits h ht hs⟩

/-- Settles O30: the one-source operations lane by lane, the shifts on 32-bit lanes, the transcendentals with their unit. -/
theorem vectorOneSourceResults : Obligations.VectorOneSourceResults := by
  unfold Obligations.VectorOneSourceResults
  intro s d a i g w vs es p pos h fmt row after quieted shifted trans
  refine ⟨fun ht => ?signs, fun ht hi => ?shifts, fun ht hu => ?transcendentals⟩
  case signs => exact ⟨perform_vec1 h ht, perform_vec1 h ht⟩
  case shifts => exact ⟨perform_vecShift h ht hi, perform_vecShift h ht hi, perform_vecShift h ht hi⟩
  case transcendentals =>
    exact ⟨perform_vecTrans h ht hu, perform_vecTrans h ht hu, perform_vecTrans h ht hu, perform_vecTrans h ht hu, perform_vecTrans h ht hu,
      perform_vecTrans h ht hu⟩

/-- Settles O31: the fused operations lane by lane over three rows, VDELTA by its lanes. -/
theorem vectorThreeSourceResults : Obligations.VectorThreeSourceResults := by
  unfold Obligations.VectorThreeSourceResults
  intro s d a b g w vs es p pos h fmt hs row gives fma
  exact ⟨fun ht => ⟨perform_vec3 h ht hs, perform_vec3 h ht hs⟩, fun ht => perform_vecOp h ht (fun _ => hs) rfl⟩

end Sys2Proof.Machine
end

-- ==== lane movement, reductions, single lanes: O33, O34, O36 ====

section

/-! SUPPORT. The operations that move, reduce, sort and rotate lanes (R182-R189), and those that read or replace one (R191, R192). -/

namespace Sys2Proof.Machine

/-! ### Movement (R182, R183, R186) -/

/-- A slide up by i, lane by lane. -/
theorem slideUp_eq_map (l : List Nat) (i : Nat) :
    (List.replicate i 0 ++ l).take l.length = (List.range l.length).map fun n => if n < i then 0 else l.getD (n - i) 0 := by
  refine List.ext_getElem (by simp) fun n hn _ => ?_
  have hlt : n < l.length := hn.trans_eq (by simp)
  simp only [List.getElem_take, List.getElem_map, List.getElem_range, List.getElem_append, List.length_replicate, List.getElem_replicate]
  split
  · rfl
  · exact (List.getD_eq_getElem _ _ (by omega)).symm

/-- A slide down by i, lane by lane. -/
theorem slideDn_eq_map (l : List Nat) (i : Nat) :
    (l.drop i ++ List.replicate i 0).take l.length = (List.range l.length).map fun n => l.getD (n + i) 0 := by
  refine List.ext_getElem (by simp; omega) fun n _ _ => ?_
  simp only [List.getElem_take, List.getElem_map, List.getElem_range, List.getElem_append, List.length_drop, List.getElem_drop,
    List.getElem_replicate]
  split
  · rw [List.getD_eq_getElem _ _ (by omega)]
    simp only [Nat.add_comm]
  · exact (List.getD_eq_default _ _ (by omega)).symm

section
variable {s : State} {g d w a : Nat} {vs : List VSrc} {es : List Eff} {p : VecPlace} {ok : Nat → Bool}
  (h : VecReads s g d w [(0, a)] vs es) (ht : tagsFit (fun _ => ok) [(0, a)] vs = true) (hp : VecGoes s d w (some (opFmt (ctx s) vs)) p)
include h ht hp

/-- One source moved lane by lane. -/
theorem perform_vecMove {f : List Nat → List Nat} :
    perform s (vecMove s d a g w ok f) = .next (noted s (vecNotes s [(0, a)] vs es 2
      (rowRes (laneRow (opFmt (ctx s) vs) (f (laneCodes (opFmt (ctx s) vs) (srcRow s vs 0)))) (opFmt (ctx s) vs) 0) p)) :=
  perform_vecOp h ht Bool.false_ne_true.elim rfl hp

/-- One source moved lane by lane under a mask, which is read behind the guard. -/
theorem masked_vecMove {k : Nat} {f : BitVec 512 × Nat → List Nat → List Nat} (hk : maskReady s k = true) :
    (do
      bcastLegal s [a]
      if !(← rdP s 3 g) then pure []
      else do
        let m ← rdK s 2 k
        vecMove s d a 0 w ok (f m)) = .ok (vecNotes s [(0, a)] vs es 2
      (rowRes (laneRow (opFmt (ctx s) vs) (f (maskVal s k) (laneCodes (opFmt (ctx s) vs) (srcRow s vs 0)))) (opFmt (ctx s) vs) 0) p) := by
  have hlegal : bcastLegal s [a] = .ok () := h.legal
  simp only [hlegal, rdP_ready 3 h.guardReady, h.guardTrue, rdK_ready _ hk, ok_bind, Bool.not_true, Bool.false_eq_true, if_false]
  exact vecOp_reads_always h (predReady_zero s) ht Bool.false_ne_true.elim rfl hp

end

/-- Settles O33: each operation moves the lanes of its one row; VCVT first passes the check of its target format. -/
theorem vectorMovementResults : Obligations.VectorMovementResults := by
  unfold Obligations.VectorMovementResults
  intro s d a f g i k r w vs es p
  refine ⟨fun h hp => ?iota, ?_⟩
  case iota => exact perform_vecOp h rfl Bool.false_ne_true.elim rfl hp
  intro pos h fmt row l gives moved
  refine ⟨fun ht => ⟨?mov, fun hf => ?cvt⟩, fun ht => ⟨fun hp => ?slideUp, fun hp => ?slideDn⟩, fun ht => ⟨fun hp => ?bcast, fun hk => ?masked⟩⟩
  case mov => exact perform_vecOp h ht Bool.false_ne_true.elim rfl
  case cvt => exact perform_vecOp h ht Bool.false_ne_true.elim (if_neg (by simp [hf]))
  case slideUp =>
    rw [← slideUp_eq_map]
    exact perform_vecMove h ht hp
  case slideDn =>
    rw [← slideDn_eq_map]
    exact perform_vecMove h ht hp
  case bcast => exact perform_vecMove h ht hp
  case masked => exact ⟨fun hp => perform_ok (masked_vecMove h ht hp hk), fun hp => perform_ok (masked_vecMove h ht hp hk)⟩

/-! ### Reductions, sorts, rotations (R184, R185, R188, R189) -/

/-- Settles O34: each operation by its course on two rows, the second in its own format where it keeps its tag. -/
theorem vectorReductionResults : Obligations.VectorReductionResults := by
  unfold Obligations.VectorReductionResults
  intro s d a b g o w vs es p fmt row bt red gives xs
  refine ⟨fun h ht => ?one, fun h => ⟨fun ht hl => ?segred, fun ht hl => ?sort, fun ht hl => ?shuf, fun ht => ?rope, fun ht hs => ?smax⟩⟩
  case one => exact ⟨perform_vecOp h ht Bool.false_ne_true.elim rfl, perform_vecOp h ht Bool.false_ne_true.elim rfl⟩
  case segred => exact perform_vecOp h ht Bool.false_ne_true.elim (if_neg (not_not_intro hl))
  case sort =>
    intro sorted hn
    obtain ⟨x, y, rfl⟩ := List.length_eq_two.mp hn
    exact ⟨perform_vecOp h ht Bool.false_ne_true.elim (if_neg (not_not_intro hl)),
      perform_vecOp h ht Bool.false_ne_true.elim (if_neg (not_not_intro hl))⟩
  case shuf => exact perform_vecOp h ht Bool.false_ne_true.elim (if_neg (Nat.not_lt.mpr hl))
  case rope => exact perform_vecOp h ht Bool.false_ne_true.elim rfl
  case smax => exact perform_vecOp h ht (fun _ => hs) (apply_ite Except.ok _ _ _).symm

/-! ### Single lanes (R191, R192) -/

theorem elt_lt (w bits i : Nat) : elt w bits i < 2 ^ w := Nat.mod_lt _ (Nat.two_pow_pos w)

theorem laneCodes_getD_of_lt {t i : Nat} (r : Row) (h : i < lanesOf t) : (laneCodes t r).getD i 0 = elt (fmtWidth t) r.toNat i := by
  simp [laneCodes, h]

theorem laneCodes_getD_of_le {t i : Nat} (r : Row) (h : lanesOf t ≤ i) : (laneCodes t r).getD i 0 = 0 :=
  List.getD_eq_default _ _ (by simpa [laneCodes] using h)

/-- One lane replaced, lane by lane. -/
theorem laneCodes_set (t : Nat) (r : Row) (i c : Nat) :
    (laneCodes t r).set i c = (List.range (lanesOf t)).map fun n => if n = i then c else elt (fmtWidth t) r.toNat n := by
  refine List.ext_getElem (by simp [laneCodes]) fun n _ _ => ?_
  simp only [laneCodes, List.getElem_set, List.getElem_map, List.getElem_range, eq_comm (a := i)]

section
variable {s : State} {d a i g w : Nat} {v : VSrc} {es : List Eff}

/-- VMOVS hands on the code of its lane, 0 for a lane that the row does not have. -/
theorem execVmovs_reads (h : VecReads s g d 1 [(0, a)] [v] es) (ht : tagsFit (fun _ => tagNotCS) [(0, a)] [v] = true)
    (hd : w = 0 → regFree s d = true) {c : Nat} (hc : (laneCodes (opFmt (ctx s) [v]) (v.rowIn (opFmt (ctx s) [v]))).getD i 0 = c) :
    execVmovs d a i g w s = .next (noted s (es ++ holdEffs (opFmt (ctx s) [v]) [(0, a)] [v] ++
      [.land 2 (if w = 1 then none else some (.sreg d (BitVec.ofNat 64 c))) (some (BitVec.ofNat 4096 c, none)) 0])) := by
  have hlegal : bcastLegal s [a] = .ok () := h.legal
  have hquiet : vecStalls s [a] none = .ok () := h.quiet
  subst hc
  refine perform_ok ?_
  simp only [hlegal, rdP_ready 3 h.guardReady, h.guardTrue, hquiet, h.sources, tagsAllowed_ok s _ _ _ ht, ok_bind, Bool.not_true,
    Bool.false_eq_true, if_false]
  exact ite_check_ok fun hw => touchReg_free (hd hw)

/-- VINS replaces its lane by the low bits of the scalar; a row that does not have the lane stays as it is. -/
theorem execVins_reads {p : VecPlace} (h : VecReads s g d w [(2, d)] [v] es) (ht : tagsFit (fun _ => tagNotCS) [(2, d)] [v] = true)
    (ha : regReady s a = true) (hp : VecGoes s d w (some (opFmt (ctx s) [v])) p) :
    execVins d a i g w s = .next (noted s (vecNotes s [(2, d)] [v] es 2 (rowRes
      (if lanesOf (opFmt (ctx s) [v]) ≤ i then v.rowIn (opFmt (ctx s) [v])
        else laneRow (opFmt (ctx s) [v]) ((laneCodes (opFmt (ctx s) [v]) (v.rowIn (opFmt (ctx s) [v]))).set i
          ((regVal s a).toNat % 2 ^ fmtWidth (opFmt (ctx s) [v]))))
      (opFmt (ctx s) [v]) 0) p)) := by
  have hquiet : vecStalls s [d] (if w = 1 then none else some d) = .ok () := h.quiet
  refine perform_ok ?_
  simp only [rdP_ready 3 h.guardReady, h.guardTrue, hquiet, rdS_ready _ ha, ok_bind, Bool.not_true, Bool.false_eq_true, if_false]
  exact vecOp_reads_always h (predReady_zero s) ht Bool.false_ne_true.elim rfl hp

end

/-- Settles O36: both instructions at a lane that the format has, and at one that it does not. -/
theorem singleLanes : Obligations.SingleLanes := by
  unfold Obligations.SingleLanes
  intro s d a i g w v es fmt
  refine ⟨fun h ht hi hw hd _ => ?movs, fun hi => ⟨fun h ht hd _ => ?movsOutside, fun p h ht ha hp => ?insOutside⟩, fun p h ht hi ha hp => ?ins⟩
  case movs =>
    have hlt : elt (fmtWidth fmt) (v.rowIn fmt).toNat i < 2 ^ fmtWidth fmt := elt_lt ..
    have hr : (BitVec.ofNat 64 (elt (fmtWidth fmt) (v.rowIn fmt).toNat i)).toNat = elt (fmtWidth fmt) (v.rowIn fmt).toNat i :=
      (BitVec.toNat_ofNat ..).trans (Nat.mod_eq_of_lt (hlt.trans_le (Nat.pow_le_pow_right Nat.two_pos hw)))
    refine ⟨_, hr, hr.trans_lt hlt, ?_⟩
    rw [hr]
    exact execVmovs_reads h ht hd (laneCodes_getD_of_lt _ hi)
  case movsOutside => exact execVmovs_reads h ht hd (laneCodes_getD_of_le _ hi)
  case insOutside =>
    have hins := execVins_reads (i := i) h ht ha hp
    rwa [if_pos hi] at hins
  case ins =>
    have hins := execVins_reads (i := i) h ht ha hp
    rwa [if_neg (Nat.not_le.mpr hi), laneCodes_set] at hins

end Sys2Proof.Machine
end

-- ==== scratchpad rows: O35 ====

section

/-! SUPPORT. The course of VLD and VST (R190, R191): the offset and its checks, and the row that moves. -/

namespace Sys2Proof.Machine

/-- The checks of a row's offset once its register is read: the alignment, then the end of the scratchpad (R191). -/
def rowCheck (s : State) (ea : Nat) : Except Stop Nat := do
  needAligned s ea 64
  if 0x200000 < ea + 512 then stopFault 5 ea
  pure ea

theorem rowCheck_misaligned {s : State} {ea : Nat} (h : ea % 64 ≠ 0) : rowCheck s ea = .error (faultOf 3 s.issue.slot) := by
  rw [rowCheck, needAligned_error h, error_bind]

theorem rowCheck_outside {s : State} {ea : Nat} (h : ea % 64 = 0) (hout : 0x200000 < ea + 512) : rowCheck s ea = .error (faultOf 5 ea) := by
  rw [rowCheck, needAligned_ok h, ok_bind, if_pos hout]
  rfl

theorem rowCheck_inside {s : State} {ea : Nat} (h : ea % 64 = 0) (hin : ea + 512 ≤ 0x200000) : rowCheck s ea = .ok ea := by
  rw [rowCheck, needAligned_ok h, ok_bind, if_neg (Nat.not_lt.mpr hin)]
  rfl

/-- The offset that VLD and VST compute from a readable register, at a row whose range is not busy (R190). -/
theorem rowEa_ready {s : State} {a i ea : Nat} {write : Option Bool} (hi : i < 256) (ha : regReady s a = true)
    (hea : ea = (regVal s a + BitVec.ofInt 64 ((if i < 128 then (i : Int) else i - 256) * 512)).toNat)
    (ht : ∀ b, write = some b → ea + 512 ≤ 0x200000 → passes (touchRange s ea 512 b) = true) : rowEa s a i write = rowCheck s ea := by
  have hsext : sextNat 8 i = if i < 128 then (i : Int) else i - 256 := sextNat_of_lt hi
  have hsum : (sregOf (ctx s) a + BitVec.ofInt 64 (sextNat 8 i * 512)).toNat = ea := by rw [hsext, hea]; rfl
  simp only [rowEa, hsum, rdS_ready 1 ha, ok_bind]
  cases write with
  | none => rfl
  | some b =>
    refine ite_check_ok fun hc => ok_of_passes (ht b rfl ?_)
    simp only [Bool.and_eq_true, decide_eq_true_eq] at hc
    exact hc.2

section
variable {s : State} {d a i g w ea : Nat} (hg : predReady s g = true) (hv : predVal s g = true)
include hg hv

theorem execVld_stops {st : Stop} (hd : w = 0 → passes (vecStall s d 0 true) = true) (hea : rowEa s a i (some false) = .error st) :
    execVld d a i g w s = .next (halted s st) := by
  refine perform_error ?_
  simp only [rdP_ready 3 hg, hv, hea, ok_bind, error_bind, Bool.not_true, Bool.false_eq_true, if_false]
  exact ite_check_ok fun hw => ok_of_passes (hd hw)

theorem execVld_reads {p : VecPlace} (hd : w = 0 → passes (vecStall s d 0 true) = true) (hea : rowEa s a i (some false) = .ok ea)
    (hpend : pendingOn (ctx s) (spadPending ea 512) = false) (hbad : isBad s (windowPa s.focus ea) 512 = false)
    (hp : VecGoes s d w (some (ctx s).wfmt) p) :
    execVld d a i g w s =
      .next (noted s (vecEffs 2 (rowRes (BitVec.ofNat 4096 (memNat (cur s).spad ea 512)) (ctx s).wfmt 0) p)) := by
  refine perform_ok ?_
  simp only [rdP_ready 3 hg, hv, hea, noEarly_free _ hpend, soundRead_sound hbad, ok_bind, Bool.not_true, Bool.false_eq_true, if_false]
  exact (ite_check_ok fun hw => ok_of_passes (hd hw)).trans (vecDest_goes 2 hp)

theorem execVst_stops {st : Stop} (hl : bcastLegal s [d] = .ok ()) (hd : passes (vecStall s d 0 false) = true)
    (hea : rowEa s a i (if w = 1 then none else some true) = .error st) : execVst d a i g w s = .next (halted s st) := by
  refine perform_error ?_
  simp only [hl, rdP_ready 3 hg, hv, ok_of_passes hd, hea, ok_bind, error_bind, Bool.not_true, Bool.false_eq_true, if_false]

theorem execVst_writes {v : VSrc} {es : List Eff} (hl : bcastLegal s [d] = .ok ()) (hd : passes (vecStall s d 0 false) = true)
    (hea : rowEa s a i (if w = 1 then none else some true) = .ok ea) (hread : readVecs s [(2, d)] [] = .ok ([v], es)) :
    execVst d a i g w s = .next (noted s (es ++ holdEffs (opFmt (ctx s) [v]) [(2, d)] [v] ++
      [.land 2 (if w = 1 then none else some (.spad ea 512 (v.rowIn (opFmt (ctx s) [v])).toNat))
        (some (v.rowIn (opFmt (ctx s) [v]), v.tag)) 0])) := by
  refine perform_ok ?_
  simp only [hl, rdP_ready 3 hg, hv, ok_of_passes hd, hea, hread, ok_bind, Bool.not_true, Bool.false_eq_true, if_false]
  rfl

end

/-- Settles O35: the two stops at a bad offset, and the row that moves at a good one. -/
theorem scratchpadRows : Obligations.ScratchpadRows := by
  unfold Obligations.ScratchpadRows
  intro s d a i g w ea hi hg hv ha hea
  have loadAt (ht : ea + 512 ≤ 0x200000 → passes (touchRange s ea 512 false) = true) : rowEa s a i (some false) = rowCheck s ea :=
    rowEa_ready hi ha hea (by rintro _ ⟨rfl⟩; exact ht)
  have storeAt (ht : w ≠ 1 → ea + 512 ≤ 0x200000 → passes (touchRange s ea 512 true) = true) :
      rowEa s a i (if w = 1 then none else some true) = rowCheck s ea := by
    refine rowEa_ready hi ha hea ?_
    split
    · exact nofun
    · rintro _ ⟨rfl⟩
      exact ht ‹_›
  refine ⟨⟨fun hd ht => ⟨fun hm => ?_, fun hm hout => ?_⟩, fun hl hd ht => ⟨fun hm => ?_, fun hm hout => ?_⟩⟩, ?loads, ?stores⟩
  · exact execVld_stops hg hv hd ((loadAt ht).trans (rowCheck_misaligned hm))
  · exact execVld_stops hg hv hd ((loadAt ht).trans (rowCheck_outside hm hout))
  · exact execVst_stops hg hv hl hd ((storeAt ht).trans (rowCheck_misaligned hm))
  · exact execVst_stops hg hv hl hd ((storeAt ht).trans (rowCheck_outside hm hout))
  case loads =>
    intro p hm hin hd ht hpend hbad hp
    exact ⟨_, fun k hk => rowByte_memNat _ _ hk, execVld_reads hg hv hd ((loadAt fun _ => ht).trans (rowCheck_inside hm hin)) hpend hbad hp⟩
  case stores =>
    intro v es hm hin hl hd ht hread
    exact execVst_writes hg hv hl hd ((storeAt fun hw _ => ht hw).trans (rowCheck_inside hm hin)) hread

end Sys2Proof.Machine
end

-- ==== accumulators and ports: O46 ====

section

/-! SUPPORT. The courses of the accumulator, window and port instructions on readable registers (R164-R166, R169, R174, R175, R264). -/

namespace Sys2Proof.Machine

/-! ### Runs of banks (R164, R169) -/

theorem banksFree_iff (c : Core) (i n : Nat) : banksFree c i n = true ↔ i + n ≤ 256 ∧ ∀ k, k < n → bankTaken c (i + k) = false := by
  simp [banksFree]

theorem banksMine_iff (x : Ctxt) (i n : Nat) : banksMine x i n = true ↔ i + n ≤ 256 ∧ ∀ k, k < n → holdsBank x (i + k) = true := by
  simp [banksMine]

/-- No run is found where none is free. -/
theorem find_banksFree_eq_none {c : Core} {n : Nat} (h : ∀ i, ¬banksFree c i n = true) : ((List.range 256).find? fun i => banksFree c i n) = none :=
  List.find?_eq_none.mpr fun i _ => h i

/-- The run that is found is the lowest. -/
theorem find_banksFree_eq_some {c : Core} {i n : Nat} (hn : 1 ≤ n) (hi : banksFree c i n = true) (hlow : ∀ j, j < i → ¬banksFree c j n = true) :
    ((List.range 256).find? fun i => banksFree c i n) = some i := by
  have hle := ((banksFree_iff c i n).mp hi).1
  refine List.find?_range_eq_some.mpr ⟨hi, List.mem_range.mpr (by omega), fun j hj => ?_⟩
  simpa using hlow j hj

/-! ### ACC.ALLOC (R165) -/

section
variable {s : State} {d a : Nat} (ha : regReady s a = true) (hd : regFree s d = true)
include ha hd

theorem execAccAlloc_badCount (h : (regVal s a).toNat = 0 ∨ 256 < (regVal s a).toNat) :
    execAccAlloc d a s = .next (noted s [landS 1 d (BitVec.ofInt 64 (-3)) 0]) := by
  refine perform_ok ?_
  simp only [rdS_ready 1 ha, ok_bind, if_pos h, outS_free _ _ _ hd]

theorem execAccAlloc_overDecl (hlo : 1 ≤ (regVal s a).toNat) (hhi : (regVal s a).toNat ≤ 256)
    (h : declBanks (ctx s).decl < heldCount (ctx s) + (regVal s a).toNat) :
    execAccAlloc d a s = .next (noted s [landS 1 d (BitVec.ofInt 64 (-2)) 0]) := by
  refine perform_ok ?_
  rw [rdS_ready 1 ha, ok_bind, if_neg (by omega), if_pos h]
  exact outS_free _ _ _ hd

section
variable (hlo : 1 ≤ (regVal s a).toNat) (hhi : (regVal s a).toNat ≤ 256)
  (hdecl : heldCount (ctx s) + (regVal s a).toNat ≤ declBanks (ctx s).decl)
include hlo hhi hdecl

theorem execAccAlloc_noRun (h : ∀ i, ¬banksFree (cur s) i (regVal s a).toNat = true) :
    execAccAlloc d a s = .next (noted s [landS 1 d (BitVec.ofInt 64 (-1)) 0]) := by
  refine perform_ok ?_
  rw [rdS_ready 1 ha, ok_bind, if_neg (by omega), if_neg (Nat.not_lt.mpr hdecl), find_banksFree_eq_none h]
  exact outS_free _ _ _ hd

theorem execAccAlloc_run {i : Nat} (hi : banksFree (cur s) i (regVal s a).toNat = true)
    (hlow : ∀ j, j < i → ¬banksFree (cur s) j (regVal s a).toNat = true) :
    execAccAlloc d a s =
      .next (noted s [.land 1 (some (.accAlloc i (regVal s a).toNat)) none 0, landS 1 d (BitVec.ofNat 64 i) 0]) := by
  refine perform_ok ?_
  rw [rdS_ready 1 ha, ok_bind, if_neg (by omega), if_neg (Nat.not_lt.mpr hdecl), find_banksFree_eq_some hlo hi hlow]
  simp only [outS_free _ _ _ hd, ok_bind, pure_ok]

end
end

/-! ### ACC.FREE, ACC.WIN, PORT.SET, WFENCE (R166, R169, R175, R264) -/

theorem loadWait_of_loadV {s : State} {va n : Nat} {bs : List Byte} (h : loadV s va n = .ok bs) : loadWait s va n = .ok () := by
  simp only [loadV, bind_ok_iff] at h
  obtain ⟨_, hwait, _⟩ := h
  exact hwait

/-- A field of a port's record: n bytes from an offset (R174). -/
def recField (bs : List Byte) : Nat → Nat → Nat := fun o n => bytesNat ((bs.drop o).take n)

section
variable {s : State} {a : Nat} (ha : regReady s a = true)
include ha

theorem execAccFree_frees {b : Nat} (hb : regReady s b = true) (hm : 1 ≤ (regVal s b).toNat)
    (hmine : banksMine (ctx s) (regVal s a).toNat (regVal s b).toNat = true)
    (ht : touchRange s (0x200000 + 2048 * (regVal s a).toNat) (2048 * (regVal s b).toNat) true = .ok ()) :
    execAccFree a b s = .next (noted s [.land 1 (some (.accFree (regVal s a).toNat (regVal s b).toNat)) none 0]) := by
  have hok : ¬((regVal s b).toNat = 0 ∨ (!banksMine (ctx s) (regVal s a).toNat (regVal s b).toNat) = true) := by simp [hmine]; omega
  refine perform_ok ?_
  simp only [rdS_ready 1 ha, rdS_ready 2 hb, ok_bind, ht, if_neg hok, ite_self, pure_ok]

theorem execAccWin_sets {f : Nat} (haligned : (regVal s a).toNat % 4 = 0) (hin : (regVal s a).toNat + 48 ≤ 1024)
    (hmine : banksMine (ctx s) ((regVal s a).toNat / 4) 12 = true) :
    execAccWin a f s = .next (noted s [.land 1 (some (.accWin (regVal s a).toNat f)) none 0]) := by
  have hok : ¬(1024 < (regVal s a).toNat + 48 ∨ (!banksMine (ctx s) ((regVal s a).toNat / 4) 12) = true) := by simp [hmine]; omega
  refine perform_ok ?_
  simp only [rdS_ready 1 ha, needAligned_ok haligned, ok_bind, if_neg hok, pure_ok]

theorem execPortSet_sets {p : Nat} {bs : List Byte} (haligned : (regVal s a).toNat % 64 = 0) (hload : loadV s (regVal s a).toNat 64 = .ok bs)
    (hgood : portBad (recField bs) = none) (hlow : 0 ≤ (portReach (portOfRecord (recField bs))).1)
    (hhigh : (portReach (portOfRecord (recField bs))).2 + 512 ≤ 2 ^ 21) :
    execPortSet a p s = .next (noted s (readNotes s (regVal s a).toNat 64 ++ [.land 1 (some (.port p (portOfRecord (recField bs)))) none 0])) := by
  have hok : ¬((portReach (portOfRecord (recField bs))).1 < 0 ∨
      (Config.spadBytes : Int) < (portReach (portOfRecord (recField bs))).2 + 512) := by simp only [Config.spadBytes]; omega
  refine perform_ok ?_
  simp only [rdS_ready 1 ha, loadWait_of_loadV hload, needData_ok (loadV_lt (by decide) hload) haligned, hload, ok_bind]
  unfold recField at hgood hok ⊢
  simp only [hgood, if_neg hok, pure_ok, afterRead_ok]

end

theorem execWfence_acts {s : State} (hstores : storesDone s s.focus 1 = true) (hacq : acquirePending (cur s) = false)
    (hk : ((ctx s).kq0 ++ (ctx s).kq1).any kWrites = false) : execWfence s = .next (noted s [.act .windowFence]) := by
  refine perform_ok (if_pos ?_)
  simp only [hstores, hacq, hk, Bool.not_false, Bool.and_self]

/-- Settles O46: each instruction by its course, the runs of banks by what they say of each bank. -/
theorem accumulatorAndPorts : Obligations.AccumulatorAndPorts := by
  unfold Obligations.AccumulatorAndPorts
  intro s d a b f p x n m free out
  have hfree (i : Nat) : free i ↔ banksFree (cur s) i n = true := (banksFree_iff ..).symm
  refine ⟨fun ha hd => ⟨?badCount, ?overDecl, fun hlo hhi hdecl => ⟨fun h => ?noRun, fun i hi hlow => ?run⟩⟩, fun ha hb hm hn hheld ht => ?free,
    fun ha haligned hin hheld => ?win, fun bs ha haligned hload => ?set, ?reset, execWfence_acts⟩
  case badCount => exact execAccAlloc_badCount ha hd
  case overDecl => exact execAccAlloc_overDecl ha hd
  case noRun => exact execAccAlloc_noRun ha hd hlo hhi hdecl fun i => mt (hfree i).mpr (h i)
  case run => exact execAccAlloc_run ha hd hlo hhi hdecl ((hfree i).mp hi) fun j hj => mt (hfree j).mpr (hlow j hj)
  case free => exact execAccFree_frees ha hb hm ((banksMine_iff ..).mpr ⟨hn, hheld⟩) ht
  case win => exact execAccWin_sets ha haligned hin ((banksMine_iff ..).mpr ⟨by omega, hheld⟩)
  case set => exact execPortSet_sets ha haligned hload
  case reset => exact perform_ok rfl

end Sys2Proof.Machine
end

-- ==== the matrix engine's state: O39 ====

section

/-! SUPPORT. How the commands of the M slot end: with a full queue none of them notes anything, and MSYNC raises a waiting DATAERR as a held one
(R195, R198, R213). -/

namespace Sys2Proof.Machine

/-- The stop that a slot leaves is read back from the state. -/
theorem halted_inj {s : State} {a b : Stop} (h : halted s a = halted s b) : a = b := by
  have hstops : (halted s a).issue.stops = (halted s b).issue.stops := congrArg (·.issue.stops) h
  simpa [halted, settle] using hstops

/-- MSYNC raises the first waiting DATAERR as one that is no longer held once it is taken (R198). -/
theorem exec_msync_raises {s : State} {e : MatErr} {es : List MatErr} (hq : (ctx s).mq = []) (he : (ctx s).matErrs = e :: es) :
    exec .msync s = .next (halted s (.held ⟨14, BitVec.ofNat 64 e.pa, none⟩ (.mat e))) := by
  refine perform_error ?_
  simp [hq, he]

/-- A module at reset whose core has a DATAERR of a matrix command waiting. -/
def waitingMatErr : State := setCtx State.reset { ctx State.reset with matErrs := [⟨0, []⟩] }

/-- Refutes O39: with an empty queue and a waiting DATAERR (`waitingMatErr`), MSYNC does not leave the plain fault that the second clause states.
It leaves the held stop of `exec_msync_raises`, by which the trap takes the error off the context's list (R198). -/
theorem not_matrixEngineState : ¬ Obligations.MatrixEngineState := by
  unfold Obligations.MatrixEngineState
  intro h
  have hq : (ctx waitingMatErr).mq = [] := rfl
  have he : (ctx waitingMatErr).matErrs = [⟨0, []⟩] := rfl
  obtain ⟨-, hraises, -⟩ := h waitingMatErr 0 0
  have hstated := (exec_msync_raises hq he).symm.trans (hraises _ _ hq he)
  injection hstated with hstates
  cases halted_inj hstates

end Sys2Proof.Machine
end

-- ==== matrix commands: O37 ====

section

/-! SUPPORT. What the checks of the M slot's commands need at issue (R195, R199, R206-R208), and what a full queue leaves of them. -/

namespace Sys2Proof.Machine

/-! ### A queue with room -/

/-- A slot that notes effects and leaves no stop has gone through its course (R22). -/
theorem ok_of_perform_noted {s : State} {r : Except Stop (List Eff)} {es : List Eff} (h : perform s r = .next (noted s es)) : ∃ fs, r = .ok fs := by
  cases r with
  | ok fs => exact ⟨fs, rfl⟩
  | error st =>
    injection h with h
    have hstops : (settle s (.error st)).issue.stops = (noted s es).issue.stops := congrArg (·.issue.stops) h
    simp [noted, settle] at hstops

/-- The same of a slot that unifies its operands, up to its unification (R145). -/
theorem ok_of_performBound_noted {s : State} {r : Except Stop (Local × Except Stop (List Eff))} {es : List Eff}
    (h : performBound s r = .next (noted s es)) : ∃ p, r = .ok p := by
  cases r with
  | ok p => exact ⟨p, rfl⟩
  | error st => obtain ⟨_, h⟩ := ok_of_perform_noted h; cases h

theorem mq_room_of_mRoom {s : State} (h : mRoom s = .ok ()) : (ctx s).mq.length < 16 := by
  by_contra hfull
  have : 16 ≤ (ctx s).mq.length + ((ctx s).mback.elim [] (·.cmds)).length := by omega
  simp [mRoom, this, stopStall] at h

/-- The tests before typing are a clash's, the busy ranges' and the queue's (R51-R53). -/
theorem mBefore_ok_iff (s : State) (rs : List Range) :
    mBefore s rs = .ok () ↔ noClash s rs = .ok () ∧ touchRanges s rs = .ok () ∧ mRoom s = .ok () := by
  simp [mBefore, bind_ok_iff, Unique.exists_iff]

section
variable {α : Type} {s : State} {rs : List Range} {es : List Eff}

theorem mq_room_of_mBefore {f : Unit → Except Stop α} {r : α} (h : (mBefore s rs >>= f) = .ok r) : (ctx s).mq.length < 16 := by
  obtain ⟨_, hbefore, _⟩ := (bind_ok_iff ..).mp h
  exact mq_room_of_mRoom ((mBefore_ok_iff ..).mp hbefore).2.2

/-- A command that begins with those tests and notes its effects has found room. -/
theorem mq_room_of_perform {f : Unit → Except Stop (List Eff)} (h : perform s (mBefore s rs >>= f) = .next (noted s es)) :
    (ctx s).mq.length < 16 := by
  obtain ⟨_, h⟩ := ok_of_perform_noted h
  exact mq_room_of_mBefore h

theorem mq_room_of_performBound {f : Unit → Except Stop (Local × Except Stop (List Eff))}
    (h : performBound s (mBefore s rs >>= f) = .next (noted s es)) : (ctx s).mq.length < 16 := by
  obtain ⟨_, h⟩ := ok_of_performBound_noted h
  exact mq_room_of_mBefore h

/-- MLATCH.X waits for its context's counting pass between those tests (R230). -/
theorem mq_room_of_execMlatchX {a l g : Nat} (h : execMlatchX a l g s = .next (noted s es)) : (ctx s).mq.length < 16 := by
  obtain ⟨_, hcourse⟩ := ok_of_perform_noted h
  obtain ⟨_, _, hcounted⟩ := (bind_ok_iff ..).mp hcourse
  obtain ⟨_, _, htouch⟩ := (bind_ok_iff ..).mp hcounted
  obtain ⟨_, _, hroom⟩ := (bind_ok_iff ..).mp htouch
  obtain ⟨_, hroom, _⟩ := (bind_ok_iff ..).mp hroom
  exact mq_room_of_mRoom hroom

end

/-! ### Extents and the two-tile commands -/

/-- A check that passes on a whole list gives each element's value at its place. -/
theorem getD_of_mapM_ok {α β : Type} {f : α → Except Stop β} {l : List α} {bs : List β} {k : Nat} {a : α} (dflt : β) (h : l.mapM f = .ok bs)
    (ha : l[k]? = some a) : f a = .ok (bs.getD k dflt) := by
  induction l generalizing bs k with
  | nil => simp at ha
  | cons x xs ih =>
    simp only [List.mapM_cons, bind_ok_iff, pure_ok, Except.ok.injEq] at h
    obtain ⟨b, hb, cs, hcs, rfl⟩ := h
    cases k with
    | zero =>
      obtain rfl : x = a := by simpa using ha
      simpa using hb
    | succ k => simpa using ih hcs (by simpa using ha)

/-- Where every extent in use has a value, the list of them holds each at its place (R145). -/
theorem extVal_of_extsNeeded {s : State} {loc : Local} {opnd : Nat} {tw : BitVec 128} {e : List Nat} {k : Nat}
    (h : extsNeeded s loc opnd tw = .ok e) (hk : k ≤ twRank tw.toNat) : extVal s loc (extOf (twExt tw.toNat k)) = some (e.getD k 1) := by
  have hk4 : k < 4 := lt_of_le_of_lt hk (Nat.mod_lt _ (by decide))
  have hget := getD_of_mapM_ok 1 h (show (List.range 4)[k]? = some k by simp [hk4])
  rw [if_neg (Nat.not_lt.mpr hk)] at hget
  split at hget
  · rename_i v hv
    rw [hv, Except.ok.inj hget]
  · cases hget

theorem limit_ok {s : State} {field lim k w v : Nat} (hv : extVal s [] (extOf (twExt w k)) = some v) (h : v ≤ lim) :
    execMlatch.limit s field lim k w = .ok () := by
  simp only [execMlatch.limit, hv, if_neg (Nat.not_lt.mpr h)]

/-- The common end of MTRANS and MCAST, on operands that are apart, typed, fitted and held (R207, R208). -/
theorem mTwo_ok {s : State} {i : Instr} {c : Local} {dt at' : Tile} {e de : List Nat} (hapart : bdOverlap dt.bd at'.bd = 0)
    (hd : checkType s c 0 dt.tw = .ok ()) (he : extsNeeded s c 1 at'.tw = .ok e) (hde : extsNeeded s c 0 dt.tw = .ok de)
    (hafit : checkFit s 1 at'.tw e at'.bd = .ok ()) (hdfit : checkFit s 0 dt.tw de dt.bd = .ok ())
    (habanks : banksHeld s at'.bd = .ok ()) (hdbanks : banksHeld s dt.bd = .ok ()) :
    mTwo s i c dt at' = .ok (c, .ok [.mcmd (mCmd s i [capture dt de, capture at' e, ⟨0, 0⟩, ⟨0, 0⟩] PCtx.empty)]) := by
  simp only [mTwo, need_ok (beq_iff_eq.mpr hapart), hd, he, hde, hafit, hdfit, habanks, hdbanks, ok_bind, pure_ok]

/-- The layouts of rows and columns, which MTRANS takes on either side (R207). -/
theorem transposable_layout {n : Nat} (h : n ∈ [0, 1, 3, 4]) : (n == 0 || n == 1 || n == 3 || n == 4) = true := by
  simpa [or_assoc] using h

/-- Settles O37: each command by its checks in their order; a command that notes its effects has found room in the queue. -/
theorem matrixCommandsIssue : Obligations.MatrixCommandsIssue := by
  unfold Obligations.MatrixCommandsIssue
  dsimp only
  intro s d a l g r p loc loc' e de
  refine ⟨fun hbefore ha hop hfits => ⟨?latch, ?latchX⟩, ?zero,
    fun hbefore hd ha hapart hrank c hdc he hde hafit hdfit habanks hdbanks => ⟨?transpose, ?cast⟩, ?room⟩
  case latch =>
    intro hlayout hrank he hrows hcols hfit hbanks
    have h0 := limit_ok (field := 4) (extVal_of_extsNeeded (k := 0) he (by omega)) hrows
    have h1 := limit_ok (field := 5) (extVal_of_extsNeeded (k := 1) he (by omega)) hcols
    refine perform_ok ?_
    simp only [hbefore, ha, need_ok (decide_eq_true hlayout), need_ok (beq_iff_eq.mpr hrank), need_ok hop, need_ok hfits, h0, h1, he, hfit, hbanks,
      ok_bind, pure_ok]
  case latchX =>
    intro hlayout hp hrows hcols hloc he hfit hsome hlt
    obtain ⟨hclash, htouch, hroom⟩ := (mBefore_ok_iff ..).mp hbefore
    have hfmt := Bool.and_eq_true_iff.mpr ⟨hop, hfits⟩
    refine perform_ok ?_
    simp only [hclash, hp, htouch, hroom, ha, need_ok (beq_iff_eq.mpr hlayout), need_ok hfmt, if_neg (Nat.not_lt.mpr hrows),
      if_neg (Nat.not_lt.mpr hcols), hloc, he, hlt, if_neg hsome, hfit, ok_bind, pure_ok]
  case zero =>
    intro hbefore hd hde hfit hbanks
    refine perform_ok ?_
    simp only [hbefore, hd, hde, hfit, hbanks, ok_bind, pure_ok]
  case transpose =>
    intro halayout hdlayout harank hascale hdscale hfmt hloc hc
    refine performBound_ok ?_
    simp only [hbefore, hd, ha, need_ok (transposable_layout halayout), need_ok (transposable_layout hdlayout), need_ok (beq_iff_eq.mpr harank),
      need_ok (beq_iff_eq.mpr (hrank.trans harank)), need_ok (beq_iff_eq.mpr hascale), need_ok (beq_iff_eq.mpr hdscale),
      need_ok (beq_iff_eq.mpr hfmt), hloc, hc, mTwo_ok hapart hdc he hde hafit hdfit habanks hdbanks, ok_bind]
  case cast =>
    intro halayout hdlayout hc
    refine performBound_ok ?_
    simp only [hbefore, hd, ha, need_ok (bne_iff_ne.mpr hdlayout), need_ok (bne_iff_ne.mpr halayout), need_ok (beq_iff_eq.mpr hrank), hc,
      mTwo_ok hapart hdc he hde hafit hdfit habanks hdbanks, ok_bind]
  case room =>
    intro i es hi h
    simp only [List.mem_cons, List.not_mem_nil, or_false] at hi
    obtain rfl | rfl | rfl | rfl | rfl := hi
    · exact mq_room_of_perform h
    · exact mq_room_of_execMlatchX h
    · exact mq_room_of_perform h
    · exact mq_room_of_performBound h
    · exact mq_room_of_performBound h

end Sys2Proof.Machine
end

-- ==== pattern generators: O47 ====

section

/-! SUPPORT. The courses of the pattern generator's instructions on a context that they may name (R229-R239). -/

namespace Sys2Proof.Machine

/-! ### Waits of the bundle (R230) -/

theorem spendFirst_spent {s : State} {n : Nat} (h : n ≤ (ctx s).spent) : spendFirst s n = .ok () := if_neg (Nat.not_lt.mpr h)

theorem spendFirst_stalls {s : State} {n : Nat} (h : (ctx s).spent < n) : spendFirst s n = .error (.stall .wait) := if_pos h

theorem pgCounted_ok {s : State} {c : Nat} (h : (pctxOf (ctx s) c).counting = false) : pgCounted s c = .ok (pctxOf (ctx s) c) := by
  simp [pgCounted, h]

/-! ### The walk of a program that is well formed (R226, R228) -/

section
variable {s : State} {p : PCtx} {k : PSet} {i : WalkInfo}
  (hwalk : walkProgram ⟨(ctx s).pgMem, p.pars, declProfile (ctx s).decl⟩ p.pc = .ok (k, i))
include hwalk

theorem pgWalk_stalls (order : Nat) (h : (ctx s).spent < i.n) : pgWalk s p order = .error (.stall .wait) := by
  simp only [pgWalk, hwalk, spendFirst_stalls h, error_bind]

theorem pgWalk_forward (h : i.n ≤ (ctx s).spent) : pgWalk s p 0 = .ok (k, i) := by
  simp only [pgWalk, hwalk, spendFirst_spent h, ok_bind]

theorem pgWalk_transposed (h : i.n ≤ (ctx s).spent) (hhash : i.hash = none) : pgWalk s p 1 = .ok (k, i) := by
  simp only [pgWalk, hwalk, spendFirst_spent h, ok_bind, hhash]

theorem pgWalk_noninvertible (h : i.n ≤ (ctx s).spent) {w : Nat} (hhash : i.hash = some w) : pgWalk s p 1 = .error (faultOf 10 w) := by
  simp only [pgWalk, hwalk, spendFirst_spent h, ok_bind, hhash]
  rfl

end

/-! ### What the instructions read and leave -/

/-- A PG.LOAD by register b: its fields name the program at `a` and the place `dest`, and the header gives n words, which fit there (R233). -/
structure PgLoadHeader (s : State) (b a dest n : Nat) : Prop where
  ready : regReady s b = true
  addr : a = fld (regVal s b).toNat 0 53
  place : dest = fld (regVal s b).toNat 53 8
  reserved : fld (regVal s b).toNat 61 3 = 0
  aligned : a % 4 = 0
  header : ∃ hd, loadV s a 4 = .ok hd ∧ n = bytesNat hd
  positive : 1 ≤ n
  bounded : n < 512
  fits : dest + n ≤ 256

/-- The other started contexts whose words a load of n words from `dest` overwrites (R233). -/
def overwritten (x : Ctxt) (c dest n : Nat) : List Nat :=
  (List.range 4).filter fun h => h != c && (pctxOf x h).state == 2 && spanMeets (pctxOf x h) dest n

/-- A context as PG.START leaves it, its counting pass still to run (R234). -/
def startedCtx (p : PCtx) (order : Nat) (i : WalkInfo) : PCtx :=
  { p with state := 2, order := order, total := 0, outcur := 0, blkMajor := 0, blkMinor := 0, spanLo := i.lo, spanHi := i.hi, counting := true }

theorem pctxImage_length_ne_zero (pm : List (Nat × Nat)) (p : PCtx) : (pctxImage pm p).length ≠ 0 := by
  simp [pctxImage, natBytes_length]

section
variable {s : State} {c : Nat} (hfree : pgFree s c = .ok ())
include hfree

/-! ### PG.LOAD (R233) -/

theorem execPgLoad_loads {b a dest n : Nat} {ws ps : List Nat} (h : PgLoadHeader s b a dest n)
    (hcap : ((pgCaptures (ctx s)).any fun k => spanMeets k dest n) = false) (hwords : loadWords s (a + 0x14) n = .ok ws)
    (hpars : loadWords s (a + 4) 4 = .ok ps) :
    execPgLoad c b s = .next (noted s (readNotes s a (0x14 + 4 * n) ++ .land 1 (some (.pgMem dest ws)) none 0 ::
      (overwritten (ctx s) c dest n).map (pgEff · PCtx.empty) ++ [pgEff c { PCtx.empty with state := 1, pc := dest, pars := ps }])) := by
  obtain ⟨hb, rfl, rfl, hreserved, haligned, ⟨hd, hhdr, rfl⟩, hpos, hlt, hfit⟩ := h
  have hmod : bytesNat hd % 512 = bytesNat hd := Nat.mod_eq_of_lt hlt
  have hok : ¬(bytesNat hd / 512 ≠ 0 ∨ bytesNat hd = 0 ∨ 256 < fld (regVal s b).toNat 53 8 + bytesNat hd) := by omega
  refine perform_ok ?_
  simp only [hfree, rdS_ready 2 hb, loadWait_of_loadV hhdr, if_neg (not_not.mpr hreserved), needAligned_ok haligned, hhdr, ok_bind, pure_ok, hmod,
    if_neg hok, hcap, Bool.false_eq_true, if_false, hwords, hpars, afterRead_ok, overwritten]

/-! ### PG.START (R234) -/

section
variable {p : PCtx} (hp : pctxOf (ctx s) c = p) (hstate : p.state ≠ 0)
include hp hstate

theorem pgStart_starts {order : Nat} {k : PSet} {i : WalkInfo} (h : pgWalk s p order = .ok (k, i)) :
    pgStart s c order = .ok [pgEff c (startedCtx p order i)] := by
  subst hp
  simp only [pgStart, hfree, if_neg hstate, h, ok_bind, pure_ok, startedCtx]

theorem pgStart_stops {order : Nat} {st : Stop} (h : pgWalk s p order = .error st) : pgStart s c order = .error st := by
  subst hp
  simp only [pgStart, hfree, if_neg hstate, h, ok_bind, pure_ok, error_bind]

end

/-! ### PG.NEXT, PG.NEXTBLK, PG.SAVE (R235, R236, R238) -/

section
variable {p : PCtx} (hp : pctxOf (ctx s) c = p) (hcount : p.counting = false)
include hp hcount

theorem execPgNext_delivers {d r n : Nat} {ms : List (Nat × Nat)} (hd : vecStall s d 0 true = .ok ()) (hr : vecRow s d = .ok r)
    (hn : n = min 128 (pctxLeft p)) (hms : ms = if n = 0 then [] else pctxTake (ctx s).pgMem p n) :
    execPgNext d c s = .next (noted s [.land 2 (some (.row r (laneRow 8 ((List.range 128).map fun i =>
      match ms[i]? with | some m => m.1 * 2 ^ 16 + m.2 | none => 0xFFFFFFFF)) (some 8))) none 0, pgEff c { p with outcur := p.outcur + n }]) := by
  subst hp hms hn
  exact perform_ok ((bind_ok_iff ..).mpr ⟨_, hfree, (bind_ok_iff ..).mpr ⟨_, pgCounted_ok hcount, (bind_ok_iff ..).mpr ⟨_, hd,
    (bind_ok_iff ..).mpr ⟨_, hr, rfl⟩⟩⟩⟩)

theorem execPgNextblk_none {d : Nat} {es : List Eff}
    (hnone : ∀ k, (p.state = 2 ∧ pctxSet (ctx s).pgMem p = some k) → blockFind k p.order 513 p.blkMajor p.blkMinor = none)
    (hreply : replyTo s d (2 ^ 64 - 1) = .ok es) : execPgNextblk d c s = .next (noted s es) := by
  subst hp
  refine perform_ok ?_
  simp only [hfree, pgCounted_ok hcount, ok_bind]
  split
  · exact hreply
  · rename_i k hset
    obtain ⟨hstate, hset⟩ := Option.ite_none_right_eq_some.mp hset
    simp only [hnone k ⟨hstate, hset⟩, hreply]

theorem execPgNextblk_block {d bp bq m : Nat} {k : PSet} {es : List Eff} {nx : Nat × Nat} (hstate : p.state = 2)
    (hset : pctxSet (ctx s).pgMem p = some k) (hblk : blockFind k p.order 513 p.blkMajor p.blkMinor = some (bp, bq, m))
    (hreply : replyTo s d (m * 2 ^ 32 + bp * 2 ^ 16 + bq) = .ok es)
    (hnx : nx = if bq + 1 = (k.minors p.order + 127) / 128 then (bp + 1, 0) else (bp, bq + 1)) :
    execPgNextblk d c s = .next (noted s (es ++ [pgEff c { p with blkMajor := nx.1, blkMinor := nx.2 }])) := by
  subst hp hnx
  refine perform_ok ?_
  simp only [hfree, pgCounted_ok hcount, if_pos hstate, hset, hblk, hreply, ok_bind, pure_ok]

theorem execPgSave_stores {b : Nat} {es : List Eff} (hb : regReady s b = true) (haligned : (regVal s b).toNat % 64 = 0)
    (hstore : storeV s (regVal s b).toNat (pctxImage (ctx s).pgMem p) = .ok es) : execPgSave c b s = .next (noted s es) := by
  subst hp
  refine perform_ok ?_
  simp only [hfree, pgCounted_ok hcount, rdS_ready 2 hb, needData_ok (storeV_lt (pctxImage_length_ne_zero _ _) hstore) haligned, hstore, ok_bind]

end

/-! ### PG.RESTORE (R239) -/

section
variable {b : Nat} {bs : List Byte} (hb : regReady s b = true) (haligned : (regVal s b).toNat % 64 = 0)
  (hload : loadV s (regVal s b).toNat 64 = .ok bs) (hstate : (pctxOfImage bs).state ≠ 3) (hbit : fld (recField bs 0 4) 3 1 = 0)
  (htop : fld (recField bs 0 4) 12 20 = 0)
include hb haligned hload hstate hbit htop

theorem execPgRestore_started {k : PSet} {i : WalkInfo} (h2 : (pctxOfImage bs).state = 2)
    (hwalk : pgWalk s (pctxOfImage bs) (pctxOfImage bs).order = .ok (k, i)) (hgood : imageBad (ctx s).pgMem bs k i = none)
    (hspent : i.n + countTime k (pctxOfImage bs).order ≤ (ctx s).spent) :
    execPgRestore c b s = .next (noted s (readNotes s (regVal s b).toNat 64 ++ [pgEff c (pctxOfImage bs)])) := by
  unfold recField at hbit htop
  refine perform_ok ?_
  simp only [hfree, rdS_ready 2 hb, loadWait_of_loadV hload, needData_ok (loadV_lt (by decide) hload) haligned, hload, hstate, hbit, htop, ok_bind,
    ne_eq, not_true_eq_false, or_self, if_false, if_pos h2, hwalk, spendFirst_spent hspent, hgood, pure_ok, afterRead_ok]

theorem execPgRestore_idle (h2 : (pctxOfImage bs).state ≠ 2) (horder : fld (recField bs 0 4) 2 1 = 0)
    (hfields : ∀ o ∈ [4, 8, 0x0C, 0x20, 0x24, 0x28, 0x2C, 0x30], recField bs o 4 = 0) (hrest : recField bs 0x34 12 = 0) :
    execPgRestore c b s = .next (noted s (readNotes s (regVal s b).toNat 64 ++ [pgEff c (pctxOfImage bs)])) := by
  have hclear : ((0, fld (recField bs 0 4) 2 1) :: ([4, 8, 0x0C, 0x20, 0x24, 0x28, 0x2C, 0x30].map fun o => (o, recField bs o 4)) ++
      [(0x34, recField bs 0x34 12)]).find? (fun e : Nat × Nat => e.2 != 0) = none := by
    simp only [List.forall_mem_cons] at hfields
    simp [horder, hrest, hfields]
  unfold recField at hbit htop hclear
  refine perform_ok ?_
  simp only [hfree, rdS_ready 2 hb, loadWait_of_loadV hload, needData_ok (loadV_lt (by decide) hload) haligned, hload, hstate, hbit, htop, ok_bind,
    ne_eq, not_true_eq_false, or_self, if_false, if_neg h2, hclear, pure_ok, afterRead_ok]

end
end

/-- Settles O47: each instruction by its course; the starts differ in what their walk answers. -/
theorem patternInstructions : Obligations.PatternInstructions := by
  unfold Obligations.PatternInstructions
  intro s d c b hfree x p v a dest
  refine ⟨fun hd ps ws n hb htop haligned hhdr hn hpos hlt hfit hcap hwords hpars => ?load,
    fun k i hstate hwalk => ⟨fun hspent => ⟨?forward, fun hhash => ?transposed, fun h hhash => ?noninvertible⟩,
      fun hstall => ⟨?forwardStalls, ?transposedStalls⟩⟩,
    fun r hcount hd hr => ?next, fun hcount => ⟨fun hnone es hreply => ?noBlock, fun k bp bq m es hstate hset hblk hreply => ?block⟩,
    fun es hb hcount haligned hstore => ?save,
    fun bs hb haligned hload => ?restore⟩
  case load => exact execPgLoad_loads hfree ⟨hb, rfl, rfl, htop, haligned, ⟨hd, hhdr, hn⟩, hpos, hlt, hfit⟩ hcap hwords hpars
  case forward => exact perform_ok (pgStart_starts hfree rfl hstate (pgWalk_forward hwalk hspent))
  case transposed => exact perform_ok (pgStart_starts hfree rfl hstate (pgWalk_transposed hwalk hspent hhash))
  case noninvertible => exact perform_error (pgStart_stops hfree rfl hstate (pgWalk_noninvertible hwalk hspent hhash))
  case forwardStalls => exact perform_error (pgStart_stops hfree rfl hstate (pgWalk_stalls hwalk 0 hstall))
  case transposedStalls => exact perform_error (pgStart_stops hfree rfl hstate (pgWalk_stalls hwalk 1 hstall))
  case next => exact execPgNext_delivers hfree rfl hcount hd hr rfl rfl
  case noBlock => exact execPgNextblk_none hfree rfl hcount hnone hreply
  case block => exact execPgNextblk_block hfree rfl hcount hstate hset hblk hreply rfl
  case save => exact execPgSave_stores hfree rfl hcount hb haligned hstore
  case restore =>
    intro q im hstate hbit htop
    exact ⟨fun r => execPgRestore_started hfree hb haligned hload hstate hbit htop, execPgRestore_idle hfree hb haligned hload hstate hbit htop⟩

end Sys2Proof.Machine
end

-- ==== the token tree: O48 ====

section

/-! SUPPORT. The courses of the token-tree instructions: what lands of the file, of the rows and of a lane mask (R243-R255). -/

namespace Sys2Proof.Machine

/-! ### Nodes, rows and images -/

theorem treeNode_ok {s : State} {n : Nat} {nd : Node} (h : (ctx s).tree.nodes[n]? = some nd) : treeNode s n = .ok nd := by
  simp only [treeNode, h]

/-- The landing of a row that a tree instruction delivers: latency 2, tagged, no bypass entry (R245). -/
def treeRowEff (fmt : Nat) (codes : List Nat) (r : Nat) : Eff := .land 2 (some (.row r (laneRow fmt codes) (some fmt))) none 0

theorem treeRow_ok {s : State} {d r : Nat} (fmt : Nat) (codes : List Nat) (h : vecRow s d = .ok r) :
    treeRow s d fmt codes = .ok (treeRowEff fmt codes r) := by
  simp only [treeRow, h, ok_bind, pure_ok, treeRowEff]

/-- The positions of the lower 128 nodes (R249). -/
theorem treePositions_zero (t : Tree) : treePositions t 0 = (List.range 128).map fun i => ((t.nodes[i]?).map (·.pos)).getD 0 := by
  simp only [treePositions, Nat.zero_add]

theorem treeImage_length_ne_zero (t : Tree) : (treeImage t).length ≠ 0 := by
  simp only [treeImage, List.length_append, natBytes_length]
  omega

/-! ### Nodes are added (R246, R247) -/

section
variable {s : State} {a : Nat} (ha : regReady s a = true)
include ha

theorem execTreeRoot_empties {b : Nat} (hb : regReady s b = true) (hpos : (regVal s a).toNat < 2 ^ 24) :
    execTreeRoot a b s = .next (noted s [treeEff ⟨[⟨0xFF, 0, (regVal s a).toNat, (regVal s b).toNat % 2 ^ 32⟩], []⟩]) := by
  refine perform_ok ?_
  simp only [rdS_ready 1 ha, rdS_ready 2 hb, if_neg (Nat.not_le.mpr hpos), ok_bind, pure_ok]

theorem execTreeAdd_appends {d n : Nat} {nd : Node} (hn : (ctx s).tree.nodes[n]? = some nd) (hd : regFree s d = true)
    (hfull : (ctx s).tree.nodes.length ≠ 256) (hpos : nd.pos + 1 < 2 ^ 24) :
    execTreeAdd d a n s = .next (noted s
      [treeEff { (ctx s).tree with nodes := (ctx s).tree.nodes ++ [⟨n, nd.depth + 1, nd.pos + 1, (regVal s a).toNat % 2 ^ 32⟩] },
       landS 1 d (BitVec.ofNat 64 (ctx s).tree.nodes.length) 0]) := by
  refine perform_ok ?_
  simp only [rdS_ready 1 ha, touchReg_free hd, if_neg hfull, treeNode_ok hn, if_neg (Nat.not_le.mpr hpos), outS_free _ _ _ hd, ok_bind, pure_ok]

/-! ### An image is saved and loaded (R253, R254) -/

section
variable (haligned : (regVal s a).toNat % 64 = 0)
include haligned

theorem execTreeSave_stores {es : List Eff} (hstore : storeV s (regVal s a).toNat (treeImage (ctx s).tree) = .ok es) :
    execTreeSave a s = .next (noted s es) := by
  refine perform_ok ?_
  simp only [rdS_ready 1 ha, needData_ok (storeV_lt (treeImage_length_ne_zero _) hstore) haligned, hstore, ok_bind]

theorem execTreeLoad_takes {bs : List Byte} (hload : loadV s (regVal s a).toNat 0x1140 = .ok bs) (hgood : treeImageBad bs = none) :
    execTreeLoad a s = .next (noted s
      (treeEff (treeOfImage bs) :: treeSpend (treeOfImage bs) :: readNotes s (regVal s a).toNat 0x1140)) := by
  refine perform_ok ?_
  simp only [rdS_ready 1 ha, loadWait_of_loadV hload, needData_ok (loadV_lt (by decide) hload) haligned, hload, hgood, ok_bind, pure_ok, afterRead_ok]

end
end

/-! ### Masks and the pruned path of a node (R248, R250) -/

section
variable {s : State} {n : Nat} {nd : Node} (hn : (ctx s).tree.nodes[n]? = some nd)
include hn

theorem execTreeMaskk_delivers (k : Nat) :
    execTreeMaskk k n s = .next (noted s [.land 2 (some (.kmask k (BitVec.ofNat 512 (treeMask (ctx s).tree n)) 256)) none 0]) := by
  refine perform_ok ?_
  simp only [treeNode_ok hn, ok_bind, pure_ok]

theorem execTreePrune_keeps_path :
    execTreePrune n s = .next (noted s [treeEff (treePrune (ctx s).tree n), treeSpend (treePrune (ctx s).tree n)]) := by
  refine perform_ok ?_
  simp only [treeNode_ok hn, ok_bind, pure_ok]

end

/-! ### Rows (R248, R249, R251) -/

section
variable {s : State} {d r : Nat} (hd : vecStall s d 0 true = .ok ()) (hr : vecRow s d = .ok r)
include hd hr

/-- The course that TREE.POS and TREE.MAP share: one row of given lanes. -/
theorem perform_treeRow (fmt : Nat) (codes : List Nat) :
    perform s (do
      vecStall s d 0 true
      let e ← treeRow s d fmt codes
      pure [e]) = .next (noted s [treeRowEff fmt codes r]) := by
  refine perform_ok ?_
  simp only [hd, treeRow_ok fmt codes hr, ok_bind, pure_ok]

theorem execTreePosLo_delivers :
    execTreePosLo d s = .next (noted s [treeRowEff 8 ((List.range 128).map fun i => (((ctx s).tree.nodes[i]?).map (·.pos)).getD 0) r]) := by
  rw [← treePositions_zero]
  exact perform_treeRow hd hr 8 _

theorem execTreeMaskBf16_delivers {n : Nat} {nd : Node} (hn : (ctx s).tree.nodes[n]? = some nd) :
    execTreeMaskBf16 d n s = .next (noted s
      [treeRowEff 0x0F ((List.range 256).map fun i => if (treeMask (ctx s).tree n).testBit i then 0 else 0xFF80) r]) := by
  refine perform_ok ?_
  simp only [hd, treeNode_ok hn, treeRow_ok _ _ hr, biasLanes, Nat.zero_add, ok_bind, pure_ok]

/-- Slots 0 to 127 go to the row named, slots 128 to 255 to the one after it (R248). -/
theorem execTreeMaskF32_delivers {n r' : Nat} {nd : Node} (hn : (ctx s).tree.nodes[n]? = some nd)
    (hd' : vecStall s (d + 1) 0 true = .ok ()) (hr' : vecRow s (d + 1) = .ok r') :
    execTreeMaskF32 d n s = .next (noted s
      [treeRowEff 0x12 ((List.range 128).map fun i => if (treeMask (ctx s).tree n).testBit i then 0 else 0xFF800000) r,
       treeRowEff 0x12 ((List.range 128).map fun i => if (treeMask (ctx s).tree n).testBit (128 + i) then 0 else 0xFF800000) r']) := by
  refine perform_ok ?_
  simp only [hd, hd', treeNode_ok hn, treeRow_ok _ _ hr, treeRow_ok _ _ hr', biasLanes, Nat.zero_add, ok_bind, pure_ok]

end

/-- Settles O48: each instruction by its course; TREE.POS and TREE.MAP share theirs, and differ in the lanes of their row. -/
theorem treeInstructions : Obligations.TreeInstructions := by
  unfold Obligations.TreeInstructions
  intro s d a b n r r' nd t va row bit place
  refine ⟨?clear, fun ha hb hpos => ?root,
    fun hn => ⟨fun ha hd hfull hpos => ?add, fun ⟨hd, hr⟩ ⟨hd', hr'⟩ => ?maskF32, fun ⟨hd, hr⟩ => ?maskBf16, ?maskk, ?prune⟩,
    fun ⟨hd, hr⟩ => ⟨?posLo, ?posHi, ?map⟩, fun ha haligned => ⟨fun es hstore => ?save, fun bs hload hgood => ?load⟩⟩
  case clear => exact perform_ok rfl
  case root => exact execTreeRoot_empties ha hb hpos
  case add => exact execTreeAdd_appends ha hn hd hfull hpos
  case maskF32 => exact execTreeMaskF32_delivers hd hr hn hd' hr'
  case maskBf16 => exact execTreeMaskBf16_delivers hd hr hn
  case maskk => exact execTreeMaskk_delivers hn d
  case prune => exact execTreePrune_keeps_path hn
  case posLo => exact execTreePosLo_delivers hd hr
  case posHi => exact perform_treeRow hd hr 8 _
  case map => exact perform_treeRow hd hr 7 _
  case save => exact execTreeSave_stores ha haligned hstore
  case load => exact execTreeLoad_takes ha haligned hload hgood

end Sys2Proof.Machine
end

-- ==== traps taken and undone: O16, O17, O18, O19 ====

section

/-! SUPPORT. What trap entry and return make of a context (R348, R349, R351), and the words that they leave in CAUSE. -/

namespace Sys2Proof.Machine

/-! ### CAUSE (R347, R348, R351) -/

/-- CAUSE from its flags, PSM above LIVE, and a code. -/
def causeWord (flags code : Nat) : Word := BitVec.ofNat 64 (2 ^ 62 * flags) ||| BitVec.ofNat 64 code

/-- PSM in those flags: whether the code was the stage manager's. -/
def psmFlag (m : Mode) : Nat := if m = .stageManager then 2 else 0

theorem psmFlag_lt (m : Mode) : psmFlag m + 1 < 4 := by cases m <;> decide

/-- The weight of PSM in CAUSE. -/
theorem two_pow_mul_psmFlag (m : Mode) : 2 ^ 62 * psmFlag m = if m = .stageManager then 2 ^ 63 else 0 := by cases m <;> rfl

section
variable {flags code : Nat} (hc : code < 256)
include hc

theorem causeWord_toNat (hf : flags < 4) : (causeWord flags code).toNat = 2 ^ 62 * flags + code := by
  rw [causeWord, ← BitVec.ofNat_or, ← Nat.two_pow_add_eq_or_of_lt (by omega), BitVec.toNat_ofNat, Nat.mod_eq_of_lt (by omega)]

/-- The flags of CAUSE are its bits 62 and 63. -/
theorem causeWord_getLsbD (hf : flags < 4) (i : Nat) : (causeWord flags code).getLsbD (62 + i) = flags.testBit i := by
  rw [← BitVec.testBit_toNat, causeWord_toNat hc hf, Nat.testBit_two_pow_mul_add _ (by omega), if_neg (by omega), Nat.add_sub_cancel_left]

/-- At trap entry LIVE stands beside PSM and the code. -/
theorem causeWord_live_toNat (m : Mode) :
    (causeWord (psmFlag m + 1) code).toNat = 2 ^ 62 + code + (if m = .stageManager then 2 ^ 63 else 0) := by
  rw [causeWord_toNat hc (psmFlag_lt m), Nat.mul_add, two_pow_mul_psmFlag]
  omega

/-- ERET takes LIVE away and leaves the code and PSM. -/
theorem causeWord_and_not_live (m : Mode) :
    causeWord (psmFlag m + 1) code &&& ~~~(BitVec.ofNat 64 (2 ^ 62)) = causeWord (psmFlag m) code := by
  have hcode : BitVec.ofNat 64 code &&& ~~~(BitVec.ofNat 64 (2 ^ 62)) = BitVec.ofNat 64 code := by
    have hlive : code.testBit 62 = false := Nat.testBit_lt_two_pow (by omega)
    refine BitVec.eq_of_getLsbD_eq fun i hi => ?_
    rw [BitVec.getLsbD_and, BitVec.getLsbD_not, BitVec.getLsbD_ofNat, BitVec.getLsbD_ofNat, Nat.testBit_two_pow]
    by_cases h : 62 = i
    · subst h
      simp [hlive]
    · simp [hi, h]
  rw [causeWord, causeWord, BitVec.and_or_distrib_right, hcode]
  cases m <;> rfl

end

/-! ### Trap entry and return -/

/-- The context as trap entry leaves it, for the bundle F and a cause (R348). -/
def trapEntry (c : Core) (f : Word) (t : Trap) : Ctxt :=
  lateSwitch { c.ctx with
    trapCap := c.ctx.inflight, inflight := [], trapDelay := c.ctx.delay, trapShadow := c.ctx.shadow, trapWait := c.ctx.wait
    delay := none, shadow := 0, wait := none, cause := causeWord (psmFlag c.ctx.mode + 1) t.code, faultpc := f, faultpcSet := false
    faultinfo := t.info, shapeinfo := t.shape.getD c.ctx.shapeinfo, mode := .stageManager, pc := c.tvec }

section
variable {s : State} {core : Nat}

/-- A trap that finds LIVE set or no usable TVEC changes the status of its core, and the log. -/
theorem takeTrap_double (f : Word) (t : Trap)
    (h : live (coreOf s core).ctx = true ∨ (coreOf s core).tvec = 0 ∨ (coreOf s core).tvec.toNat % 32 ≠ 0) :
    takeTrap s core f t = logErr4 (setCoreOf s core { coreOf s core with status := .stopped }) .doubleFault core t.code
      (coreOf s core).ctx.cause.toNat (coreOf s core).ctx.faultpc.toNat := by
  have hc : (live (coreOf s core).ctx || (coreOf s core).tvec = 0#64 || (coreOf s core).tvec.toNat % 32 ≠ 0) = true := by simpa [or_assoc] using h
  exact if_pos hc

variable (hl : live (coreOf s core).ctx = false) (hv : (coreOf s core).tvec ≠ 0) (ha : (coreOf s core).tvec.toNat % 32 = 0)
include hl hv ha

/-- Any other trap gives its core that context, with the entries of the capture written whole (R362). -/
theorem takeTrap_enters (f : Word) (t : Trap) :
    takeTrap s core f t = setCoreOf s core { coreOf s core with
      ctx := trapEntry (coreOf s core) f t
      snapBad := (coreOf s core).snapBad.filter ((coreOf s core).ctx.inflight.length ≤ ·) } := by
  have hc : ¬(live (coreOf s core).ctx || (coreOf s core).tvec = 0#64 || (coreOf s core).tvec.toNat % 32 ≠ 0) = true := by simpa [hl, ha] using hv
  have hcause : (if (coreOf s core).ctx.mode = .stageManager then BitVec.ofNat 64 (2 ^ 63) else 0) ||| BitVec.ofNat 64 (2 ^ 62) |||
      BitVec.ofNat 64 t.code = causeWord (psmFlag (coreOf s core).ctx.mode + 1) t.code := by
    cases (coreOf s core).ctx.mode <;> rfl
  rw [trapEntry, ← hcause]
  exact if_neg hc

theorem coreOf_takeTrap (f : Word) (t : Trap) :
    coreOf (takeTrap s core f t) core = { coreOf s core with
      ctx := trapEntry (coreOf s core) f t
      snapBad := (coreOf s core).snapBad.filter ((coreOf s core).ctx.inflight.length ≤ ·) } := by
  rw [takeTrap_enters hl hv ha, coreOf_setCoreOf_same]

end

/-- ERET after trap entry, with F the trapped pc: the trapped context but for the records of the trap (R351). -/
theorem trapReturn_trapEntry (c : Core) {t : Trap} (ht : t.code < 256) : trapReturn (trapEntry c c.ctx.pc t) = { c.ctx with
    cause := causeWord (psmFlag c.ctx.mode) t.code, faultpc := c.ctx.pc, faultpcSet := false, faultinfo := t.info,
    shapeinfo := t.shape.getD c.ctx.shapeinfo, trapCap := [], trapDelay := none, trapShadow := 0, trapWait := none, draining := none,
    bypass := c.ctx.bypass.take c.ctx.fresh, holds := [] } := by
  have hmode : (if (causeWord (psmFlag c.ctx.mode + 1) t.code).getLsbD 63 = true then Mode.stageManager else .cue) = c.ctx.mode := by
    rw [causeWord_getLsbD ht (psmFlag_lt _) 1]
    cases c.ctx.mode <;> rfl
  simp only [trapReturn, trapEntry, lateSwitch, causeWord_and_not_live ht, Bool.false_eq_true, if_false, List.take_take, Nat.min_self]
  congr 1

/-- Settles O16: TRAP and HALT have no check of their own but HALT's privilege; ERET's checks come in the order that its clauses follow. -/
theorem trapReturnHaltComplete : Obligations.TrapReturnHaltComplete := by
  unfold Obligations.TrapReturnHaltComplete
  intro s i
  refine ⟨perform_ok rfl, fun hsm => perform_ok ?_, fun hsm hl ha => perform_ok ?_, fun hsm hl ha => perform_error ?_,
    fun hsm hl => perform_error ?_⟩
  all_goals rw [needStageManager_ok hsm, ok_bind]
  · rfl
  · rw [needLegal_ok hl, ok_bind, needAligned_ok ha, ok_bind, pure_ok]
  · rw [needLegal_ok hl, ok_bind, needAligned_error ha, error_bind]
  · rw [hl]
    rfl

/-- Settles O17: the context of trap entry field by field; nothing but the core changes. -/
theorem trapEntryState : Obligations.TrapEntryState := by
  unfold Obligations.TrapEntryState
  intro s core f t c x y hl hv ha ht
  have hcore : coreOf (takeTrap s core f t) core = _ := coreOf_takeTrap hl hv ha f t
  have hcause : y.cause.toNat = 2 ^ 62 + t.code + (if x.mode = .stageManager then 2 ^ 63 else 0) := by
    simp only [y, hcore]
    exact causeWord_live_toNat ht x.mode
  simp only [y, hcore] at hcause ⊢
  refine ⟨rfl, rfl, rfl, rfl, hcause, rfl, rfl, rfl, rfl, rfl, rfl, rfl, rfl, rfl, rfl, rfl, rfl, rfl, rfl, rfl, rfl, rfl, rfl, rfl,
    ⟨rfl, rfl, rfl, rfl, rfl, rfl⟩, ?_⟩
  rw [takeTrap_enters hl hv ha]
  exact ⟨rfl, rfl, fun n hn => coreOf_setCoreOf_other s _ hn⟩

/-- Settles O18: the one state that a double fault leaves. -/
theorem doubleFaultStopsCore : Obligations.DoubleFaultStopsCore := by
  unfold Obligations.DoubleFaultStopsCore
  intro s core f t c h
  rw [takeTrap_double f t h]
  exact ⟨coreOf_setCoreOf_same .., rfl, rfl⟩

/-- Settles O19: return from the context of trap entry is one context, which differs from the trapped one in the records of the trap alone. -/
theorem returnUndoesTrapEntry : Obligations.ReturnUndoesTrapEntry := by
  unfold Obligations.ReturnUndoesTrapEntry
  intro s core t c x y hl hv ha ht
  have hy : y = _ := (congrArg (fun k => trapReturn k.ctx) (coreOf_takeTrap hl hv ha x.pc t)).trans (trapReturn_trapEntry c ht)
  have hcause : y.cause = causeWord (psmFlag x.mode) t.code := by rw [hy]
  have hlt := Nat.lt_of_succ_lt (psmFlag_lt x.mode)
  refine ⟨?code, ?live, ?rest⟩
  case code => rw [hcause, causeWord_toNat ht hlt, two_pow_mul_psmFlag, Nat.add_comm]
  case live =>
    rw [live, hcause, causeWord_getLsbD ht hlt 0]
    cases x.mode <;> rfl
  case rest => rw [hcause, hy]

end Sys2Proof.Machine
end

-- ==== marks: O22, O23, O24 ====

section

/-! SUPPORT. The checks of the mark instructions in their order (R327-R330), and what arrivals make of a mark (R325). -/

namespace Sys2Proof.Machine

theorem waitFor_ok {b : Bool} (h : b = true) : waitFor b = .ok () := if_pos h

/-- What follows a check that passes decides how the slot ends. -/
theorem perform_ok_bind {α : Type} {s : State} {x : Except Stop α} {a : α} (h : x = .ok a) (f : α → Except Stop (List Eff)) :
    perform s (x >>= f) = perform s (f a) := by
  rw [h, ok_bind]

/-! ### The checks at issue (R327, R328, R330) -/

/-- The stop of MARKERR, with its reason, home and mark (R330). -/
def markStop (reason home m : Nat) : Stop := faultOf 15 (reason * 2 ^ 24 + home % 512 * 2 ^ 12 + m)

theorem markErr_eq {α : Type} (reason home m : Nat) : (markErr reason home m : Except Stop α) = .error (markStop reason home m) := rfl

/-- The home that register a names; s0 names the core's own (R328). -/
def homeOf (s : State) (a : Nat) : Nat := if a = 0 then s.focus else (regVal s a).toNat

theorem home_present {s : State} {home : Nat} (hlt : home < 512) (hen : enabled s home = true) : ¬(512 ≤ home ∨ enabled s home = false) := by
  simp [hlt, hen]

section
variable {s : State} {a : Nat} (ha : regReady s a = true) (m : Nat)
include ha

theorem execMarkInit_ready : execMarkInit a m s = perform s
    (if (regVal s a).toNat = 0 ∨ 2 ^ 20 ≤ (regVal s a).toNat then .error (markStop 3 s.focus m)
     else if markSlept s s.focus m = true then .error (markStop 4 s.focus m)
     else .ok [.act (.markInit m false (regVal s a).toNat)]) := by
  simp only [execMarkInit, rdS_ready 0 ha, ok_bind, markErr_eq, pure_ok]

theorem execMarkInitEns_ready : execMarkInitEns a m s = perform s
    (if 4096 ≤ (regVal s a).toNat then .error (markStop 3 s.focus m)
     else if markSlept s s.focus m = true then .error (markStop 4 s.focus m)
     else if 64 ≤ ((cur s).marks.filter fun k => k.2.bound).length then .error (markStop 5 s.focus m)
     else .ok [.act (.markInit m true (regVal s a).toNat)]) := by
  simp only [execMarkInitEns, rdS_ready 0 ha, ok_bind, markErr_eq, pure_ok]

theorem markHome_ready : markHome s a m =
    if 512 ≤ homeOf s a ∨ enabled s (homeOf s a) = false then .error (markStop 2 (homeOf s a) m)
    else if (markOf (coreOf s (homeOf s a)) m).inited = false then .error (markStop 1 (homeOf s a) m)
    else .ok (homeOf s a) := by
  rw [markHome, rdS_ready 0 ha, ok_bind]
  simp only [Bool.not_eq_true']
  rfl

theorem execMarkArrive_ready (hr : releaseReady s = true) :
    execMarkArrive a m s = perform s (markHome s a m >>= fun home => .ok [.act (.markArrive home m)]) := by
  simp only [execMarkArrive, freeRegs_free (regFree_of_ready ha), waitFor_ok hr, ok_bind, pure_ok]

theorem execMarkAwait_ready (hr : releaseReady s = true) :
    execMarkAwait a m s = perform s (markHome s a m >>= fun home =>
      .ok [.act (.markArrive home m), .ctl (.sleep ⟨home, m, (markOf (coreOf s home) m).gen⟩)]) := by
  simp only [execMarkAwait, freeRegs_free (regFree_of_ready ha), waitFor_ok hr, ok_bind, pure_ok]

end

/-- Settles O22: each instruction where every check of its row passes. -/
theorem markInstructionsComplete : Obligations.MarkInstructionsComplete := by
  unfold Obligations.MarkInstructionsComplete
  intro s a m ha v home sleep
  refine ⟨fun hs h1 h2 => ?init, fun hs hv hb => ?bound, fun hlt hen hin => ?_⟩
  case init =>
    refine (execMarkInit_ready ha m).trans (perform_ok ?_)
    rw [if_neg (by omega), if_neg (Bool.eq_false_iff.mp hs)]
  case bound =>
    refine (execMarkInitEns_ready ha m).trans (perform_ok ?_)
    rw [if_neg (by omega), if_neg (Bool.eq_false_iff.mp hs), if_neg (by omega)]
  have hhome : markHome s a m = .ok home :=
    (markHome_ready ha m).trans ((if_neg (home_present hlt hen)).trans (if_neg (Bool.not_eq_false _ ▸ hin)))
  exact ⟨perform_ok_bind hhome _, fun hr => ⟨(execMarkArrive_ready ha m hr).trans (perform_ok_bind hhome _),
    (execMarkAwait_ready ha m hr).trans (perform_ok_bind hhome _)⟩⟩

/-- Settles O23: each reason is a check's stop, of the first check in its row that fails. -/
theorem markErrors : Obligations.MarkErrors := by
  unfold Obligations.MarkErrors
  intro s a m ha hr v home err
  have hinit {reason} h : err (.markInit a m) reason s.focus := (execMarkInit_ready ha m).trans (perform_error h)
  have hens {reason} h : err (.markInitEns a m) reason s.focus := (execMarkInitEns_ready ha m).trans (perform_error h)
  have hhome {reason} (h : markHome s a m = .error (markStop reason home m)) :
      err (.markArrive a m) reason home ∧ err (.markWait a m) reason home ∧ err (.markAwait a m) reason home :=
    ⟨(execMarkArrive_ready ha m hr).trans (perform_error_bind h _), perform_error_bind h _,
      (execMarkAwait_ready ha m hr).trans (perform_error_bind h _)⟩
  refine ⟨fun hlt hen hin => hhome ?uninit, fun h => hhome ?absent, fun h => hinit (if_pos h), fun h => hens (if_pos h),
    fun hs => ⟨fun h1 h2 => hinit ?slept, fun hv => hens ?sleptEns⟩, fun hv hs hfull => hens ?full⟩
  case uninit => exact (markHome_ready ha m).trans ((if_neg (home_present hlt hen)).trans (if_pos hin))
  case absent => exact (markHome_ready ha m).trans (if_pos h)
  case slept => exact (if_neg (by omega)).trans (if_pos hs)
  case sleptEns => exact (if_neg (Nat.not_le.mpr hv)).trans (if_pos hs)
  case full => exact (if_neg (Nat.not_le.mpr hv)).trans ((if_neg (Bool.eq_false_iff.mp hs)).trans (if_pos hfull))

/-! ### Arrivals (R325, R327) -/

section
variable (s : State) (home m n : Nat)

theorem markOf_markSet : markOf (coreOf (markSet s home m false n) home) m = ⟨true, false, n, 0, (markOf (coreOf s home) m).gen⟩ := by
  rw [markSet, coreOf_setCoreOf_same]
  exact mget_mput_same ..

/-- An arrival is counted, and the mark tested. -/
theorem markOf_markArrive : markOf (coreOf (markArrive s home m) home) m =
    markNext s { markOf (coreOf s home) m with arrived := (markOf (coreOf s home) m).arrived + 1 } := by
  rw [markArrive, markOf_markTest, if_pos rfl, coreOf_setCoreOf_same]
  exact congrArg (markNext s) (mget_mput_same ..)

theorem arrivals_succ (k : Nat) : arrivals (k + 1) s home m = markArrive (arrivals k s home m) home m := by
  induction k generalizing s with
  | zero => rfl
  | succ k ih => exact ih (markArrive s home m)

end

/-- A mark with a count of its own completes its phase exactly when its arrivals reach it. -/
theorem markNext_unbound (s : State) (n a g : Nat) :
    markNext s ⟨true, false, n, a, g⟩ = if n ≤ a then ⟨true, false, n, 0, (g + 1) % 65536⟩ else ⟨true, false, n, a, g⟩ := by
  simp [markNext, markDone]

/-- Fewer arrivals than the count add up. -/
theorem arrivals_short {s : State} {home m n g : Nat} (h : markOf (coreOf s home) m = ⟨true, false, n, 0, g⟩) {k : Nat} (hk : k < n) :
    markOf (coreOf (arrivals k s home m) home) m = ⟨true, false, n, k, g⟩ := by
  induction k with
  | zero => exact h
  | succ k ih => rw [arrivals_succ, markOf_markArrive, ih (by omega), markNext_unbound, if_neg (Nat.not_le.mpr hk)]

/-- Settles O24: arrivals add up below the count, and the last one completes the phase. -/
theorem markPhaseCompletes : Obligations.MarkPhaseCompletes := by
  unfold Obligations.MarkPhaseCompletes
  intro s home m n k hn _ t g
  have hset := markOf_markSet s home m n
  refine ⟨arrivals_short hset, ?_⟩
  rintro rfl
  obtain ⟨j, rfl⟩ : ∃ j, k = j + 1 := ⟨k - 1, by omega⟩
  have hshort := arrivals_short hset j.lt_succ_self
  show markOf (coreOf (arrivals (j + 1) _ home m) home) m = _
  rw [arrivals_succ, markOf_markArrive, hshort, markNext_unbound, if_pos (Nat.le_refl _)]

end Sys2Proof.Machine
end

-- ==== ensembles: O21 ====

section

/-! SUPPORT. The course of the ensemble instructions, and a cue's list of ensembles with the count of one after a join or a leave (R323). -/

namespace Sys2Proof.Machine

theorem freeRegs_free_two {s : State} {a b : Nat} (ha : regFree s a = true) (hb : regFree s b = true) : freeRegs s [a, b] = .ok () := by
  simp only [regFree, Bool.and_eq_true, Bool.not_eq_true'] at ha hb
  simp [freeRegs, ha.1, hb.1]

theorem ensId_ready {s : State} {n : Nat} (opnd : Nat) (h : regReady s n = true) (hlt : (regVal s n).toNat < 4096) :
    ensId s opnd n = .ok (regVal s n).toNat := by
  rw [ensId, rdS_ready opnd h, ok_bind, if_neg (Nat.not_le.mpr hlt), pure_ok]

/-! ### At issue -/

section
variable {s : State} {a : Nat} (ha : regReady s a = true) (hr : releaseReady s = true) (hlt : (regVal s a).toNat < 4096)
include ha hr hlt

theorem execEnsLeave_ready : execEnsLeave a s = .next (noted s [.act (.ensLeave (regVal s a).toNat)]) := by
  refine perform_ok ?_
  simp only [freeRegs_free (regFree_of_ready ha), waitFor_ok hr, ensId_ready 0 ha hlt, ok_bind, pure_ok]

theorem execEnsJoin_ready : execEnsJoin a s = perform s
    (if (ctx s).ens.contains (regVal s a).toNat = true then .ok []
     else if 8 ≤ (ctx s).ens.length then stopFault 8 (0x200 ||| (regVal s a).toNat)
     else if 2 ^ 20 - 1 ≤ ensCount s (regVal s a).toNat then stopFault 8 (0x400 ||| (regVal s a).toNat)
     else .ok [.act (.ensJoin (regVal s a).toNat)]) := by
  simp only [execEnsJoin, freeRegs_free (regFree_of_ready ha), waitFor_ok hr, ensId_ready 0 ha hlt, ok_bind, pure_ok]

end

/-! ### Performed -/

/-- An ensemble's count changes with no core's context. -/
theorem coreOf_ensSet (s : State) (e n k : Nat) : coreOf (ensSet s e n) k = coreOf s k := rfl

theorem ensCount_ensSet (s : State) (e n : Nat) : ensCount (ensSet s e n) e = n := mget_mput_same ..

section
variable {s : State} {core e : Nat}

theorem ensLeave_absent (h : e ∉ (coreOf s core).ctx.ens) : ensLeave s core e = s := by simp [ensLeave, h]

theorem ensLeave_member (h : e ∈ (coreOf s core).ctx.ens) :
    (coreOf (ensLeave s core e) core).ctx.ens = (coreOf s core).ctx.ens.erase e ∧ ensCount (ensLeave s core e) e = ensCount s e - 1 := by
  simp [ensLeave, h, coreOf_ensSet, ensCount_ensSet]

theorem ensJoin_member (h : e ∈ (coreOf s core).ctx.ens) : ensJoin s core e = s := by simp [ensJoin, h]

theorem ensJoin_absent (h : e ∉ (coreOf s core).ctx.ens) :
    (coreOf (ensJoin s core e) core).ctx.ens = (coreOf s core).ctx.ens ++ [e] ∧ ensCount (ensJoin s core e) e = ensCount s e + 1 := by
  simp [ensJoin, h, coreOf_ensSet, ensCount_ensSet]

section
variable (hnodup : (coreOf s core).ctx.ens.Nodup) (hlen : (coreOf s core).ctx.ens.length ≤ 8)
include hnodup hlen

theorem ensLeave_keeps : (coreOf (ensLeave s core e) core).ctx.ens.Nodup ∧ (coreOf (ensLeave s core e) core).ctx.ens.length ≤ 8 ∧
    e ∉ (coreOf (ensLeave s core e) core).ctx.ens ∧
    ensCount (ensLeave s core e) e = if e ∈ (coreOf s core).ctx.ens then ensCount s e - 1 else ensCount s e := by
  by_cases h : e ∈ (coreOf s core).ctx.ens
  · obtain ⟨hens, hcount⟩ := ensLeave_member h
    rw [hens, hcount, if_pos h]
    exact ⟨hnodup.erase e, (List.length_erase_le ..).trans hlen, hnodup.not_mem_erase, rfl⟩
  · rw [ensLeave_absent h, if_neg h]
    exact ⟨hnodup, hlen, h, rfl⟩

theorem ensJoin_keeps (hroom : e ∈ (coreOf s core).ctx.ens ∨ (coreOf s core).ctx.ens.length < 8) :
    (coreOf (ensJoin s core e) core).ctx.ens.Nodup ∧ (coreOf (ensJoin s core e) core).ctx.ens.length ≤ 8 ∧
    e ∈ (coreOf (ensJoin s core e) core).ctx.ens ∧
    ensCount (ensJoin s core e) e = if e ∈ (coreOf s core).ctx.ens then ensCount s e else ensCount s e + 1 := by
  by_cases h : e ∈ (coreOf s core).ctx.ens
  · rw [ensJoin_member h, if_pos h]
    exact ⟨hnodup, hlen, h, rfl⟩
  · obtain ⟨hens, hcount⟩ := ensJoin_absent h
    have hshort := hroom.resolve_left h
    rw [hens, hcount, if_neg h]
    exact ⟨hnodup.append (List.nodup_singleton e) (List.disjoint_singleton.mpr h), by simpa using hshort, by simp, rfl⟩

end
end

/-- Settles O21: the instructions at issue, then the two acts on a list with the ensemble and on one without it. -/
theorem ensembleInstructionsComplete : Obligations.EnsembleInstructionsComplete := by
  unfold Obligations.EnsembleInstructionsComplete
  intro s a b e
  refine ⟨fun ha hr hlt => ⟨execEnsLeave_ready ha hr hlt, fun hmem => ?again, fun hmem hlen hcount => ?join⟩, fun hb hlt ha => ?size,
    fun core k hnodup hlen => ⟨ensLeave_keeps hnodup hlen, ensJoin_keeps hnodup hlen⟩⟩
  case again => exact (execEnsJoin_ready ha hr hlt).trans (perform_ok (if_pos (List.contains_iff_mem.mpr hmem)))
  case join =>
    refine (execEnsJoin_ready ha hr hlt).trans (perform_ok ?_)
    rw [if_neg (by simpa using hmem), if_neg (by omega), if_neg (Nat.not_le.mpr hcount)]
  case size =>
    refine perform_ok ?_
    rw [freeRegs_free_two ha (regFree_of_ready hb), ok_bind, ensId_ready 1 hb hlt, ok_bind]
    exact replyTo_free _ ha

end Sys2Proof.Machine
end

-- ==== a fork's join counter and a wait's word: O20, O25 ====

section

/-! SUPPORT. Two states with a read at issue that the statements of O20 and O25 leave out: a fork whose walk to the join counter meets an error,
and a WAITA on a word of a module that does not answer. -/

namespace Sys2Proof.Machine

theorem noted_effs_length (s : State) (es : List Eff) : (noted s es).issue.effs.length = s.issue.effs.length + es.length := by
  simp [noted, settle]

/-- A slot notes its effects or leaves its stop, never both. -/
theorem noted_ne_halted (s : State) (es : List Eff) (st : Stop) : noted s es ≠ halted s st := fun h => by
  have hstops : (noted s es).issue.stops = (halted s st).issue.stops := congrArg (·.issue.stops) h
  simp [noted, halted, settle] at hstops

/-! ### CUE.FORK (R319, R358, R372) -/

/-- A record for wing 0 whose join counter stands at 0x10000. -/
def joinTemplate : List Byte := natBytes 16 0 ++ natBytes 8 0x10000 ++ natBytes 40 0

/-- The leaf of a page of 8 GiB from 0, which maps its addresses to themselves for reading and writing. -/
def widePage : TlbEnt := { root := 0, vbase := 0, size := 2 ^ 33, leaf := 0xF, leafAddr := 0x2000 }

/-- A module whose core 0 may fork that record: its tables map that page, and the granule of the root table holds an error. -/
def erringTable : State :=
  { State.reset with
    cores := [(0, { Core.reset with ctx := { Ctxt.start with sregs := [(1, 0x20000), (2, 1)] } })]
    mem := memCells 0 (natBytes 8 0x2001) ++ memCells 0x2000 (natBytes 8 widePage.leaf) ++ memCells 0x20000 joinTemplate
    bad := [0] }

/-- Every premise of a fork with a join counter but its template and its translation. -/
theorem erringTable_forks :
    (regReady erringTable 1 = true ∧ regReady erringTable 2 = true ∧ (regVal erringTable 1).toNat % 64 = 0 ∧
      accessesDone erringTable 0 = true) ∧
    ((regVal erringTable 2).toNat ≠ 0 ∧ (regVal erringTable 2).toNat ≤ 65536) ∧
    ((!wingSm (wingOf erringTable 0 (recClass joinTemplate)) || inStageManager erringTable) = true ∧
      programRoom (wingOf erringTable 0 (recClass joinTemplate)) (regVal erringTable 2).toNat = true) ∧
    (recWord joinTemplate 2 ≠ 0 ∧ dieHeld erringTable 0 [(0x10000, 8)] = false ∧ isBad erringTable 0x10000 8 = false) := by
  decide

theorem loadV_erringTable : loadV erringTable (regVal erringTable 1).toNat 64 = .ok joinTemplate := by decide +kernel

theorem xlate_erringTable : xlate erringTable 0 .cue 0 (recWord joinTemplate 2) true true = .ok (0x10000, [widePage]) := by decide

/-- The walk to the template meets the root table's error. -/
theorem readNotes_erringTable : readNotes erringTable (regVal erringTable 1).toNat 64 = [.act (.met [(0, 8)])] := by decide +kernel

/-- So does the walk to the join counter, which the fork notes too. -/
theorem exec_cueFork_erringTable : ∃ t, exec (.cueFork 1 2) erringTable = .next t ∧ t.issue.effs.length = 3 := ⟨_, rfl, by decide +kernel⟩

/-- Refutes O20: a fork with a join counter notes what the walk to the counter meets, beside what the read of the template meets. At `erringTable`,
where both walks read an entry that holds an error, its bundle takes three effects, and the statement gives it two. -/
theorem not_cueInstructionsComplete : ¬ Obligations.CueInstructionsComplete := by
  unfold Obligations.CueInstructionsComplete
  intro h
  obtain ⟨⟨ha, hb, haligned, hdone⟩, ⟨hn, hmax⟩, ⟨hmay, hroom⟩, hj, hheld, hgood⟩ := erringTable_forks
  obtain ⟨-, hcues, -⟩ := h erringTable 1 2
  obtain ⟨-, hforks⟩ := hcues ha hb haligned hdone
  obtain ⟨-, -, hcopies⟩ := hforks joinTemplate loadV_erringTable
  obtain ⟨-, hjoins⟩ := hcopies hn hmax hmay hroom
  obtain ⟨t, hexec, hlen⟩ := exec_cueFork_erringTable
  injection hexec.symm.trans (hjoins 0x10000 [widePage] hj xlate_erringTable hheld hgood) with ht
  rw [ht, noted_effs_length, readNotes_erringTable] at hlen
  exact absurd hlen (by decide)

/-! ### WAITA (R331, R378) -/

/-- WAITA stops with what its read at issue stops with, once all before that read has passed (R150, R331). -/
theorem execWaita_stops {s : State} {a b : Nat} (cc : Nat) {q : Nat × List TlbEnt} {st : Stop} (ha : regReady s a = true) (hb : regReady s b = true)
    (hwait : loadWait s (regVal s a).toNat 8 = .ok ()) (haligned : (regVal s a).toNat % 8 = 0)
    (hx : xlate s s.focus (ctx s).mode (rootPa (ctx s).droot) (regVal s a).toNat true false = .ok q)
    (hfault : waitFault (ctx s) (regVal s a).toNat = none) (hload : loadV s (regVal s a).toNat 8 = .error st) :
    execWaita a b cc s = .next (halted s st) := by
  have hwait' : loadWait s (sregOf (ctx s) a).toNat 8 = .ok () := hwait
  simp only [execWaita, freeRegs_free_two (regFree_of_ready ha) (regFree_of_ready hb), hwait', rdS_ready 0 ha, rdS_ready 1 hb,
    needAligned_ok haligned, hx, hfault, hload, ok_bind, error_bind, perform_next, halted]

/-- A module of a domain whose core 0 has register 1 name the first word of module 1, which has not answered a remote read in time. -/
def silentPeer : State :=
  { State.reset with
    cores := [(0, { Core.reset with noReply := true, ctx := { Ctxt.start with sregs := [(1, 31 * 2 ^ 48 + 2 ^ 43)] } })]
    house := { House.reset with dommask := 2 } }

/-- Every premise of a WAITA that meets its condition but the translation of its word; of what its read waits for there is nothing. -/
theorem silentPeer_waits :
    (regReady silentPeer 1 = true ∧ regReady silentPeer 0 = true ∧ (regVal silentPeer 1).toNat % 8 = 0) ∧
    (waitFault (ctx silentPeer) (regVal silentPeer 1).toNat = none ∧ acquirePending (cur silentPeer) = false ∧
      pendMeets (cur silentPeer) (2 ^ 42) 8 = false ∧ scopeHeld silentPeer 0 (2 ^ 42) 8 false (fun _ => true) = false ∧
      isBad silentPeer (2 ^ 42) 8 = false) ∧
    loadWait silentPeer (regVal silentPeer 1).toNat 8 = .ok () ∧
    (BitVec.ofNat 64 (physNat silentPeer (2 ^ 42) 8)).toInt = (regVal silentPeer 0).toInt := by
  decide

theorem xlate_silentPeer : xlate silentPeer 0 .cue 0 (regVal silentPeer 1).toNat true false = .ok (2 ^ 42, []) := by decide

theorem loadV_silentPeer : loadV silentPeer (regVal silentPeer 1).toNat 8 = .error (.held ⟨14, regVal silentPeer 1, none⟩ .noReply) := by
  decide

/-- Refutes O25: where another module has not answered in time, WAITA raises DATAERR as every read at issue does, also where the word would meet the
condition. At `silentPeer` every premise holds, the word and s0 are equal, and the slot stops. -/
theorem not_waitOnAddress : ¬ Obligations.WaitOnAddress := by
  unfold Obligations.WaitOnAddress
  intro h
  obtain ⟨⟨ha, hb, haligned⟩, ⟨hfault, hacquire, hpend, hscope, hgood⟩, hwait, hequal⟩ := silentPeer_waits
  obtain ⟨hmet, -⟩ := h silentPeer 1 0 0 (2 ^ 42) [] (by decide) ha hb haligned xlate_silentPeer hfault hacquire hpend hscope hgood
  have hstops : exec (.waita 1 0 0) silentPeer = _ := execWaita_stops 0 ha hb hwait haligned xlate_silentPeer hfault loadV_silentPeer
  injection (hmet (.inl ⟨rfl, hequal⟩)).symm.trans hstops with heq
  exact noted_ne_halted _ _ _ heq

end Sys2Proof.Machine
end

-- ==== copy commands: O40, O41, O42 ====

section

/-! SUPPORT. The courses of the K slots' commands at issue (R265-R281): the tests before typing, then each command on operands that pass. -/

namespace Sys2Proof.Machine

/-! ### Before typing (R51-R54, R150) -/

/-- The wait of a command's own reads comes between tests that pass without it. -/
theorem kBefore_wait {s : State} {rs : List Range} {regs : List Nat} {wait : Except Stop Unit} (h : kBefore s rs regs = .ok ()) (hw : wait = .ok ()) :
    kBefore s rs regs wait = .ok () := by
  subst hw
  exact h

/-- A read by a register that passes has nothing left to wait for (R150). -/
theorem loadWait_of_read {α : Type} {s : State} {k w n m : Nat} {f : Word → List Byte → Except Stop α} {r : α}
    (h : (do let a ← rdS s k w; needData s a.toNat m; let bs ← loadV s a.toNat n; f a bs) = .ok r) :
    loadWait s (regVal s w).toNat n = .ok () := by
  simp only [bind_ok_iff] at h
  obtain ⟨v, hv, _, _, bs, hload, _⟩ := h
  exact rdS_ok hv ▸ loadWait_of_loadV hload

/-- Nor have origins that a register other than s0 names (R270). -/
theorem originsWait_ok {s : State} {c : Nat} {p : List Nat × List Eff} (h : kOrigins s c = .ok p) (hc : c ≠ 0) :
    loadWait s (regVal s c).toNat 16 = .ok () := by
  simp only [kOrigins, if_neg hc] at h
  exact loadWait_of_read h

/-- What TLOAD and TSTORE wait for, where their window's record and their origins are read. -/
theorem transferWait_ok {s : State} {w c : Nat} {p : List Byte × List Eff} {q : List Nat × List Eff} (hrec : recRead s (regVal s w).toNat = .ok p)
    (horig : kOrigins s c = .ok q) :
    (do recWait s (sregOf (ctx s) w).toNat; if c ≠ 0 then loadWait s (sregOf (ctx s) c).toNat 16 : Except Stop Unit) = .ok () := by
  have hwait : recWait s (sregOf (ctx s) w).toNat = .ok () := (recRead_ok hrec).1
  rw [hwait, ok_bind]
  split
  · exact originsWait_ok horig ‹_›
  · rfl

/-! ### Typed and indexed transfers (R270, R272) -/

theorem afterBound_ok (es fs : List Eff) (loc : Local) : afterBound es (.ok (loc, .ok fs)) = .ok (loc, .ok fs) := rfl

/-- A field of the tile that equals the window's passes, where the turned form asks no more than the window has. -/
theorem field_agrees {tr a b n : Nat} (h : a = b) (hturned : tr = 1 → b = n) : (a == b && (!(tr == 1) || b == n)) = true := by
  by_cases ht : tr = 1
  · simp [ht, h, hturned ht]
  · simp [ht, h]

/-- The layouts agree: the same ones, accumulator rows for ROW, and in the turned form rows and columns of either (R270). -/
theorem layout_agrees {tr a b : Nat} (hplain : tr ≠ 1 → a = b ∨ (a = 3 ∧ b = 0)) (hturned : tr = 1 → b ≤ 1 ∧ (a ≤ 1 ∨ a = 3)) :
    (if (tr == 1) = true then decide (b ≤ 1) && (decide (a ≤ 1) || a == 3) else a == b || (a == 3 && b == 0)) = true := by
  by_cases ht : tr = 1
  · simpa [ht] using hturned ht
  · simpa [ht] using hplain ht

/-- Settles O40: both directions by their common course; the turned form differs in the agreement and in the order of the extents. -/
theorem tileTransfersIssue : Obligations.TileTransfersIssue := by
  unfold Obligations.TileTransfersIssue
  dsimp only
  intro s t w c g tr red sc sig o on rb fill r x e hw hc hsig horig htype hread hrec hrank hfmt hscale hplain hturned hexts he hfit hwin hbanks
  have hrankOk := field_agrees hrank fun h => have ⟨hone, _⟩ := hturned h; hone
  have hlayoutOk := layout_agrees hplain fun h => have ⟨_, hwin, htile, _⟩ := hturned h; ⟨hwin, htile⟩
  have hscaleOk := field_agrees hscale fun h => have ⟨_, _, _, hnone⟩ := hturned h; hnone
  have course (i : Instr) (red src : Nat) (load : Bool) (hsrc : (if load then (regVal s w).toNat else 0) = src)
      (hbefore : kBefore s (kRange (tileOf (ctx s) t) load) [w, c, g] = .ok ())
      (hred : red = 0 ∨ kReduces (twFmt (tileOf (ctx s) t).tw.toNat) (twScale (tileOf (ctx s) t).tw.toNat) = true) :
      performBound s (kTyped s i t w c g (tr == 1) red load) = .next (noted s (bindEffs x.2 ++ fill ++ on ++ [.kcmd (kEngine s)
        { kCmd s i sig with
          tile := kOpnd (tileOf (ctx s) t) e, orig := o
          wrec := recConst rb ((List.range 4).map fun k => if r.rank < k then 0 else (if tr = 1 then swap01 x.1 else x.1).getD k 1)
          src := src }])) := by
    have hwaited := kBefore_wait hbefore (transferWait_ok hread horig)
    rw [List.append_assoc, List.append_assoc, ← List.append_assoc fill]
    refine performBound_ok ?_
    simp only [kTyped, hwaited, rdS_ready 1 hw, rdS_ready 2 hc, hsig, htype, hread, hrec, horig, afterRead_ok, need_ok hrankOk,
      need_ok (beq_iff_eq.mpr hfmt), need_ok hlayoutOk, need_ok hscaleOk, hexts,
      ite_check_ok fun hne => need_ok (hred.resolve_left hne), he, hfit, ok_bind]
    simp only [beq_iff_eq, hwin, hbanks, hsrc, ok_bind, pure_ok, afterBound_ok]
  exact ⟨fun hbefore => course _ 0 _ true rfl hbefore (.inl rfl), course _ red _ false rfl⟩

/-- Settles O41: the three transfers by their common course. -/
theorem indexedTransfersIssue : Obligations.IndexedTransfersIssue := by
  unfold Obligations.IndexedTransfersIssue
  dsimp only
  intro s t w ix g red sc sig rb fill r k1 k2 e ie e0 e1 hw hsig htype hread hrec hixType hwinRank hwinLayout hwinScale hrank hlayout hixRank
    hixLayout hixFmt hfmt hk1 hk2 he he0 he1 hie hfit hixFit hwin hbanks
  have hlayoutOk : (twLayout (tileOf (ctx s) t).tw.toNat == 0 || twLayout (tileOf (ctx s) t).tw.toNat == 3) = true := by simpa using hlayout
  have hixFmtOk : (twFmt (tileOf (ctx s) ix).tw.toNat == 8 || twFmt (tileOf (ctx s) ix).tw.toNat == 7) = true := by simpa using hixFmt
  have course (i : Instr) (red : Nat) (load : Bool)
      (hbefore : kBefore s (kRange (tileOf (ctx s) t) load ++ kRange (tileOf (ctx s) ix) false) [w, g] = .ok ())
      (hred : red = 0 ∨ kReduces (twFmt (tileOf (ctx s) t).tw.toNat) (twScale (tileOf (ctx s) t).tw.toNat) = true) :
      performBound s (kIndexed s i t w ix g red load) = .next (noted s (bindEffs k2 ++ fill ++ [.kcmd (kEngine s)
        { kCmd s i sig with
          tile := kOpnd (tileOf (ctx s) t) e, idx := kOpnd (tileOf (ctx s) ix) ie, wrec := recConst rb [e0, e1, 0, 0] }])) := by
    have hwait : recWait s (sregOf (ctx s) w).toNat = .ok () := (recRead_ok hread).1
    rw [List.append_assoc]
    refine performBound_ok ?_
    simp only [kIndexed, kBefore_wait hbefore hwait, rdS_ready 1 hw, hsig, htype, hread, hrec, hixType, need_ok (beq_iff_eq.mpr hwinRank),
      need_ok (beq_iff_eq.mpr hwinLayout), need_ok (beq_iff_eq.mpr hwinScale), need_ok (beq_iff_eq.mpr hrank), need_ok hlayoutOk,
      need_ok (beq_iff_eq.mpr hixRank), need_ok (beq_iff_eq.mpr hixLayout), need_ok hixFmtOk, need_ok (beq_iff_eq.mpr hfmt), hk1, hk2,
      ite_check_ok fun hne => need_ok (hred.resolve_left hne), he, he0, he1, hie, hfit, hixFit, hwin, hbanks, ok_bind, pure_ok, afterBound_ok]
  exact ⟨fun hbefore => ⟨course _ 0 true hbefore (.inl rfl), course _ 0 true hbefore (.inl rfl)⟩, course _ red false⟩

/-! ### The other copy commands (R273-R281) -/

/-- DRAIN with both engines in order goes on once everything before it is done, and else waits (R276). -/
theorem execDrain_unfaulted {s : State} (sc : Nat) (h0 : engineFault (ctx s) 0 = none) (h1 : engineFault (ctx s) 1 = none) :
    execDrain sc s = .next (if (ctx s).kq0 = [] ∧ (ctx s).kq1 = [] ∧ storesDone s s.focus sc = true
      then noted s [.act (.observe (min (sc + 1) 3))] else halted s (.stall .wait)) := by
  simp only [execDrain, h0, h1, Bool.and_eq_true, List.isEmpty_iff, and_assoc]
  split
  · exact perform_ok rfl
  · exact perform_error rfl

/-- Checks that pass one by one pass in a row. -/
theorem forM_ok {α : Type} {f : α → Except Stop Unit} {l : List α} (h : (l.all fun a => passes (f a)) = true) : l.forM f = .ok () := by
  induction l with
  | nil => rfl
  | cons a l ih =>
    simp only [List.all_cons, Bool.and_eq_true] at h
    obtain ⟨ha, hl⟩ := h
    show (f a >>= fun _ => l.forM f) = .ok ()
    rw [ok_of_passes ha, ok_bind, ih hl]

section
variable {s : State} {t w g : Nat} {sig : Option Nat} (hsig : kSig s g = .ok sig)
include hsig

/-! ### Commands with a tile and a header or a record in memory (R274, R279) -/

theorem execTrecv_enters {reg : Tile} {bs : List Byte} {ty : BitVec 128} {loc : Local} {e : List Nat} (hreg : tileOf (ctx s) t = reg)
    (hw : regReady s w = true) (hbefore : kBefore s (kRange reg true) [w, g] = .ok ()) (haligned : (regVal s w).toNat % 64 = 0)
    (hload : loadV s (regVal s w).toNat 64 = .ok bs) (hgood : mailboxBad bs = none)
    (hty : ty = BitVec.ofNat 128 (bytesNat ((bs.drop 0x10).take 16))) (htype : checkType s [] 0 reg.tw = .ok ())
    (hheader : checkType s [] 1 ty = .ok ())
    (hsame : sameType s reg.tw.toNat (twRank ty.toNat) (twFmt ty.toNat) (twLayout ty.toNat) (twScale ty.toNat) = .ok ())
    (hloc : unifyExts s 0 reg.tw.toNat (fun k => extOf (twExt ty.toNat k)) 4 [] = .ok loc)
    (he : extsNeeded s loc 0 reg.tw = .ok e) (hfit : checkFit s 0 reg.tw e reg.bd = .ok ()) (hbanks : banksHeld s reg.bd = .ok ()) :
    execTrecv t w g s = .next (noted s (bindEffs loc ++ readNotes s (regVal s w).toNat 64 ++
      [.kcmd (kEngine s) { kCmd s (.trecv t w g) sig with tile := kOpnd reg e, dst := (regVal s w).toNat }])) := by
  subst hreg hty
  have hwait : loadWait s (sregOf (ctx s) w).toNat 64 = .ok () := loadWait_of_loadV hload
  rw [List.append_assoc]
  refine performBound_ok ?_
  simp only [kBefore_wait hbefore hwait, rdS_ready 1 hw, hsig, needData_ok (loadV_lt (by decide) hload) haligned, hload, hgood, htype, hheader,
    hsame, hloc, he, hfit, hbanks, ok_bind, pure_ok, afterBound_ok]

section
variable {a : Nat} {bs : List Byte} {ns : List Eff} (hrec : routeRecord s w = .ok (a, bs, ns))
include hrec

theorem execRouteClose_enters (hbefore : kBefore s [] [w, g] = .ok ()) :
    execRouteClose w g s = .next (noted s (ns ++ [.kcmd (kEngine s) { kCmd s (.routeClose w g) sig with dst := a, wrec := bs }])) := by
  have hwait : loadWait s (sregOf (ctx s) w).toNat 64 = .ok () := loadWait_of_read hrec
  refine perform_ok ?_
  simp only [kBefore_wait hbefore hwait, hsig, hrec, ok_bind, pure_ok]

theorem execRoute_enters {reg : Tile} {loc : Local} {e : List Nat} (hreg : tileOf (ctx s) t = reg)
    (hbefore : kBefore s (kRange reg false) [w, g] = .ok ()) (htype : checkType s [] 0 reg.tw = .ok ()) (hrank : twRank reg.tw.toNat = 1)
    (hfmt : twFmt reg.tw.toNat = 0x12 ∨ twFmt reg.tw.toNat = 0x0F) (hlayout : twLayout reg.tw.toNat = 0) (hscale : twScale reg.tw.toNat = 0)
    (hloc : unify s [] 0 5 (extOf (twExt reg.tw.toNat 1)) (.const (routeE bs)) = .ok loc) (he : extsNeeded s loc 0 reg.tw = .ok e)
    (hfit : checkFit s 0 reg.tw e reg.bd = .ok ()) :
    execRoute t w g s = .next (noted s (ns ++ bindEffs loc ++
      [.kcmd (kEngine s) { kCmd s (.route t w g) sig with tile := kOpnd reg e, dst := a, wrec := bs }])) := by
  subst hreg
  have hwait : loadWait s (sregOf (ctx s) w).toNat 64 = .ok () := loadWait_of_read hrec
  have hfmtOk : (twFmt (tileOf (ctx s) t).tw.toNat == 0x12 || twFmt (tileOf (ctx s) t).tw.toNat == 0x0F) = true := by simpa using hfmt
  refine perform_ok ?_
  simp only [kBefore_wait hbefore hwait, hsig, hrec, htype, need_ok (beq_iff_eq.mpr hrank), need_ok hfmtOk, need_ok (beq_iff_eq.mpr hlayout),
    need_ok (beq_iff_eq.mpr hscale), hloc, he, hfit, ok_bind, pure_ok, afterRead_ok]

end
end

/-! ### Engine images (R277) -/

section
variable {s : State} {w : Nat} (hw : regReady s w = true) (haligned : (regVal s w).toNat % 64 = 0)
include hw haligned

theorem execKsave_saves {ps : List (Nat × Nat)} {met : List (Nat × Nat)}
    (hx : xlateSpan s s.focus (ctx s).mode (rootPa (ctx s).droot) (regVal s w).toNat 4160 false true = .ok ps)
    (hposted : postedLeft (cur s) (kEngine s) 3 (fun _ => true) = false) (hwaits : imageWaits s (regVal s w).toNat true = false)
    (hmet : issueNotes s (regVal s w).toNat 4160 false true = met) :
    execKsave w s = .next (noted s ((if met = [] then [] else [.act (.met met)]) ++ [.act (.ksave (kEngine s) ps)])) := by
  subst hmet
  have hidle : (!(postedLeft (cur s) (kEngine s) 3 (fun _ => true) || imageWaits s (sregOf (ctx s) w).toNat true)) = true :=
    congrArg not (Bool.or_eq_false_iff.mpr ⟨hposted, hwaits⟩)
  refine perform_ok ?_
  simp only [freeRegs_free (regFree_of_ready hw), waitFor_ok hidle, rdS_ready 1 hw, needData_ok (xlateSpan_lt (by decide) hx) haligned,
    show kImageBytes = 4160 from rfl, hx, List.isEmpty_iff, ok_bind, pure_ok]

theorem execKresume_resumes {bs : List Byte} {cs : List KCmd} (hempty : kQueue (ctx s) (kEngine s) = [])
    (hwaits : imageWaits s (regVal s w).toNat false = false) (hload : loadV s (regVal s w).toNat 4160 = .ok bs) (hgood : kImageBad s bs = none)
    (hcs : cs = (List.range (bytesNat ((bs.drop 8).take 4))).map fun i => kOfRecord s bs (0x40 + 256 * i))
    (hclash : noClash s (cs.flatMap kRanges) = .ok ()) (htouch : touchRanges s (cs.flatMap kRanges) = .ok ())
    (hbanks : (cs.all fun c => passes (banksHeld s c.tile.bd)) = true) :
    execKresume w s = .next (noted s (readNotes s (regVal s w).toNat 4160 ++ [.act (.kresume (kEngine s) cs)])) := by
  subst hcs
  have hidle : ((kQueue (ctx s) (kEngine s)).isEmpty && !imageWaits s (sregOf (ctx s) w).toNat false) = true :=
    Bool.and_eq_true_iff.mpr ⟨List.isEmpty_iff.mpr hempty, congrArg not hwaits⟩
  refine perform_ok ?_
  simp only [freeRegs_free (regFree_of_ready hw), waitFor_ok hidle, rdS_ready 1 hw, needData_ok (loadV_lt (by decide) hload) haligned,
    show kImageBytes = 4160 from rfl, hload, hgood, hclash, htouch, forM_ok hbanks, ok_bind, pure_ok, afterRead_ok]

end

/-- Settles O42: each command by its checks in their order; the two prefetches share theirs. -/
theorem copyCommandsIssue : Obligations.CopyCommandsIssue := by
  unfold Obligations.CopyCommandsIssue
  dsimp only
  refine ⟨fun s t l w c g sc sig e loc hsig hw => ⟨?copy, ?send, ?receive, ?signal, ?prefetch, ?route, execDrain_unfaulted sc⟩,
    fun s w hw haligned => ⟨fun ps hx hposted hwaits => execKsave_saves hw haligned hx hposted hwaits rfl,
      fun bs hempty hwaits hload hgood => execKresume_resumes hw haligned hempty hwaits hload hgood rfl⟩⟩
  case copy =>
    intro hbefore hl hc hlen
    refine perform_ok ?_
    simp only [hbefore, rdS_ready 0 hl, rdS_ready 1 hw, rdS_ready 2 hc, hsig, if_neg (Nat.not_le.mpr hlen), ok_bind, pure_ok, List.nil_append]
  case send =>
    intro hbefore haligned htype he hfit hbanks
    refine perform_ok ?_
    simp only [hbefore, rdS_ready 1 hw, hsig, needAligned_ok haligned, htype, he, hfit, hbanks, ok_bind, pure_ok, List.nil_append]
  case receive =>
    intro bs hbefore haligned hload hgood htype hheader hrank hfmt hlayout hscale
    exact execTrecv_enters hsig rfl hw hbefore haligned hload hgood rfl htype hheader (sameType_ok s hrank hfmt hlayout hscale)
  case signal =>
    intro hbefore
    refine perform_ok ?_
    simp only [hbefore, rdS_ready 1 hw, hsig, ok_bind, pure_ok, List.nil_append]
  case prefetch =>
    intro hbefore hc haligned
    have course (i : Instr) : kPrefetch s i w c g = .ok [.kcmd (kEngine s)
        { kCmd s i sig with value := (regVal s c).toNat % 8192 + 1, dst := (regVal s w).toNat, src := (regVal s c).toNat }] := by
      simp only [kPrefetch, hbefore, rdS_ready 1 hw, rdS_ready 2 hc, hsig, needAligned_ok haligned, ok_bind, pure_ok]
    exact ⟨perform_ok (course _), perform_ok (course _)⟩
  case route => exact fun a bs ns hrec => ⟨execRouteClose_enters hsig hrec, execRoute_enters hsig hrec rfl⟩

end Sys2Proof.Machine
end

-- ==== pit commands: O43 ====

section

/-! SUPPORT. The common course of the pit commands at issue (R286-R288), and what a full queue leaves of them (R53). -/

namespace Sys2Proof.Machine

section
variable {s : State} {w g : Nat} {sig : Option Nat} {fs : List Byte → List PitField} {bs : List Byte} {ns : List Eff}
  (hsig : kSig s g = .ok sig) (hrec : pitRecord s w fs = .ok (bs, ns)) (i : Instr)
include hsig hrec

/-- The compute forms and PIT.XLOAD enter with their record and their tile. -/
theorem pitIssue_tile {t fmt e1 : Nat} {write : Bool} {e0 : List Byte → Option Nat} {op : Opnd} {loc : Local}
    (hbefore : kBefore s (kRange (tileOf (ctx s) t) write) [w, g] = .ok ()) (htile : pitTile s t fmt e1 (e0 bs) = .ok (op, loc)) :
    pitIssue s i t w g write fs (some (fmt, e1, e0)) =
      .ok (ns ++ bindEffs loc ++ [.kcmd (kEngine s) { kCmd s i sig with tile := op, wrec := bs ++ natBytes 64 0 }]) := by
  have hwait : loadWait s (sregOf (ctx s) w).toNat 64 = .ok () := loadWait_of_read hrec
  simp only [pitIssue, Option.isSome_some, if_true, kBefore_wait hbefore hwait, hsig, hrec, htile, ok_bind, pure_ok, afterRead_ok]

/-- PIT.XLOCK and PIT.XUNLOCK enter with their record alone. -/
theorem pitIssue_record (hbefore : kBefore s [] [w, g] = .ok ()) :
    pitIssue s i 0 w g false fs none =
      .ok (ns ++ [.kcmd (kEngine s) { kCmd s i sig with tile := ⟨0, 0⟩, wrec := bs ++ natBytes 64 0 }]) := by
  have hwait : loadWait s (sregOf (ctx s) w).toNat 64 = .ok () := loadWait_of_read hrec
  simp only [pitIssue, Option.isSome_none, Bool.false_eq_true, if_false, kBefore_wait hbefore hwait, hsig, hrec, ok_bind, pure_ok, bindEffs,
    List.map_nil, List.append_nil]

end

/-! ### A queue with room (R53) -/

section
variable {s : State} {rs : List Range} {regs : List Nat}

theorem kq_room_of_kBefore {wait : Except Stop Unit} (h : kBefore s rs regs wait = .ok ()) : (kQueue (ctx s) (kEngine s)).length < 16 := by
  simp only [kBefore, bind_ok_iff] at h
  obtain ⟨_, _, _, _, _, _, _, _, hroom⟩ := h
  by_contra hfull
  simp [kRoom, Nat.not_lt.mp hfull, stopStall] at hroom

/-- A command that begins with those tests and notes its effects has found room. -/
theorem kq_room_of_perform {wait : Except Stop Unit} {f : Unit → Except Stop (List Eff)} {es : List Eff}
    (h : perform s (kBefore s rs regs wait >>= f) = .next (noted s es)) : (kQueue (ctx s) (kEngine s)).length < 16 := by
  obtain ⟨_, h⟩ := ok_of_perform_noted h
  obtain ⟨_, hbefore, _⟩ := (bind_ok_iff ..).mp h
  exact kq_room_of_kBefore hbefore

end

/-- Settles O43: the commands with a tile, those with a record alone, the fence; and the tests that each begins with, whose last is the queue's. -/
theorem pitCommandsIssue : Obligations.PitCommandsIssue := by
  unfold Obligations.PitCommandsIssue
  dsimp only
  intro s t w g sig bs ns op loc hsig
  refine ⟨fun hbefore => ⟨fun hrec htile => ?scaleadd, fun hrec htile => ?atomadd, fun hrec htile => ?xload⟩,
    fun hbefore hrec htile => ?attn, fun hbefore hrec => ⟨?xlock, ?xunlock⟩, fun hbefore => ?fence, fun i es hi h => ?room⟩
  case scaleadd => exact perform_ok (pitIssue_tile hsig hrec _ (e0 := fun bs => some (bytesNat (bs.take 4))) hbefore htile)
  case atomadd => exact perform_ok (pitIssue_tile hsig hrec _ (e0 := fun _ => none) hbefore htile)
  case xload => exact perform_ok (pitIssue_tile hsig hrec _ (e0 := fun _ => none) hbefore htile)
  case attn => exact perform_ok (pitIssue_tile hsig hrec _ (e0 := fun _ => some 2) hbefore htile)
  case xlock => exact perform_ok (pitIssue_record hsig hrec _ hbefore)
  case xunlock => exact perform_ok (pitIssue_record hsig hrec _ hbefore)
  case fence =>
    refine perform_ok ?_
    simp only [hbefore, hsig, ok_bind, pure_ok]
  case room =>
    simp only [List.mem_cons, List.not_mem_nil, or_false] at hi
    obtain rfl | rfl | rfl | rfl | rfl | rfl | rfl := hi <;> exact kq_room_of_perform h

end Sys2Proof.Machine
end
